-- ==== Sys2Proof/Word.lean ====
section
/-!
DEFINITION. The words of the DZ3256 and the plain table type in which State keeps its numbered records.
-/

namespace Sys2Proof

/-- A word is 32 bits (00_scope.md, Conventions). -/
abbrev Word := BitVec 32

/-- A sample is 16-bit two's complement (00_scope.md, Conventions; R74). -/
abbrev Sample := BitVec 16

/-- The frame counter is a 48-bit count that continues at 0 after 2^48 - 1 (R136). -/
abbrev Frame := BitVec 48

/-- The byte enables of a processor access: bit i enables bits 8i+7..8i of the word (R126; log 29). -/
abbrev ByteEnables := BitVec 4

/-- Numbered records, kept as a list of (index, record) pairs with rising indices in which only the records
that differ from the record's cold-start value are listed (Machine/Table.lean). -/
abbrev Table (α : Type) := List (Nat × α)

end Sys2Proof
end

