-- ==== Sys2Proof/Syntax.lean ====
section
/-!
DEFINITION. The commands of the DZ3256: one constructor per row of spec/opcode_table.json. Each row is one whole,
indivisible step of the part (95_what_each_step_holds.md). Operands are what comes from outside with the step; a row
for a fetched request has none, since its sixteen words were fetched into State.
-/

namespace Sys2Proof

/-- The commands of the block, in the table's order. -/
inductive Instr where
  /-- COLD_START (R170): power-on or the reset input, with the aperture-select straps (R125). -/
  | coldStart (straps : Fin 16)
  /-- RECOVER_INPUT (R177). -/
  | recoverInput
  /-- FRAME_START (R76): the frame's input samples by 64 x highway + slot (R74); a slot not listed carries 0. -/
  | frameStart (inputs : Table Sample)
  /-- REQUEST_FETCH (R147). -/
  | requestFetch
  /-- NOP (R153). -/
  | nop
  /-- SELECT (R20, R21). -/
  | select
  /-- ANSWER (R22). -/
  | answer
  /-- PRIVACY (R23). -/
  | privacy
  /-- FORCE_RELEASE (R24). -/
  | forceRelease
  /-- LINE_SERVICE (R25, R26). -/
  | lineService
  /-- SIGNAL (R50). -/
  | signal
  /-- CIRCUIT_RESET (R51). -/
  | circuitReset
  /-- RELEASE (R56, R57). -/
  | release
  /-- HOLD (R58). -/
  | hold
  /-- RETRIEVE (R59, R60). -/
  | retrieve
  /-- JOIN (R61). -/
  | join
  /-- INTERCOM_CALL (R67, R68). -/
  | intercomCall
  /-- INTERCOM_ANSWER (R70). -/
  | intercomAnswer
  /-- SPEAKER_SET (R93). -/
  | speakerSet
  /-- SPEAKER_VOLUME (R94). -/
  | speakerVolume
  /-- PTT (R95). -/
  | ptt
  /-- MEASURE_MODE (R114). -/
  | measureMode
  /-- SET_ATTENTION (R160). -/
  | setAttention
  /-- QUIESCE (R179). -/
  | quiesce
  /-- RESUME (R180). -/
  | resume
  /-- RESTART (R181). -/
  | restart
  /-- BAD_CODE (R149). -/
  | badCode
  /-- RESTART_DRAIN_END (R177). -/
  | restartDrainEnd
  /-- START_WORD (R133, R171): a processor write to offset 0. -/
  | startWord (data : Word) (be : ByteEnables)
  /-- DESCRIPTOR_CHECK (R172, R173). -/
  | descriptorCheck
  /-- LOAD_ENTRY_READ (R174, R175). -/
  | loadEntryRead
  /-- LOAD_END (R176). -/
  | loadEnd
  /-- LINE_COMMIT (R2): a processor write to word 0 of a line entry. -/
  | lineCommit (line : Fin 256) (data : Word) (be : ByteEnables)
  /-- POSITION_COMMIT (R62): a processor write to word 0 of a position entry. -/
  | positionCommit (position : Fin 32) (data : Word) (be : ByteEnables)
  /-- BRIDGE_COMMIT (R87): a processor write to word 0 of a bridge entry. -/
  | bridgeCommit (bridge : Fin 24) (data : Word) (be : ByteEnables)
  /-- CONFIG_WORD_WRITE (R130): a processor write to words 1 onward of a multi-word configuration entry. -/
  | configWordWrite (offset : Fin 65536) (data : Word) (be : ByteEnables)
  /-- APPEARANCE_WRITE (R12): a processor write to a key word. -/
  | appearanceWrite (position : Fin 32) (key : Fin 128) (data : Word) (be : ByteEnables)
  /-- RECORDER_CONFIG_WRITE (R97): a processor write to the first word of a recorder entry. -/
  | recorderConfigWrite (channel : Fin 128) (data : Word) (be : ByteEnables)
  /-- REQ_TAIL (R132, R144): a processor write to offset 0x100. -/
  | reqTail (data : Word) (be : ByteEnables)
  /-- EVT_READ (R132, R157): a processor write to offset 0x101. -/
  | evtRead (data : Word) (be : ByteEnables)
  /-- FLT_READ (R132, R163): a processor write to offset 0x102. -/
  | fltRead (data : Word) (be : ByteEnables)
  /-- PROTECTED_WRITE (R134): a processor write to an OWNED or OVERLAY offset. -/
  | protectedWrite (offset : Fin 65536) (data : Word) (be : ByteEnables)
  /-- MEMORY_WRITE (R125, R127): a processor write to any other word, by its SRAM word address. -/
  | memoryWrite (address : Nat) (data : Word) (be : ByteEnables)
  /-- FRAME_COUNT_HIGH_READ (R136): a processor read of offset 0x42. -/
  | frameCountHighRead (be : ByteEnables)
  /-- FRAME_COUNT_LOW_READ (R136): a processor read of offset 0x43. -/
  | frameCountLowRead (be : ByteEnables)
  /-- SUMMARY_READ (R161): a processor read of offset 0x47. -/
  | summaryRead (be : ByteEnables)
  /-- FLT_HEAD_READ (R162): a processor read of offset 0x46. -/
  | fltHeadRead (be : ByteEnables)
  /-- LOST_COUNT_READ (R162): a processor read of offset 0x49. -/
  | lostCountRead (be : ByteEnables)
  /-- SHORTAGE_READ (R162): a processor read of offset 0x4A. -/
  | shortageRead (be : ByteEnables)
  /-- PWQ_ENTRY_WRITE (R137). -/
  | pwqEntryWrite
  /-- MEASUREMENT_UPDATE_START (R122, R123). -/
  | measurementUpdateStart
  /-- MEASUREMENT_READ_DONE (R123). -/
  | measurementReadDone
  /-- SEIZE_ACK (R43), an inbound message. -/
  | seizeAck (circuit : Fin 256)
  /-- RING_DETECT (R41, R42), an inbound message. -/
  | ringDetect (circuit : Fin 256)
  /-- FAR_ANSWER (R43), an inbound message. -/
  | farAnswer (circuit : Fin 256)
  /-- FAR_CLEAR (R44), an inbound message. -/
  | farClear (circuit : Fin 256)
  /-- CIRCUIT_DOWN (R45), an inbound message. -/
  | circuitDown (circuit : Fin 256)
  /-- CIRCUIT_UP (R46), an inbound message. -/
  | circuitUp (circuit : Fin 256)
  /-- RESET_DONE (R46), an inbound message. -/
  | resetDone (circuit : Fin 256)
  /-- SEIZE (R34): the end of a SEIZE transmission. -/
  | seize
  /-- RING_ON (R34): the end of a RING_ON transmission. -/
  | ringOn
  /-- RING_OFF (R34): the end of a RING_OFF transmission. -/
  | ringOff
  /-- RELEASE_MESSAGE (R35): the end of a RELEASE transmission. -/
  | releaseMessage
  /-- RESET (R34): the end of a RESET transmission. -/
  | reset
  /-- CADENCE_ON (R37): expiry of a line's CADENCE_ON timer. -/
  | cadenceOn (line : Fin 256)
  /-- CADENCE_OFF (R37): expiry of a line's CADENCE_OFF timer. -/
  | cadenceOff (line : Fin 256)
  /-- BURST (R50): expiry of a line's BURST timer. -/
  | burst (line : Fin 256)
  /-- ACK_WAIT (R39): expiry of a line's ACK_WAIT timer. -/
  | ackWait (line : Fin 256)
  /-- NO_ANSWER (R37): expiry of a line's NO_ANSWER timer. -/
  | noAnswer (line : Fin 256)
  /-- RING_IN (R41): expiry of a line's RING_IN timer. -/
  | ringIn (line : Fin 256)
  /-- GUARD (R18): expiry of a line's guard. -/
  | guard (line : Fin 256)
  /-- INTERCOM_TIMER (R71): expiry of an intercom call's timer. -/
  | intercomTimer (call : Fin 16)
deriving DecidableEq, Repr

end Sys2Proof
end

