-- ==== Sys2Proof/Decode.lean ====
section
/-!
DEFINITION. Reading a command from a word of the opcode table. No row of spec/opcode_table.json gives bits: the part has no instruction
words, so no word spells a command (log 30).
-/

namespace Sys2Proof

/-- The command that a word of `nbits` bits spells: none, as no row gives bits (log 30). -/
def decodeTableWord (_nbits _w : Nat) : Option Instr := none

end Sys2Proof
end

