-- ==== Sys2Proof/Config.lean ====
section
/-!
DEFINITION. What the manual fixes for every DZ3256: durations in frames, sizes, and the one value the model gives to
memory that nothing has written. No rule of the manual leaves the result of an operation undefined, so there is no
free value here.
-/

namespace Sys2Proof.Config

/-- What a byte of the SRAM that nothing has written reads as. DESIGN CHOICE (log 1), unsafe. -/
def unlistedByte : BitVec 8 := 0#8

/-- Durations in frames (R36, R18, R68, R102). -/
def cadenceOnFrames : Nat := 16000
def cadenceOffFrames : Nat := 32000
def burstFrames : Nat := 8000
def ackWaitFrames : Nat := 2000
def guardFrames : Nat := 8000
def framesPerSecond : Nat := 8000
def intercomFrames : Nat := 240000
def lingerFrames : Nat := 16000

/-- The posted write queue holds at most 16 entries; the arbiter enters DRAIN at 12 and NORMAL at 8 (R137, R138). -/
def pwqSize : Nat := 16
def drainDepth : Nat := 12
def normalDepth : Nat := 8

/-- The Request Engine fetches only with more than 8 free event entries (R146). -/
def roomNeeded : Nat := 8

end Sys2Proof.Config
end

