-- ==== Sys2Proof/Machine/State.lean ====
section
/-!
DEFINITION. The state of the DZ3256, grouped by the block that owns each piece, and its value at cold start.
Everything is plain data. Tables list only the records that differ from their cold-start value (`….cold`).
-/

namespace Sys2Proof.Machine

/-! ## Names -/

/-- Part states (R169). -/
inductive PartState where
  | waiting | loading | running | quiesced | lockdown
deriving DecidableEq, Repr

/-- Causes of OUT_OF_SERVICE (R5). -/
inductive OosCause where
  | admin | noPath
deriving DecidableEq, Repr

/-- Line states (R5). -/
inductive LineState where
  | outOfService (cause : OosCause)
  | idle | ringingIn | calling | connected | held | clearing
deriving DecidableEq, Repr

/-- Line kinds (R1); `unset` is the kind of the null entry, none of the three (R174). -/
inductive LineKind where
  | unset | autoRingdown | manualRingdown | nailed
deriving DecidableEq, Repr

/-- Record levels of lines (R1) and levels of ports (R99). -/
inductive Level where
  | none | wanted | required
deriving DecidableEq, Repr

/-- Modes of a participant (R7). -/
inductive Mode where
  | active | hold
deriving DecidableEq, Repr

/-- A handset of a position (R184). -/
structure Party where
  pos : Nat
  hs  : Nat
deriving DecidableEq, Repr

/-- Causes of LINE_STATE (R19). -/
inductive StateCause where
  | request | far | timer | noPath | load
deriving DecidableEq, Repr

/-- Release causes of LINE_RELEASED (R19). -/
inductive ReleaseCause where
  | localEnd | far | noAnswer | forced | lost
deriving DecidableEq, Repr

/-- Results of a request (R149, section 8.6). -/
inductive Result where
  | ok | noChange | badCode | badPosition | positionOff | badHandset | badParam | emptyKey | access | privateLine
  | lineBusy | lineOos | noPath | noRecorder | stackFull | notHeld | noCurrent | notHoldable | quiesced | clearing
  | notAlerting | noIcm
deriving DecidableEq, Repr

/-- Fault codes (R164). -/
inductive FaultCode where
  | ownedWrite | indexWrite | configLoad | signalUnknown | signalState
deriving DecidableEq, Repr

/-! ## Line Controller -/

/-- The fields of a line's configuration that a call copy holds (R3). -/
structure CallCopy where
  kind           : LineKind
  accessClass    : Nat
  shared         : Bool
  bargeAllowed   : Bool
  privacyDefault : Bool
  path           : List Nat
deriving DecidableEq, Repr

/-- The applied configuration of a line (R1). The path group lists the circuits at path positions 0, 1, …; its
length is the path count. -/
structure LineConfig where
  enabled       : Bool
  call          : CallCopy
  recordLevel   : Level
  measureEnable : Bool
deriving DecidableEq, Repr

/-- The null line entry (R174): also the applied copy before the first load (R1). -/
def LineConfig.null : LineConfig :=
  { enabled := false
    call := { kind := .unset, accessClass := 0, shared := false, bargeAllowed := false, privacyDefault := false, path := [] }
    recordLevel := .none, measureEnable := false }

/-- An entry of a participant list (R7). -/
structure Participant where
  party : Party
  mode  : Mode
deriving DecidableEq, Repr

/-- Purposes of a line's signal timer (R36). -/
inductive SignalPurpose where
  | cadenceOn | cadenceOff | burst
deriving DecidableEq, Repr

/-- Purposes of a line's state timer (R36). -/
inductive StatePurpose where
  | ackWait | noAnswer | ringIn | guard
deriving DecidableEq, Repr

/-- The record of a line (R1 to R7, R36). -/
structure LineRec where
  applied        : LineConfig
  callCopy       : Option CallCopy
  state          : LineState
  pendingAdmin   : Bool
  /-- PRIVACY is set exactly while there is a setter (R6, R10). -/
  setter         : Option Party
  pathSwitching  : Bool
  configRejected : Bool
  ringBurst      : Bool
  participants   : List Participant
  active         : Option Nat
  /-- The circuit whose failure began the failover in progress (R48; log 14). -/
  switchFrom     : Option Nat
  ringStart      : Frame
  lastChange     : Frame
  signalTimer    : Option (SignalPurpose × Frame)
  stateTimer     : Option (StatePurpose × Frame)
deriving DecidableEq, Repr

/-- A line after cold start (R1, R5, R6, R7, R36). -/
def LineRec.cold : LineRec :=
  { applied := .null, callCopy := none, state := .outOfService .admin, pendingAdmin := false, setter := none,
    pathSwitching := false, configRejected := false, ringBurst := false, participants := [], active := none,
    switchFrom := none, ringStart := 0, lastChange := 0, signalTimer := none, stateTimer := none }

/-- The applied value of a key (R12). -/
inductive KeyVal where
  | empty
  | line (line : Nat) (audible : Bool)
deriving DecidableEq, Repr

/-- An entry of the appearance index of a line (R13). -/
structure AppEntry where
  pos     : Nat
  count   : Nat
  audible : Bool
deriving DecidableEq, Repr

/-- The Line Controller: line records, keys by 128 x position + key, the appearance index by line and the alert
lists by position (R12 to R14). -/
structure LC where
  lines    : Table LineRec
  keys     : Table KeyVal
  appIndex : Table (List AppEntry)
  alerts   : Table (List Nat)
deriving DecidableEq, Repr

/-! ## Circuit Controller -/

/-- Circuit states (R28). -/
inductive CircuitState where
  | uninstalled | idle | seizing | inUse | releasing | down | resetting
deriving DecidableEq, Repr

/-- What the part wants of a circuit, and what the far end was last told (R27, R33). -/
inductive LinkState where
  | idle | seized | seizedRinging | reset
deriving DecidableEq, Repr

/-- Outbound messages (R32). -/
inductive LinkMsg where
  | seize | ringOn | ringOff | release | reset
deriving DecidableEq, Repr

/-- The record of a circuit (R27). Its link place is its membership of the pending list or the transmission. -/
structure CircuitRec where
  state    : CircuitState
  owner    : Option Nat
  desired  : LinkState
  lastSent : LinkState
  farHeld  : Bool
deriving DecidableEq, Repr

/-- A circuit after cold start (R27). -/
def CircuitRec.cold : CircuitRec :=
  { state := .uninstalled, owner := none, desired := .idle, lastSent := .idle, farHeld := false }

/-- The path masks and last-used path position of a line; bit i of a mask is path position i (R29). -/
structure PathRec where
  installed   : BitVec 4
  available   : BitVec 4
  operational : BitVec 4
  lastUsed    : Nat
deriving DecidableEq, Repr

/-- Path masks after cold start (R29). -/
def PathRec.cold : PathRec := { installed := 0, available := 0, operational := 0, lastUsed := 0 }

/-- The message in transmission (R34); `wentDown` records that its circuit entered DOWN meanwhile (R45). -/
structure Sending where
  circuit  : Nat
  msg      : LinkMsg
  wentDown : Bool
deriving DecidableEq, Repr

/-- The Circuit Controller (R27, R29, R34). -/
structure CC where
  circuits    : Table CircuitRec
  paths       : Table PathRec
  pendingList : List Nat
  sending     : Option Sending
deriving DecidableEq, Repr

/-! ## Handset Controller -/

/-- An entry of a handset's current set (R52). -/
inductive CurEntry where
  | line (line : Nat)
  | intercom (call : Nat)
deriving DecidableEq, Repr

/-- A handset record (R52): the current set oldest first, the hold stack from the bottom, its top last. -/
structure HandsetRec where
  current : List CurEntry
  hold    : List Nat
deriving DecidableEq, Repr

/-- A handset after cold start (R52). -/
def HandsetRec.cold : HandsetRec := { current := [], hold := [] }

/-- Intercom call states (R66). -/
inductive IcmState where
  | free | alerting | paging | talking
deriving DecidableEq, Repr

/-- The target of an intercom call (R66). -/
inductive IcmTarget where
  | position (p : Nat)
  | group (g : Nat)
deriving DecidableEq, Repr

/-- An intercom call record (R66). -/
structure IcmRec where
  state    : IcmState
  caller   : Option Party
  target   : Option IcmTarget
  answerer : Option Party
  start    : Frame
  timer    : Option Frame
deriving DecidableEq, Repr

/-- A FREE record (R66). -/
def IcmRec.cold : IcmRec := { state := .free, caller := none, target := none, answerer := none, start := 0, timer := none }

/-- The source of a speaker channel (R62, R82); NONE has no index (log 18). -/
inductive Source where
  | none
  | line (line : Nat)
  | bridge (bridge : Nat)
deriving DecidableEq, Repr

/-- Speaker mixes (R82). -/
inductive Mix where
  | a | b
deriving DecidableEq, Repr

/-- The applied configuration of a speaker channel (R62); `index` is the source index field as written, of a NONE source too. -/
structure ChanConfig where
  source     : Source
  index      : Nat
  mix        : Mix
  pttAllowed : Bool
  volume     : Nat
deriving DecidableEq, Repr

/-- A speaker channel's configuration with every field 0 (R62). -/
def ChanConfig.cold : ChanConfig := { source := .none, index := 0, mix := .a, pttAllowed := false, volume := 0 }

/-- The applied configuration of a position (R62). -/
structure PosConfig where
  enabled     : Bool
  recordAll   : Bool
  present0    : Bool
  present1    : Bool
  accessClass : Nat
  dimCode     : Nat
  pageVolume  : Nat
  groupMask   : BitVec 16
  recordA     : Bool
  recordB     : Bool
  channels    : Table ChanConfig
deriving DecidableEq, Repr

/-- A position's configuration with enabled 0 and every other field 0 (R62, R174). -/
def PosConfig.cold : PosConfig :=
  { enabled := false, recordAll := false, present0 := false, present1 := false, accessClass := 0, dimCode := 0,
    pageVolume := 0, groupMask := 0, recordA := false, recordB := false, channels := [] }

/-- The record of a position (R62, R69, R73); bit c of `reach` is call record c. -/
structure PosRec where
  applied        : PosConfig
  configRejected : Bool
  dim            : Bool
  reach          : BitVec 16
deriving DecidableEq, Repr

/-- A position after cold start (R62, R69, R73). -/
def PosRec.cold : PosRec := { applied := .cold, configRejected := false, dim := false, reach := 0 }

/-- The Handset Controller: handsets by 2 x position + handset, the intercom call table, the positions. -/
structure HC where
  handsets  : Table HandsetRec
  calls     : Table IcmRec
  positions : Table PosRec
deriving DecidableEq, Repr

/-! ## Conference Mixer -/

/-- The runtime state of a speaker channel (R82). -/
structure ChanRun where
  source : Source
  mix    : Mix
  volume : Nat
deriving DecidableEq, Repr

/-- A speaker channel after cold start (R82). -/
def ChanRun.cold : ChanRun := { source := .none, mix := .a, volume := 0 }

/-- The speaker side of a position: its channels' runtime state and its PTT channel (R82). -/
structure SpeakerRec where
  channels : Table ChanRun
  ptt      : Option Nat
deriving DecidableEq, Repr

/-- Speakers after cold start (R82). -/
def SpeakerRec.cold : SpeakerRec := { channels := [], ptt := none }

/-- What a bridge member is (R86). -/
inductive MemberKind where
  | line (line : Nat)
  | ptt (position : Nat)
deriving DecidableEq, Repr

/-- A member word of a bridge entry (R86). -/
structure Member where
  who     : MemberKind
  gain    : Nat
  enabled : Bool
deriving DecidableEq, Repr

/-- The applied configuration of a bridge (R86); member i is the i-th of `members`. -/
structure BridgeConfig where
  enabled    : Bool
  k          : Nat
  threshold  : Nat
  hysteresis : Nat
  members    : List Member
deriving DecidableEq, Repr

/-- A bridge's applied entry before the first load (R86). -/
def BridgeConfig.cold : BridgeConfig := { enabled := false, k := 1, threshold := 0, hysteresis := 0, members := [] }

/-- The record of a bridge: energies by member index (R90), the selected set in rank order (R91). -/
structure BridgeRec where
  applied        : BridgeConfig
  configRejected : Bool
  energy         : Table Nat
  selected       : List Nat
deriving DecidableEq, Repr

/-- A bridge after cold start (R86, R90, R91). -/
def BridgeRec.cold : BridgeRec := { applied := .cold, configRejected := false, energy := [], selected := [] }

/-- What the snapshot holds of a line (R76). -/
structure SnapLine where
  participants  : List Participant
  active        : Option Nat
  pathSwitching : Bool
deriving DecidableEq, Repr

/-- A line with nothing to mix. -/
def SnapLine.cold : SnapLine := { participants := [], active := none, pathSwitching := false }

/-- What the snapshot holds of a circuit (R76). -/
structure SnapCircuit where
  state : CircuitState
  owner : Option Nat
deriving DecidableEq, Repr

/-- A circuit with nothing to mix. -/
def SnapCircuit.cold : SnapCircuit := { state := .uninstalled, owner := none }

/-- What the snapshot holds of a position (R76). -/
structure SnapPos where
  enabled    : Bool
  dim        : Bool
  dimCode    : Nat
  pageVolume : Nat
  reach      : BitVec 16
deriving DecidableEq, Repr

/-- A position with nothing to mix. -/
def SnapPos.cold : SnapPos := { enabled := false, dim := false, dimCode := 0, pageVolume := 0, reach := 0 }

/-- What the snapshot holds of a bridge (R76). -/
structure SnapBridge where
  applied  : BridgeConfig
  selected : List Nat
deriving DecidableEq, Repr

/-- A bridge with nothing to mix. -/
def SnapBridge.cold : SnapBridge := { applied := .cold, selected := [] }

/-- The frame snapshot (R76): everything the outputs of a frame depend on but its input samples. -/
structure Snapshot where
  lines     : Table SnapLine
  circuits  : Table SnapCircuit
  handsets  : Table HandsetRec
  calls     : Table IcmRec
  positions : Table SnapPos
  speakers  : Table SpeakerRec
  bridges   : Table SnapBridge
  /-- The port each recorder channel is assigned to. -/
  recorders : Table (Option Nat)
  /-- The UNRECORDED marks of the ports (R105). -/
  unrecorded : Table Bool
deriving DecidableEq, Repr

/-- The Conference Mixer; `out` holds the samples on the highways by 64 x highway + slot (R74). -/
structure MX where
  speakers : Table SpeakerRec
  bridges  : Table BridgeRec
  snapshot : Option Snapshot
  out      : Table Sample
deriving DecidableEq, Repr

/-! ## Recording Allocator -/

/-- Recorder channel states; ASSIGNED carries the port (R98). -/
inductive ChannelState where
  | disabled | free
  | assigned (port : Nat)
deriving DecidableEq, Repr

/-- The record of a recorder channel (R98). -/
structure ChannelRec where
  state      : ChannelState
  allocFrame : Frame
  relFrame   : Frame
  lastPort   : Option Nat
deriving DecidableEq, Repr

/-- A recorder channel after cold start (R98). -/
def ChannelRec.cold : ChannelRec := { state := .disabled, allocFrame := 0, relFrame := 0, lastPort := none }

/-- The record of a port (R99, R105). -/
structure PortRec where
  level      : Level
  channel    : Option Nat
  unrecorded : Bool
deriving DecidableEq, Repr

/-- A port after cold start (R99). -/
def PortRec.cold : PortRec := { level := .none, channel := none, unrecorded := false }

/-- The Recording Allocator (R98 to R101); `order` lists the assigned channels, the latest assignment last (R103). -/
structure RA where
  channels  : Table ChannelRec
  ports     : Table PortRec
  freeList  : List Nat
  waitQueue : List Nat
  order     : List Nat
deriving DecidableEq, Repr

/-! ## Usage Meter -/

/-- A latched measurement context (R115 to R118). `connFrames` holds the connect frames per path position. -/
structure MeasContext where
  enabled     : Bool
  format      : Nat
  seizures    : Nat
  answered    : Nat
  unanswered  : Nat
  ringOpen    : Option Frame
  ringFrames  : Nat
  connectAt   : Option Frame
  segment     : Option (Frame × Nat)
  connFrames  : Table Nat
  switches    : Nat
  barges      : Nat
  unrecOpen   : Option Frame
  unrecFrames : Nat
deriving DecidableEq, Repr

/-- What an update does to one word of a block (R122); `keep` is a word the update does not name. -/
inductive UpdOp where
  | keep
  | add (amount : Nat)
  | write (value : Word)
deriving DecidableEq, Repr

/-- A record of the update list (R122): a line, and the operations by word of its block. -/
structure UpdateRec where
  line : Nat
  ops  : Table UpdOp
deriving DecidableEq, Repr

/-- The update in progress (R123): reading the block, some of its words read so far, or with its write-backs placed. -/
structure Updating where
  record    : UpdateRec
  reading   : Bool
  wordsRead : Nat
deriving DecidableEq, Repr

/-- The Usage Meter (R113, R115, R122). -/
structure UM where
  enable     : Bool
  format     : Nat
  contexts   : Table (Option MeasContext)
  updates    : List UpdateRec
  inProgress : Option Updating
deriving DecidableEq, Repr

/-! ## Event Unit -/

/-- A latched summary flag with its arming state (R158, R161). -/
structure LatchedFlag where
  set      : Bool
  armed    : Bool
  occurred : Bool
deriving DecidableEq, Repr

/-- A flag after cold start (R158, R161). -/
def LatchedFlag.cold : LatchedFlag := { set := false, armed := false, occurred := false }

/-- The Event Unit (R154, R158, R159, R163, R167). -/
structure EU where
  evtHead   : Nat
  evtRead   : Nat
  lost      : Nat
  overflow  : LatchedFlag
  fault     : LatchedFlag
  recorder  : LatchedFlag
  mask      : BitVec 5
  attention : Bool
  fltHead   : Nat
  fltRead   : Nat
  /-- The lockdown cause word: cause DOUBLE_FAULT with its fault code, or NONE. -/
  cause     : Option FaultCode
  unlogged  : Nat
deriving DecidableEq, Repr

/-! ## Request Engine -/

/-- What the Request Engine is doing (R145 to R147); `fetching` holds the words read so far. -/
inductive Take where
  | idle
  | waitingForRoom
  | fetching (words : List Word)
deriving DecidableEq, Repr

/-- The Request Engine (R143, R145). -/
structure RE where
  head : Nat
  tail : Nat
  take : Take
deriving DecidableEq, Repr

/-! ## Bus Interposer -/

/-- Arbiter modes (R138). -/
inductive ArbiterMode where
  | normal | drain
deriving DecidableEq, Repr

/-- A processor access to one word, by its SRAM word address (R126). -/
inductive Access where
  | write (address : Nat) (data : Word) (be : ByteEnables)
  | read (address : Nat) (be : ByteEnables)
deriving DecidableEq, Repr

/-- The part's requesters of the memory-side port (R138): the oldest entry of the posted write queue, and the reads of the Request
Engine, the Usage Meter and the load. -/
inductive PortUser where
  | queue | fetch | meter | load
deriving DecidableEq, Repr

/-- The Bus Interposer (R125, R129, R131 to R133, R136 to R140). -/
structure BI where
  base      : Nat
  copies    : Table Word
  startCopy : Word
  latch     : Option Frame
  pwq       : List (Nat × Word)
  waiting   : List (Nat × Word)
  /-- How many of the writes that wait, from the oldest on, go up to the last mirror write of a load (R176). -/
  loadLeft  : Nat
  mode      : ArbiterMode
  /-- The part's accesses that wait for the port, in the order in which they were asked for (R138). -/
  asked     : List PortUser
  measHold  : Option Nat
  held      : List Access
  readData  : Word
deriving DecidableEq, Repr

/-! ## Start-up logic -/

/-- The next entry a load reads (R174); `key` counts 128 x position + key. -/
inductive LoadItem where
  | line (n : Nat)
  | position (p : Nat)
  | key (i : Nat)
  | bridge (b : Nat)
  | recorder (r : Nat)
deriving DecidableEq, Repr

/-- How far a load is (R171 to R176). -/
inductive LoadStep where
  | descriptor
  | entries (next : LoadItem)
  | ending
deriving DecidableEq, Repr

/-- The start-up logic (R169 to R171, R177). -/
structure SU where
  part          : PartState
  lineCount     : Nat
  positionCount : Nat
  bridgeCount   : Nat
  recorderCount : Nat
  ringTimeout   : Nat
  restartMark   : Bool
  draining      : Bool
  load          : Option LoadStep
  /-- The words read so far of the descriptor or of the entry that a load is reading (R138, R172, R174). -/
  wordsRead     : Nat
  startFrame    : Frame
  rejects       : Nat
deriving DecidableEq, Repr

/-! ## The whole -/

/-- The state of the part and of the SRAM behind it, and the queue of commands that wait. -/
structure State where
  pending : List Instr
  mem     : List Host.Cell
  frame   : Frame
  bi      : BI
  re      : RE
  eu      : EU
  lc      : LC
  cc      : CC
  hc      : HC
  mx      : MX
  ra      : RA
  um      : UM
  su      : SU
deriving DecidableEq, Repr

/-- Why the model stops. -/
inductive Fault where
  /-- Raised by a processor access whose byte enables are all 0. R126 says an access enables one to four bytes, so
  no such access exists and the manual gives it no effect (log 26). Safe: nothing is claimed after it. -/
  | noByteEnabled
deriving DecidableEq, Repr

/-- Commands the model gives no meaning. -/
inductive Refusal where
  /-- Raised by `exec` alone, for a row that has no meaning yet. Safe: the model stops. No row is refused so now. -/
  | notModelled (mnemonic : String)
deriving DecidableEq, Repr

/-- The part right after a cold start (R170), with the straps at 0 (log 2) and the SRAM as log 1 has it. -/
def State.reset : State :=
  { pending := []
    mem := []
    frame := 0
    bi := { base := 0, copies := [], startCopy := 0, latch := none, pwq := [], waiting := [], loadLeft := 0,
            mode := .normal, asked := [], measHold := none, held := [], readData := 0 }
    re := { head := 0, tail := 0, take := .idle }
    eu := { evtHead := 0, evtRead := 0, lost := 0, overflow := .cold, fault := .cold, recorder := .cold,
            mask := 0b00100#5, attention := false, fltHead := 0, fltRead := 0, cause := none, unlogged := 0 }
    lc := { lines := [], keys := [], appIndex := [], alerts := [] }
    cc := { circuits := [], paths := [], pendingList := [], sending := none }
    hc := { handsets := [], calls := [], positions := [] }
    mx := { speakers := [], bridges := [], snapshot := none, out := [] }
    ra := { channels := [], ports := [], freeList := [], waitQueue := [], order := [] }
    um := { enable := false, format := 0, contexts := [], updates := [], inProgress := none }
    su := { part := .waiting, lineCount := 0, positionCount := 0, bridgeCount := 0, recorderCount := 0,
            ringTimeout := 10, restartMark := false, draining := false, load := none, wordsRead := 0,
            startFrame := 0, rejects := 0 } }

end Sys2Proof.Machine
end

