-- ==== Sys2Proof/Machine/Flags.lean ====
section
/-!
DEFINITION. The Attention Summary: latched flags, their occurrences and two-step clear, the derived flags, and the
attention output (R158 to R162).
-/

namespace Sys2Proof.Machine

/-- An occurrence of a latched flag: it is set, and marked as having occurred since arming (R158, R161). -/
def LatchedFlag.occur (f : LatchedFlag) : LatchedFlag := { f with set := true, occurred := f.armed }

/-- A flag cleared by a load's reset of the event ring (R158); its arming is as it was. -/
def LatchedFlag.cleared (f : LatchedFlag) : LatchedFlag := { f with set := false, occurred := false }

/-- A flag disarmed at an entry to LOADING or at a restart (R142, R161). -/
def LatchedFlag.disarm (f : LatchedFlag) : LatchedFlag := { f with armed := false, occurred := false }

/-- What a read of the Summary does to a latched flag, by the value it returns (R161). -/
def LatchedFlag.summaryRead (f : LatchedFlag) : LatchedFlag := { f with armed := f.set, occurred := false }

/-- What a read of its detail word does to a latched flag (R162). -/
def LatchedFlag.detailRead (f : LatchedFlag) : LatchedFlag :=
  if f.armed then { set := f.occurred, armed := false, occurred := false } else f

/-- The event ring's unread count (R154). -/
def EU.unread (e : EU) : Nat := (e.evtHead + 256 - e.evtRead) % 256

/-- The event ring's free entries (R146). -/
def EU.free (e : EU) : Nat := 255 - e.unread

/-- The fault log's unread count (R163). -/
def EU.unreadFaults (e : EU) : Nat := (e.fltHead + 32 - e.fltRead) % 32

/-- A flag as a bit of a 5-bit mask. -/
def flagBit (i : Nat) (b : Bool) : BitVec 5 := if b then BitVec.ofNat 5 (1 <<< i) else 0#5

/-- The five summary flags: EVENTS 0, OVERFLOW 1, FAULT 2, RECORDER 3, LOCKDOWN 4 (R158, section 11.4). -/
def summaryFlags (e : EU) (part : PartState) : BitVec 5 :=
  flagBit 0 (decide (e.unread ≠ 0)) ||| flagBit 1 e.overflow.set ||| flagBit 2 e.fault.set ||| flagBit 3 e.recorder.set |||
    flagBit 4 (decide (part = .lockdown))

/-- The attention output is asserted while a set summary flag has its mask flag set (R159). -/
def attentionOf (e : EU) (part : PartState) : Bool := decide (summaryFlags e part &&& e.mask ≠ 0#5)

end Sys2Proof.Machine
end

