-- ==== Sys2Proof/Machine/Table.lean ====
section
/-!
DEFINITION. Reading and writing a table of numbered records, and its canonical form.
-/

namespace Sys2Proof.Table

/-- The record with number `i`; an unlisted number holds the default `d`. -/
def get {α : Type} (d : α) : Table α → Nat → α
  | [], _ => d
  | (k, v) :: t, i => if i = k then v else get d t i

/-- The table without number `i`. -/
def erase {α : Type} : Table α → Nat → Table α
  | [], _ => []
  | (k, v) :: t, i => if i = k then erase t i else (k, v) :: erase t i

/-- The table with `v` listed at number `i`, in rising order of numbers. -/
def insert {α : Type} : Table α → Nat → α → Table α
  | [], i, v => [(i, v)]
  | (k, w) :: t, i, v =>
    if i < k then (i, v) :: (k, w) :: t
    else if i = k then (i, v) :: t
    else (k, w) :: insert t i v

/-- Write `v` at number `i`. Writing the default takes the number off the list. -/
def put {α : Type} [DecidableEq α] (d : α) (t : Table α) (i : Nat) (v : α) : Table α :=
  if v = d then erase t i else insert t i v

/-- Every listed number is above `lo` and they rise. -/
def risingFrom {α : Type} : Nat → Table α → Bool
  | _, [] => true
  | lo, (k, _) :: t => decide (lo ≤ k) && risingFrom (k + 1) t

/-- The canonical form: numbers strictly rising, and no listed record equal to the default. -/
def wf {α : Type} [DecidableEq α] (d : α) (t : Table α) : Bool :=
  risingFrom 0 t && t.all fun e => decide (e.2 ≠ d)

/-- The listed numbers, in rising order for a canonical table. -/
def keys {α : Type} (t : Table α) : List Nat := t.map (·.1)

/-- The rising list of the numbers in either of two rising lists. -/
def mergeKey (i : Nat) : List Nat → List Nat
  | [] => [i]
  | k :: t => if i < k then i :: k :: t else if i = k then k :: t else k :: mergeKey i t

/-- All numbers of the second list merged into the first. -/
def mergeKeys (a b : List Nat) : List Nat := b.foldl (fun acc i => mergeKey i acc) a

/-- The table of the values of a function over some numbers, less the defaults. -/
def ofFun {α : Type} [DecidableEq α] (d : α) (is : List Nat) (f : Nat → α) : Table α :=
  (is.map fun i => (i, f i)).filter fun e => decide (e.2 ≠ d)

/-- The table of the images of the records, less those equal to the new default. A number listed twice counts once, as for `get`. -/
def mapVals {α β : Type} [DecidableEq β] (d : β) (f : Nat → α → β) : Table α → Table β
  | [] => []
  | (k, v) :: t => if f k v = d then erase (mapVals d f t) k else (k, f k v) :: erase (mapVals d f t) k

end Sys2Proof.Table
end

