-- ==== Sys2Proof/Machine/Operands.lean ====
section
/-!
DEFINITION. Reading what the processor writes: bit fields, byte enables, the regions of the aperture (R128), the fields
of a request (section 11.3) and of each configuration entry (section 11.5).
-/

namespace Sys2Proof.Machine

/-! ## Fields and bytes -/

/-- Bits hi..lo of a word, as an unsigned number (11_memory_formats.md). -/
def field (w : Word) (hi lo : Nat) : Nat := (w.toNat >>> lo) % 2 ^ (hi + 1 - lo)

/-- One bit of a word. -/
def bitAt (w : Word) (i : Nat) : Bool := w.toNat.testBit i

/-- A number placed in bits hi..lo. -/
def place (hi lo v : Nat) : Nat := (v % 2 ^ (hi + 1 - lo)) <<< lo

/-- A flag placed at a bit. -/
def placeBit (i : Nat) (b : Bool) : Nat := if b then 1 <<< i else 0

/-- The word that is the sum of its placed fields. Bits that no field takes are 0 (R183). -/
def packed (fields : List Nat) : Word := BitVec.ofNat 32 fields.sum

/-- Byte lane i of a word. -/
def byteOf (w : Word) (i : Nat) : BitVec 8 := w.extractLsb' (8 * i) 8

/-- A word from its bytes, lane 0 first. -/
def ofBytes (b0 b1 b2 b3 : BitVec 8) : Word := b3 ++ b2 ++ b1 ++ b0

/-- The byte merge of R126: the enabled bytes of `new`, the others of `old`. -/
def mergeBytes (old new : Word) (be : ByteEnables) : Word :=
  let lane := fun i => if be.getLsbD i then byteOf new i else byteOf old i
  ofBytes (lane 0) (lane 1) (lane 2) (lane 3)

/-- The value that stands for none in any word that can name a party, line, circuit, channel or port (R184). -/
def noneWord : Word := 0xFFFFFFFF#32

/-- A number as a word. -/
def natWord (n : Nat) : Word := BitVec.ofNat 32 n

/-- A flag as a word. -/
def flagWord (b : Bool) : Word := if b then 1#32 else 0#32

/-- A number that may be none, as a word (R184). -/
def optWord : Option Nat → Word
  | some n => natWord n
  | none => noneWord

/-- The low 32 bits of a frame (R156). -/
def frameLow (f : Frame) : Word := f.setWidth 32

/-- The high 16 bits of a frame, in bits 15..0 (R136, section 11.3). -/
def frameHigh (f : Frame) : Word := (f >>> 32).setWidth 32

/-- A party word naming a handset (R184). -/
def partyWord (p : Party) : Word := packed [place 4 0 p.pos, place 8 8 p.hs]

/-- A party word naming a whole position (R184); the handset's bit is 0, for which the manual gives no value. DESIGN CHOICE (log 54). -/
def positionWord (p : Nat) : Word := packed [place 4 0 p, placeBit 9 true]

/-- A party that may be none, as a word (R184). -/
def optPartyWord : Option Party → Word
  | some p => partyWord p
  | none => noneWord

/-! ## Regions of the aperture -/

/-- The zone kinds (R127). -/
inductive ZoneKind where
  | plain | copied | owned | overlay | shared
deriving DecidableEq, Repr

/-- What an offset of the aperture is (R128). -/
inductive Region where
  | descriptor (word : Nat)
  | overlay
  | reqTail | evtRead | fltRead
  | lineConfig (line word : Nat)
  | positionConfig (position word : Nat)
  | appearance (position key : Nat)
  | bridgeConfig (bridge word : Nat)
  | recorderConfig (channel word : Nat)
  | owned
  | measurement (line word : Nat)
  | plain
deriving DecidableEq, Repr

/-- The table of zones (R128). -/
def regionOf (off : Nat) : Region :=
  if off < 0x40 then .descriptor off
  else if off < 0x80 then .overlay
  else if off = 0x100 then .reqTail
  else if off = 0x101 then .evtRead
  else if off = 0x102 then .fltRead
  else if off < 0x800 then .plain
  else if off < 0x1000 then .owned
  else if off < 0x2000 then .lineConfig ((off - 0x1000) / 16) (off % 16)
  else if off < 0x2800 then .owned
  else if off < 0x3000 then .positionConfig ((off - 0x2800) / 64) (off % 64)
  else if off < 0x4000 then .appearance ((off - 0x3000) / 128) (off % 128)
  else if off < 0x4600 then .bridgeConfig ((off - 0x4000) / 64) (off % 64)
  else if off < 0x4800 then .plain
  else if off < 0x5000 then .owned
  else if off < 0x6000 then .measurement ((off - 0x5000) / 16) (off % 16)
  else if off < 0x6200 then .recorderConfig ((off - 0x6000) / 4) (off % 4)
  else if off < 0x6400 then .owned
  else if 0x7000 ≤ off ∧ off < 0x7100 then .owned
  else .plain

/-- The kind of a region's zone (R128). -/
def zoneKind : Region → ZoneKind
  | .descriptor _ => .plain
  | .overlay => .overlay
  | .reqTail => .copied
  | .evtRead => .copied
  | .fltRead => .copied
  | .lineConfig _ _ => .copied
  | .positionConfig _ _ => .copied
  | .appearance _ _ => .copied
  | .bridgeConfig _ _ => .copied
  | .recorderConfig _ _ => .copied
  | .owned => .owned
  | .measurement _ _ => .shared
  | .plain => .plain

/-- Offsets of the tables (R128). -/
def lineConfigOffset (n : Nat) : Nat := 0x1000 + 16 * n
def lineStatusOffset (n : Nat) : Nat := 0x2000 + 8 * n
def positionConfigOffset (p : Nat) : Nat := 0x2800 + 64 * p
def appearanceOffset (i : Nat) : Nat := 0x3000 + i
def bridgeConfigOffset (b : Nat) : Nat := 0x4000 + 64 * b
def positionStatusOffset (p : Nat) : Nat := 0x4800 + 64 * p
def measurementOffset (n : Nat) : Nat := 0x5000 + 16 * n
def recorderConfigOffset (r : Nat) : Nat := 0x6000 + 4 * r
def recorderStatusOffset (r : Nat) : Nat := 0x6200 + 4 * r
def requestOffset (slot : Nat) : Nat := 0x0400 + 16 * slot
def eventOffset (e : Nat) : Nat := 0x0800 + 8 * e
def faultOffset (index : Nat) : Nat := 0x7000 + 16 * (index % 16)

/-! ## Requests -/

/-- Word i of a record. -/
def wordOf (ws : List Word) (i : Nat) : Word := ws.getD i 0#32

/-- The code of a request (R148). -/
def requestCode (ws : List Word) : Nat := field (wordOf ws 0) 7 0

/-- The requesting position (R148). -/
def requestPosition (ws : List Word) : Nat := field (wordOf ws 0) 12 8

/-- The requesting handset (R148). -/
def requestHandset (ws : List Word) : Nat := field (wordOf ws 0) 13 13

/-- The requesting party (R148). -/
def requestParty (ws : List Word) : Party := { pos := requestPosition ws, hs := requestHandset ws }

/-- Parameter word i of a request: a whole 32-bit word (R182). -/
def param (ws : List Word) (i : Nat) : Nat := (wordOf ws i).toNat

/-- A parameter that is on (1) or off (0), in (1) or out (0); any other value is out of range (section 11.3). -/
def onOff : Nat → Option Bool
  | 0 => some false
  | 1 => some true
  | _ => none

/-- The codes of the requests (section 11.8). -/
def requestCodes : List Nat :=
  [0x00, 0x10, 0x11, 0x12, 0x13, 0x14, 0x20, 0x21, 0x30, 0x31, 0x32, 0x33, 0x34, 0x35, 0x40, 0x41, 0x42, 0x50, 0x60,
   0x70, 0x71, 0x72]

/-- A speaker source named by its kind and index, if the kind is one of the three (section 11.3, R62). -/
def sourceOf (kind index : Nat) : Option Source :=
  if kind = 0 then some .none else if kind = 1 then some (.line index) else if kind = 2 then some (.bridge index) else none

/-- Whether a source names something configured (R62, R93): a configured line, a configured bridge. -/
def sourceConfigured (lineCount bridgeCount : Nat) : Source → Bool
  | .none => true
  | .line n => decide (n < lineCount)
  | .bridge b => decide (b < bridgeCount)

/-- A mix named by its code (section 11.3). -/
def mixOf : Nat → Option Mix
  | 0 => some .a
  | 1 => some .b
  | _ => none

/-! ## Configuration entries -/

/-- The kind of a line entry (section 11.5); code 0 is invalid. -/
def lineKindOf : Nat → Option LineKind
  | 1 => some .autoRingdown
  | 2 => some .manualRingdown
  | 3 => some .nailed
  | _ => none

/-- The record level of a line entry (section 11.5); code 3 is invalid. -/
def levelOf : Nat → Option Level
  | 0 => some .none
  | 1 => some .wanted
  | 2 => some .required
  | _ => none

/-- The path circuits of a line entry at the positions below the path count (R1, section 11.5). -/
def entryPath (ws : List Word) : List Nat :=
  [field (wordOf ws 1) 15 0, field (wordOf ws 1) 31 16, field (wordOf ws 2) 15 0, field (wordOf ws 2) 31 16].take
    (field (wordOf ws 0) 26 24)

/-- The validation of a line entry (R2): its configuration, when it is valid. -/
def parseLine (lineCount n : Nat) (ws : List Word) : Option LineConfig :=
  let w := wordOf ws 0
  let count := field w 26 24
  let path := entryPath ws
  match lineKindOf (field w 9 8), levelOf (field w 13 12) with
  | some kind, some level =>
    if n < lineCount ∧ 1 ≤ count ∧ count ≤ 4 ∧ path.all (fun c => decide (c < 256)) = true ∧ path.Nodup then
      some { enabled := bitAt w 0
             call := { kind := kind, accessClass := field w 18 16, shared := bitAt w 1, bargeAllowed := bitAt w 2,
                       privacyDefault := bitAt w 3, path := path }
             recordLevel := level
             measureEnable := bitAt w 4 }
    else none
  | _, _ => none

/-- A speaker channel word of a position entry, when it is valid (R62, section 11.5). -/
def parseChannel (lineCount bridgeCount : Nat) (w : Word) : Option ChanConfig :=
  match sourceOf (field w 7 0) (field w 15 8) with
  | some src =>
    if sourceConfigured lineCount bridgeCount src = true ∧ field w 31 24 ≤ 15 then
      some { source := src, index := field w 15 8, mix := if bitAt w 16 then .b else .a, pttAllowed := bitAt w 17, volume := field w 31 24 }
    else none
  | none => none

/-- The validation of a position entry (R62): its configuration, when it is valid. -/
def parsePosition (positionCount lineCount bridgeCount p : Nat) (ws : List Word) : Option PosConfig :=
  let w := wordOf ws 0
  let v := wordOf ws 1
  let chans := (List.range 8).map fun i => parseChannel lineCount bridgeCount (wordOf ws (2 + i))
  if p < positionCount ∧ field w 23 16 ≤ 15 ∧ field w 31 24 ≤ 15 ∧ chans.all Option.isSome = true then
    some { enabled := bitAt w 0, recordAll := bitAt w 1, present0 := bitAt w 2, present1 := bitAt w 3,
           accessClass := field w 10 8, dimCode := field w 23 16, pageVolume := field w 31 24,
           groupMask := BitVec.ofNat 16 (field v 15 0), recordA := bitAt v 16, recordB := bitAt v 17,
           channels := Table.ofFun ChanConfig.cold (List.range 8) fun i => ((chans.getD i none).getD ChanConfig.cold) }
  else none

/-- The validation of a key word (R12): the value applied, and whether CONFIG_REJECT is issued. -/
def parseKey (positionCount lineCount p : Nat) (w : Word) : KeyVal × Bool :=
  let kind := field w 1 0
  let n := field w 15 8
  if kind = 0 then (.empty, false)
  else if kind = 1 ∧ n < lineCount ∧ p < positionCount then (.line n (bitAt w 2), false)
  else (.empty, true)

/-- The kind and index of a bridge member word (section 11.5). -/
def memberKindOf (kind index : Nat) : Option MemberKind :=
  if kind = 1 then some (.line index) else if kind = 2 then some (.ptt index) else none

/-- A bridge member word, when its kind and talker gain are in range (R87, section 11.5). -/
def parseMember (w : Word) : Option Member :=
  match memberKindOf (field w 1 0) (field w 23 16) with
  | some who => if field w 15 8 ≤ 15 then some { who := who, gain := field w 15 8, enabled := bitAt w 2 } else none
  | none => none

/-- The fields of a bridge entry that lie in range, before the checks against other tables (R87). -/
def parseBridge (bridgeCount b : Nat) (ws : List Word) : Option BridgeConfig :=
  let w := wordOf ws 0
  let v := wordOf ws 1
  let count := field w 20 16
  let members := (List.range count).map fun i => parseMember (wordOf ws (2 + i))
  if b < bridgeCount ∧ 1 ≤ field w 10 8 ∧ field w 10 8 ≤ 4 ∧ field v 15 0 ≤ 32767 ∧ field v 31 16 ≤ 4095 ∧ count ≤ 16 ∧
      members.all Option.isSome = true then
    some { enabled := bitAt w 0, k := field w 10 8, threshold := field v 15 0, hysteresis := field v 31 16,
           members := members.filterMap id }
  else none

end Sys2Proof.Machine
end

