-- ==== Sys2Proof/Machine/Formats.lean ====
section
/-!
DEFINITION. What the part writes: the numeric codes (section 11.8), the records of events (R156, section 11.3) and faults
(R164, section 11.3).
-/

namespace Sys2Proof.Machine

/-! ## Codes (section 11.8) -/

def PartState.code : PartState → Nat
  | .waiting => 0 | .loading => 1 | .running => 2 | .quiesced => 3 | .lockdown => 4

def LineState.code : LineState → Nat
  | .outOfService _ => 0 | .idle => 1 | .ringingIn => 2 | .calling => 3 | .connected => 4 | .held => 5 | .clearing => 6

/-- The OUT_OF_SERVICE cause of a state; 0 for any other state (section 11.3, section 11.6). -/
def LineState.causeCode : LineState → Nat
  | .outOfService .admin => 1 | .outOfService .noPath => 2 | _ => 0

def Result.code : Result → Nat
  | .ok => 0 | .noChange => 1 | .badCode => 2 | .badPosition => 3 | .positionOff => 4 | .badHandset => 5 | .badParam => 6
  | .emptyKey => 7 | .access => 8 | .privateLine => 9 | .lineBusy => 10 | .lineOos => 11 | .noPath => 12 | .noRecorder => 13
  | .stackFull => 14 | .notHeld => 15 | .noCurrent => 16 | .notHoldable => 17 | .quiesced => 18 | .clearing => 19
  | .notAlerting => 20 | .noIcm => 21

def FaultCode.code : FaultCode → Nat
  | .ownedWrite => 1 | .indexWrite => 2 | .configLoad => 3 | .signalUnknown => 4 | .signalState => 5

def StateCause.code : StateCause → Nat
  | .request => 0 | .far => 1 | .timer => 2 | .noPath => 3 | .load => 4

def ReleaseCause.code : ReleaseCause → Nat
  | .localEnd => 0 | .far => 1 | .noAnswer => 2 | .forced => 3 | .lost => 4

def IcmState.code : IcmState → Nat
  | .free => 0 | .alerting => 1 | .paging => 2 | .talking => 3

/-- Target kind and index of an intercom call (section 11.3). -/
def IcmTarget.kindCode : IcmTarget → Nat
  | .position _ => 0 | .group _ => 1

def IcmTarget.index : IcmTarget → Nat
  | .position p => p | .group g => g

def Mode.code : Mode → Nat
  | .active => 0 | .hold => 1

/-- Kind and index of a speaker source (section 11.5); NONE shows index 0 (log 18). -/
def Source.kindCode : Source → Nat
  | .none => 0 | .line _ => 1 | .bridge _ => 2

def Source.index : Source → Nat
  | .none => 0 | .line n => n | .bridge b => b

def Mix.isB : Mix → Bool
  | .a => false | .b => true

/-! ## Events -/

/-- Why an intercom call ended, with whose act ended it (R72). -/
inductive IcmEnd where
  | left (by_ : Party)
  | noAnswer
  | disabledHandset (by_ : Party)
  | disabledPosition (p : Nat)
deriving DecidableEq, Repr

def IcmEnd.code : IcmEnd → Nat
  | .left _ => 0 | .noAnswer => 1 | .disabledHandset _ => 2 | .disabledPosition _ => 2

/-- The party word of whose act ended the call, or none (R156, R184). -/
def IcmEnd.actor : IcmEnd → Word
  | .left p => partyWord p
  | .noAnswer => noneWord
  | .disabledHandset p => partyWord p
  | .disabledPosition p => positionWord p

/-- Causes of PART_STATE (R156). -/
inductive PartCause where
  | quiesce | resume | doubleFault
deriving DecidableEq, Repr

def PartCause.code : PartCause → Nat
  | .quiesce => 0 | .resume => 1 | .doubleFault => 2

/-- What CONFIG_REJECT names (R156). -/
inductive Rejected where
  | line (n : Nat)
  | position (p : Nat)
  | key (p k : Nat)
  | bridge (b : Nat)
  | recorder (r : Nat)
deriving DecidableEq, Repr

/-- The events (R156). -/
inductive Event where
  | reqDone (slot : Nat) (word0 : Word) (result : Result) (detail1 detail2 : Word)
  | lineState (line : Nat) (old new : LineState) (cause : StateCause)
  | lineReleased (line : Nat) (cause : ReleaseCause) (duration : Nat)
  | ringAlert (line circuit : Nat) (start : Frame)
  | ringRejected (circuit : Nat) (target : Option Nat)
  | pathSwitch (line failed new position : Nat)
  | lineLost (line failed : Nat)
  | barge (line : Nat) (joining setter : Party)
  | icmAlert (call : Nat) (caller : Party) (target : IcmTarget) (start : Frame)
  | icmAnswered (call : Nat) (caller : Option Party) (answerer : Party)
  | icmEnd (call : Nat) (cause : IcmEnd) (state : IcmState)
  | recAlloc (channel port : Nat) (previous : Option Nat) (linger : Bool) (frame : Frame)
  | recGap (port : Nat) (line1 line2 : Option Nat)
  | recRestored (port : Nat) (channel : Option Nat)
  | configReject (what : Rejected)
  | loadComplete (restart : Bool) (rejects : Nat)
  | faultLogged (index : Nat) (code : FaultCode) (double : Bool)
  | partState (new old : PartState) (cause : PartCause)
deriving DecidableEq, Repr

/-- The event's kind, subject and details, as 11.3 places them. -/
def Event.parts : Event → Nat × Word × List Word
  | .reqDone slot w0 r d1 d2 => (1, natWord slot, [w0, natWord r.code, d1, d2])
  | .lineState n old new c =>
      (2, natWord n, [packed [place 7 0 old.code, place 15 8 old.causeCode],
                      packed [place 7 0 new.code, place 15 8 new.causeCode], natWord c.code])
  | .ringAlert n c f => (3, natWord n, [natWord c, frameLow f])
  | .ringRejected c t => (4, natWord c, [optWord t])
  | .pathSwitch n f c p => (5, natWord n, [natWord f, natWord c, natWord p])
  | .lineLost n f => (6, natWord n, [natWord f])
  | .lineReleased n c d => (7, natWord n, [natWord c.code, natWord d])
  | .barge n j st => (8, natWord n, [partyWord j, partyWord st])
  | .icmAlert c caller t f => (9, natWord c, [partyWord caller, natWord t.kindCode, natWord t.index, frameLow f])
  | .icmAnswered c caller a => (10, natWord c, [optPartyWord caller, partyWord a])
  | .icmEnd c cause st => (11, natWord c, [natWord cause.code, natWord st.code, cause.actor])
  | .recAlloc r p prev l f => (12, natWord r, [natWord p, optWord prev, flagWord l, frameLow f])
  | .recGap p a b => (13, natWord p, [optWord a, optWord b])
  | .recRestored p ch => (14, natWord p, [if ch.isSome then 0#32 else 1#32, optWord ch])
  | .configReject (.line n) => (15, 0#32, [natWord n])
  | .configReject (.position p) => (15, 1#32, [natWord p])
  | .configReject (.key p k) => (15, 2#32, [natWord p, natWord k])
  | .configReject (.bridge b) => (15, 3#32, [natWord b])
  | .configReject (.recorder r) => (15, 4#32, [natWord r])
  | .loadComplete r n => (16, flagWord r, [natWord n])
  | .faultLogged i c d => (17, natWord i, [natWord c.code, flagWord d])
  | .partState new old c => (18, natWord new.code, [natWord old.code, natWord c.code])

/-- The eight words of an event entry: kind, timestamp, subject and five details; unused details are 0 (R156). -/
def Event.words (e : Event) (now : Frame) : List Word :=
  let p := e.parts
  [natWord p.1, frameLow now, p.2.1] ++ (List.range 5).map fun i => p.2.2.getD i 0#32

/-! ## Faults -/

/-- A fault as it is raised (R164). -/
structure FaultReport where
  code    : FaultCode
  ext     : Bool
  table   : Bool
  subject : Nat
deriving DecidableEq, Repr

/-- The sixteen words of a fault record (section 11.3). -/
def FaultReport.words (f : FaultReport) (now : Frame) (double : Bool) : List Word :=
  [packed [place 7 0 f.code.code, placeBit 8 f.ext, placeBit 9 f.table, placeBit 10 double], natWord f.subject, frameLow now,
    frameHigh now] ++ List.replicate 12 0#32

/-- Consecutive words as posted writes, from an offset on. -/
def writesAt (off : Nat) (ws : List Word) : List (Nat × Word) := (List.range ws.length).map fun i => (off + i, ws.getD i 0#32)

end Sys2Proof.Machine
end

