-- ==== Sys2Proof/Machine/Ops.lean ====
section
/-!
DEFINITION. The operations every block uses: access to the numbered records, the SRAM (R125, R126), the posted write queue
(R137, R138), the event ring (R155), the fault log and lockdown (R165 to R167).
-/

namespace Sys2Proof.Machine

/-! ## Records -/

namespace State

def line (s : State) (n : Nat) : LineRec := Table.get LineRec.cold s.lc.lines n
def setLine (s : State) (n : Nat) (r : LineRec) : State := { s with lc := { s.lc with lines := Table.put LineRec.cold s.lc.lines n r } }
def key (s : State) (i : Nat) : KeyVal := Table.get KeyVal.empty s.lc.keys i
def setKeyVal (s : State) (i : Nat) (v : KeyVal) : State := { s with lc := { s.lc with keys := Table.put KeyVal.empty s.lc.keys i v } }
def appEntries (s : State) (n : Nat) : List AppEntry := Table.get [] s.lc.appIndex n
def setAppEntries (s : State) (n : Nat) (es : List AppEntry) : State := { s with lc := { s.lc with appIndex := Table.put [] s.lc.appIndex n es } }
def alertList (s : State) (p : Nat) : List Nat := Table.get [] s.lc.alerts p
def setAlertList (s : State) (p : Nat) (ls : List Nat) : State := { s with lc := { s.lc with alerts := Table.put [] s.lc.alerts p ls } }

def circuit (s : State) (c : Nat) : CircuitRec := Table.get CircuitRec.cold s.cc.circuits c
def setCircuit (s : State) (c : Nat) (r : CircuitRec) : State := { s with cc := { s.cc with circuits := Table.put CircuitRec.cold s.cc.circuits c r } }
def path (s : State) (n : Nat) : PathRec := Table.get PathRec.cold s.cc.paths n
def setPath (s : State) (n : Nat) (r : PathRec) : State := { s with cc := { s.cc with paths := Table.put PathRec.cold s.cc.paths n r } }
def setPendingList (s : State) (l : List Nat) : State := { s with cc := { s.cc with pendingList := l } }
def setSending (s : State) (x : Option Sending) : State := { s with cc := { s.cc with sending := x } }

/-- Handset records are numbered 2 x position + handset (chapter 3). -/
def handset (s : State) (p : Party) : HandsetRec := Table.get HandsetRec.cold s.hc.handsets (2 * p.pos + p.hs)
def setHandset (s : State) (p : Party) (r : HandsetRec) : State := { s with hc := { s.hc with handsets := Table.put HandsetRec.cold s.hc.handsets (2 * p.pos + p.hs) r } }
def call (s : State) (c : Nat) : IcmRec := Table.get IcmRec.cold s.hc.calls c
def setCall (s : State) (c : Nat) (r : IcmRec) : State := { s with hc := { s.hc with calls := Table.put IcmRec.cold s.hc.calls c r } }
def position (s : State) (p : Nat) : PosRec := Table.get PosRec.cold s.hc.positions p
def setPosition (s : State) (p : Nat) (r : PosRec) : State := { s with hc := { s.hc with positions := Table.put PosRec.cold s.hc.positions p r } }

def speaker (s : State) (p : Nat) : SpeakerRec := Table.get SpeakerRec.cold s.mx.speakers p
def setSpeaker (s : State) (p : Nat) (r : SpeakerRec) : State := { s with mx := { s.mx with speakers := Table.put SpeakerRec.cold s.mx.speakers p r } }
def bridge (s : State) (b : Nat) : BridgeRec := Table.get BridgeRec.cold s.mx.bridges b
def setBridge (s : State) (b : Nat) (r : BridgeRec) : State := { s with mx := { s.mx with bridges := Table.put BridgeRec.cold s.mx.bridges b r } }

def channel (s : State) (r : Nat) : ChannelRec := Table.get ChannelRec.cold s.ra.channels r
def setChannel (s : State) (r : Nat) (c : ChannelRec) : State := { s with ra := { s.ra with channels := Table.put ChannelRec.cold s.ra.channels r c } }
def port (s : State) (q : Nat) : PortRec := Table.get PortRec.cold s.ra.ports q
def setPort (s : State) (q : Nat) (r : PortRec) : State := { s with ra := { s.ra with ports := Table.put PortRec.cold s.ra.ports q r } }
def setFreeList (s : State) (l : List Nat) : State := { s with ra := { s.ra with freeList := l } }
def setWaitQueue (s : State) (l : List Nat) : State := { s with ra := { s.ra with waitQueue := l } }
def setOrder (s : State) (l : List Nat) : State := { s with ra := { s.ra with order := l } }

def context (s : State) (n : Nat) : Option MeasContext := Table.get none s.um.contexts n
def setContext (s : State) (n : Nat) (c : Option MeasContext) : State := { s with um := { s.um with contexts := Table.put none s.um.contexts n c } }
def setUpdates (s : State) (l : List UpdateRec) : State := { s with um := { s.um with updates := l } }
def setInProgress (s : State) (u : Option Updating) : State := { s with um := { s.um with inProgress := u } }

def setTake (s : State) (t : Take) : State := { s with re := { s.re with take := t } }
def setPart (s : State) (p : PartState) : State := { s with su := { s.su with part := p } }
/-- The load goes on to a step of which no word has been read yet. -/
def setLoad (s : State) (l : Option LoadStep) : State := { s with su := { s.su with load := l, wordsRead := 0 } }

end State

/-- Change the record of a line. -/
def modLine (s : State) (n : Nat) (f : LineRec → LineRec) : State := s.setLine n (f (s.line n))
/-- Change the record of a circuit. -/
def modCircuit (s : State) (c : Nat) (f : CircuitRec → CircuitRec) : State := s.setCircuit c (f (s.circuit c))
/-- Change the path masks of a line. -/
def modPath (s : State) (n : Nat) (f : PathRec → PathRec) : State := s.setPath n (f (s.path n))
/-- Change the record of a handset. -/
def modHandset (s : State) (p : Party) (f : HandsetRec → HandsetRec) : State := s.setHandset p (f (s.handset p))
/-- Change the record of a position. -/
def modPosition (s : State) (p : Nat) (f : PosRec → PosRec) : State := s.setPosition p (f (s.position p))
/-- Change the speaker side of a position. -/
def modSpeaker (s : State) (p : Nat) (f : SpeakerRec → SpeakerRec) : State := s.setSpeaker p (f (s.speaker p))
/-- Change the record of a port. -/
def modPort (s : State) (q : Nat) (f : PortRec → PortRec) : State := s.setPort q (f (s.port q))
/-- Change the latched context of a line, if it has one. -/
def modContext (s : State) (n : Nat) (f : MeasContext → MeasContext) : State :=
  match s.context n with
  | some c => s.setContext n (some (f c))
  | none => s

/-- The part serves requests and carries calls (R145, R150). -/
def PartState.serves : PartState → Bool
  | .running => true
  | .quiesced => true
  | _ => false

/-- The part carries calls: RUNNING, QUIESCED or LOCKDOWN (R169). -/
def PartState.carries : PartState → Bool
  | .running => true
  | .quiesced => true
  | .lockdown => true
  | _ => false

/-! ## SRAM -/

/-- A byte of the SRAM by byte address. -/
def byteAt (m : List Host.Cell) (a : Nat) : BitVec 8 := Table.get Config.unlistedByte m a

/-- Write a byte of the SRAM. -/
def setByte (m : List Host.Cell) (a : Nat) (b : BitVec 8) : List Host.Cell := Table.put Config.unlistedByte m a b

/-- A word of the SRAM by word address. -/
def wordAt (m : List Host.Cell) (addr : Nat) : Word :=
  ofBytes (byteAt m (4 * addr)) (byteAt m (4 * addr + 1)) (byteAt m (4 * addr + 2)) (byteAt m (4 * addr + 3))

/-- Write the enabled bytes of a word of the SRAM (R126). -/
def writeWord (m : List Host.Cell) (addr : Nat) (w : Word) (be : ByteEnables) : List Host.Cell :=
  (List.range 4).foldl (fun m i => if be.getLsbD i then setByte m (4 * addr + i) (byteOf w i) else m) m

/-- The canonical form of the SRAM's contents. -/
def Memory.wf (m : List Host.Cell) : Bool := Table.wf Config.unlistedByte m

/-- The SRAM word address of an aperture offset (R125). -/
def sramAddress (s : State) (off : Nat) : Nat := s.bi.base * 0x10000 + off

/-! ## Posted write queue -/

/-- The value of the youngest entry for an offset, if there is one (R137). -/
def youngest (q : List (Nat × Word)) (off : Nat) : Option Word :=
  ((q.reverse.find? fun e => e.1 == off).map (·.2))

/-- Whether a write to the word is queued, or waits to join (R139). -/
def writePending (s : State) (off : Nat) : Bool :=
  s.bi.pwq.any (fun e => e.1 == off) || s.bi.waiting.any (fun e => e.1 == off)

/-- The arbiter's mode at a queue depth: NORMAL enters DRAIN at 12, DRAIN returns to NORMAL at 8 (R138). -/
def arbiterAt (m : ArbiterMode) (depth : Nat) : ArbiterMode :=
  match m with
  | .normal => if Config.drainDepth ≤ depth then .drain else .normal
  | .drain => if depth ≤ Config.normalDepth then .normal else .drain

/-- Writes that wait join while there is room, oldest first (R137). -/
def BI.refill (b : BI) : BI :=
  let room := Config.pwqSize - b.pwq.length
  let q := b.pwq ++ b.waiting.take room
  { b with pwq := q, waiting := b.waiting.drop room, loadLeft := b.loadLeft - room, mode := arbiterAt b.mode q.length }

/-- Writes of the part join the tail of the queue, behind the writes that already wait (R137). A block whose writes wait goes on with its
events meanwhile, and any number of writes may wait: the manual says only in which order they join. DESIGN CHOICE (log 44). -/
def postAll (s : State) (ws : List (Nat × Word)) : State :=
  { s with bi := BI.refill { s.bi with waiting := s.bi.waiting ++ ws } }

/-- A read by the part: the youngest queued entry's value, or the SRAM word (R137). -/
def partRead (s : State) (off : Nat) : Word :=
  (youngest s.bi.pwq off).getD (wordAt s.mem (sramAddress s off))

/-- What the part most recently wrote to a word, or else the SRAM word: what a processor read returns once it is
answered (R137). -/
def latestWord (s : State) (off : Nat) : Word :=
  (youngest (s.bi.pwq ++ s.bi.waiting) off).getD (wordAt s.mem (sramAddress s off))

/-! ## Events -/

/-- Issue an event: it takes the entry at EVT_HEAD, or is dropped and counted when 255 are unread (R155). -/
def issue (s : State) (e : Event) : State :=
  if s.eu.unread ≤ 254 then
    let head := s.eu.evtHead
    postAll { s with eu := { s.eu with evtHead := (head + 1) % 256 } } (writesAt (eventOffset head) (e.words s.frame))
  else
    { s with eu := { s.eu with lost := min (s.eu.lost + 1) 65535, overflow := s.eu.overflow.occur } }

/-- A RECORDER occurrence (R158). -/
def recorderOccurrence (s : State) : State := { s with eu := { s.eu with recorder := s.eu.recorder.occur } }

/-! ## Faults -/

/-- Entry to LOCKDOWN by a fault that cannot be logged (R166, R167): the cause word is set, a fetch or a wait for room ends
(R146, R147), a load ends, and PART_STATE is issued. -/
def enterLockdown (s : State) (code : FaultCode) : State :=
  let old := s.su.part
  let s := { s with eu := { s.eu with cause := some code, unlogged := 1 }
                    su := { s.su with part := .lockdown, load := none }
                    re := { s.re with take := .idle } }
  issue s (.partState .lockdown old .doubleFault)

/-- A fault with room in the log: its record is written and FAULT_LOGGED issued (R165). -/
def logFault (s : State) (f : FaultReport) (double : Bool) : State :=
  let i := s.eu.fltHead
  let s := postAll s (writesAt (faultOffset i) (f.words s.frame double))
  let s := { s with eu := { s.eu with fltHead := (i + 1) % 32, fault := s.eu.fault.occur } }
  issue s (.faultLogged i f.code double)

/-- Raise a fault (R165 to R167). -/
def raiseFault (s : State) (f : FaultReport) : State :=
  if s.su.part = .lockdown then { s with eu := { s.eu with unlogged := min (s.eu.unlogged + 1) 65535 } }
  else if s.eu.unreadFaults < 15 then logFault s f false
  else if s.eu.unreadFaults = 15 then logFault s f true
  else enterLockdown s f.code

/-- Issue CONFIG_REJECT (R130), counted while a load is reading its entries (R174). -/
def rejectEntry (s : State) (what : Rejected) : State :=
  let s := issue s (.configReject what)
  if s.su.part = .loading then { s with su := { s.su with rejects := s.su.rejects + 1 } } else s

/-! ## Time -/

/-- The frame a number of frames after now (R36). -/
def after (s : State) (frames : Nat) : Frame := s.frame + BitVec.ofNat 48 frames

/-- Frames from an earlier frame to now (R117). -/
def since (s : State) (f : Frame) : Nat := (s.frame - f).toNat

/-- Whether the frame counter has reached an expiry frame (R36; log 6). -/
def reached (s : State) (f : Frame) : Bool := decide (since s f < 2 ^ 47)

end Sys2Proof.Machine
end

