-- ==== Sys2Proof/Machine/Usage.lean ====
section
/-!
DEFINITION. The Usage Meter's side of calls: measurement contexts (R115 to R118), call ends and durations (R119), the updates
they form (R120 to R122).
-/

namespace Sys2Proof.Machine

/-- Whether measurement is enabled for a line by the global mode and the line's applied flag (R115). -/
def measureEnabled (s : State) (n : Nat) : Bool := s.um.enable && (s.line n).applied.measureEnable

/-- Latch a context when a call begins (R115, R116). -/
def latchContext (s : State) (n seizures : Nat) (ring : Option Frame) : State :=
  s.setContext n (some
    { enabled := measureEnabled s n, format := s.um.format, seizures := seizures, answered := 0, unanswered := 0,
      ringOpen := ring, ringFrames := 0, connectAt := none, segment := none, connFrames := [], switches := 0, barges := 0,
      unrecOpen := none, unrecFrames := 0 })

/-- The call is answered from RINGING_IN (R116). -/
def countAnswered (s : State) (n : Nat) : State := modContext s n fun c => { c with answered := 1 }

/-- The call's ring or outgoing ringing ends unanswered (R116). -/
def countUnanswered (s : State) (n : Nat) : State := modContext s n fun c => { c with unanswered := 1 }

/-- A successful barge on the line (R11, R116). -/
def countBarge (s : State) (n : Nat) : State := modContext s n fun c => { c with barges := c.barges + 1 }

/-- Close the ring-in interval (R116). -/
def MeasContext.closeRing (c : MeasContext) (now : Frame) : MeasContext :=
  match c.ringOpen with
  | some f => { c with ringOpen := none, ringFrames := c.ringFrames + (now - f).toNat }
  | none => c

/-- Close the connect segment, giving its frames to its own path position (R117). -/
def MeasContext.closeSegment (c : MeasContext) (now : Frame) : MeasContext :=
  match c.segment with
  | some (f, p) =>
    { c with segment := none, connFrames := Table.put 0 c.connFrames p (Table.get 0 c.connFrames p + (now - f).toNat) }
  | none => c

/-- Close the unrecorded interval (R118). -/
def MeasContext.closeUnrecorded (c : MeasContext) (now : Frame) : MeasContext :=
  match c.unrecOpen with
  | some f => { c with unrecOpen := none, unrecFrames := c.unrecFrames + (now - f).toNat }
  | none => c

/-- The line leaves RINGING_IN (R116). -/
def endRinging (s : State) (n : Nat) : State := modContext s n fun c => c.closeRing s.frame

/-- The call becomes connected: its connect frame is set, once, and a segment opens (R117). -/
def openConnection (s : State) (n : Nat) : State :=
  modContext s n fun c =>
    { c with connectAt := some (c.connectAt.getD s.frame), segment := some (s.frame, (s.path n).lastUsed) }

/-- A failover completes: the segment closes and a new one opens at the new circuit's path position (R117, R116). -/
def switchSegment (s : State) (n : Nat) : State :=
  modContext s n fun c =>
    { c.closeSegment s.frame with switches := c.switches + 1, segment := some (s.frame, (s.path n).lastUsed) }

/-- The connect frames of a call: the sum over the path positions (R119). -/
def MeasContext.connectFrames (c : MeasContext) : Nat := ((List.range 4).map (Table.get 0 c.connFrames)).sum

/-- The call duration in units of 1000 frames, at most 65535 (R119). -/
def callDuration (connectFrames : Nat) : Nat := min (connectFrames / 1000) 65535

/-- The format markers of word 7 (section 11.7). -/
def formatMarker (format : Nat) : Word := if format = 1 then 0x00000101#32 else 0x00000100#32

/-- The words that a call-end update names, with what it does to each (R120). -/
def callEndOps (c : MeasContext) (now : Frame) : Table UpdOp :=
  [(0, .add c.seizures), (1, .add c.answered), (2, .add c.connectFrames), (3, .add c.ringFrames), (4, .add c.unanswered),
   (5, .add c.switches), (6, .write (frameLow now)), (7, .write (formatMarker c.format))] ++
  (if c.format = 1 then
    (List.range 4).map (fun p => (8 + p, UpdOp.add (Table.get 0 c.connFrames p))) ++ [(12, .add c.unrecFrames), (13, .add c.barges)]
   else [])

/-- Two operations on one word, made one after the other (R122). -/
def UpdOp.merge : UpdOp → UpdOp → UpdOp
  | old, .keep => old
  | _, .write v => .write v
  | .keep, .add n => .add n
  | .add m, .add n => .add (m + n)
  | .write v, .add n => .write (v + BitVec.ofNat 32 n)

/-- The operations of two updates of one block, merged word by word (R122). -/
def mergeOps (old new : Table UpdOp) : Table UpdOp :=
  new.foldl (fun t e => Table.put UpdOp.keep t e.1 ((Table.get UpdOp.keep t e.1).merge e.2)) old

/-- Place an update on the update list: merged into the line's record if it has one, else at the tail (R122). -/
def formUpdate (s : State) (n : Nat) (ops : Table UpdOp) : State :=
  if s.um.updates.any (fun u => u.line == n) then
    s.setUpdates (s.um.updates.map fun u => if u.line = n then { u with ops := mergeOps u.ops ops } else u)
  else s.setUpdates (s.um.updates ++ [{ line := n, ops := ops }])

/-- Enable and format that govern an immediate update: the context's, or those a latching now would take (R121). -/
def measuring (s : State) (n : Nat) : Bool × Nat :=
  match s.context n with
  | some c => (c.enabled, c.format)
  | none => (measureEnabled s n, s.um.format)

/-- A refusal with ACCESS or PRIVATE adds one to word 14, in format 1 (R121). -/
def countRefusal (s : State) (n : Nat) : State :=
  let m := measuring s n
  if m.1 && decide (m.2 = 1) then formUpdate s n [(14, .add 1)] else s

/-- A rejected ring adds one to word 4 of the target line (R121). -/
def countRejectedRing (s : State) (n : Nat) : State :=
  if (measuring s n).1 then formUpdate s n [(4, .add 1)] else s

/-- Close every interval of a context at the call's end (R119). -/
def MeasContext.finish (c : MeasContext) (now : Frame) : MeasContext :=
  ((c.closeRing now).closeSegment now).closeUnrecorded now

/-- The end of a call at the Usage Meter: the duration, the call-end update if enabled, and the context unlatched (R119). -/
def endMeasurement (s : State) (n : Nat) : State × Nat :=
  match s.context n with
  | none => (s, 0)
  | some c0 =>
    let c := c0.finish s.frame
    let s := if c.enabled then formUpdate s n (callEndOps c s.frame) else s
    (s.setContext n none, callDuration c.connectFrames)

/-- Whether some handset port carries the UNRECORDED mark with the REQUIRED line in its current set (R118). -/
def lineUnrecorded (s : State) (n : Nat) : Bool :=
  decide ((s.line n).applied.recordLevel = .required) &&
    s.ra.ports.any fun e =>
      e.2.unrecorded && decide (e.1 % 4 < 2) && ((s.handset { pos := e.1 / 4, hs := e.1 % 4 }).current.contains (.line n))

/-- Open or close the unrecorded interval of a line's context as the condition of R118 stands. -/
def followUnrecorded (s : State) (n : Nat) : State :=
  modContext s n fun c =>
    if lineUnrecorded s n then { c with unrecOpen := some (c.unrecOpen.getD s.frame) } else c.closeUnrecorded s.frame

/-- The Recording Allocator's reports to the Usage Meter, for every latched context (R118). -/
def followAllUnrecorded (s : State) : State := (Table.keys s.um.contexts).foldl followUnrecorded s

/-! ## Making the updates (R123) -/

/-- The value of one write-back: the value read plus the amount, modulo 2^32, or the value to write (R123). -/
def writeBack (old : Word) : UpdOp → Option Word
  | .keep => none
  | .add n => some (old + BitVec.ofNat 32 n)
  | .write v => some v

/-- The write-backs of an update, in ascending word order (R123). -/
def writeBacks (s : State) (u : UpdateRec) : List (Nat × Word) :=
  u.ops.filterMap fun e =>
    let off := measurementOffset u.line + e.1
    (writeBack (partRead s off) e.2).map fun w => (off, w)

/-- Whether a write to some word of a line's block is still queued or waits to join (R123, R140). -/
def blockPending (s : State) (n : Nat) : Bool :=
  (s.bi.pwq ++ s.bi.waiting).any fun e => decide (measurementOffset n ≤ e.1 ∧ e.1 < measurementOffset n + 16)

/-- An update in progress ends when its last write-back has left the queue, and the hold is released (R123, R140). -/
def endUpdateIfDone (s : State) : State :=
  match s.um.inProgress with
  | some u =>
    if u.reading = false ∧ blockPending s u.record.line = false then
      { s.setInProgress none with bi := { s.bi with measHold := none } }
    else s
  | none => s

end Sys2Proof.Machine
end

