-- ==== Sys2Proof/Machine/Recording.lean ====
section
/-!
DEFINITION. The Recording Allocator: port levels (R99), giving channels (R102), preemption (R103), the recomputation pass
(R104), gaps (R105), the refusal question (R106), enabling and disabling channels (R108, R109).
-/

namespace Sys2Proof.Machine

/-- The port of a handset (00_scope.md, Ports). -/
def handsetPort (p : Party) : Nat := 4 * p.pos + p.hs

/-- The handset of a handset port. -/
def portHandset (q : Nat) : Party := { pos := q / 4, hs := q % 4 }

/-- The lines of a current set, oldest first. -/
def currentLines (cur : List CurEntry) : List Nat :=
  cur.filterMap fun e => match e with
    | .line n => some n
    | .intercom _ => none

/-- The REQUIRED lines of a handset port's current set (R105), the oldest entry first. REC_GAP names two of them in this order, for which the
manual gives none. DESIGN CHOICE (log 53). -/
def requiredLines (s : State) (q : Nat) : List Nat :=
  (currentLines (s.handset (portHandset q)).current).filter fun n => decide ((s.line n).applied.recordLevel = .required)

/-- The level of a handset port (R99). -/
def handsetLevel (s : State) (q : Nat) : Level :=
  let cur := (s.handset (portHandset q)).current
  let levels := (currentLines cur).map fun n => (s.line n).applied.recordLevel
  if cur = [] then .none
  else if levels.contains .required then .required
  else if levels.contains .wanted || (s.position (q / 4)).applied.recordAll then .wanted
  else .none

/-- The level of a speaker port (R99). -/
def speakerLevel (s : State) (q : Nat) : Level :=
  let m : Mix := if q % 4 = 2 then .a else .b
  let cfg := (s.position (q / 4)).applied
  let flag := if q % 4 = 2 then cfg.recordA else cfg.recordB
  let chans := (s.speaker (q / 4)).channels
  if flag && (List.range 8).any (fun i =>
      let c := Table.get ChanRun.cold chans i
      decide (c.mix = m) && decide (c.source ≠ .none) && decide (0 < c.volume))
  then .wanted else .none

/-- The level of a port, from the state of the other controllers (R99). -/
def portLevel (s : State) (q : Nat) : Level := if q % 4 < 2 then handsetLevel s q else speakerLevel s q

/-! ## The wait queue -/

/-- Put a port at the tail of its class: REQUIRED ports stand ahead of WANTED ports (R101). -/
def enterClass (s : State) (q : Nat) (level : Level) : State :=
  let queue := s.ra.waitQueue.filter (· ≠ q)
  let isRequired := fun p => decide ((s.port p).level = .required)
  match level with
  | .required => s.setWaitQueue (queue.takeWhile isRequired ++ [q] ++ queue.dropWhile isRequired)
  | _ => s.setWaitQueue (queue ++ [q])

/-- Take a port out of the wait queue (R101). -/
def leaveQueue (s : State) (q : Nat) : State := s.setWaitQueue (s.ra.waitQueue.filter (· ≠ q))

/-! ## Marks -/

/-- Set the UNRECORDED mark of a port, with REC_GAP and a RECORDER occurrence (R105). -/
def markUnrecorded (s : State) (q : Nat) : State :=
  if (s.port q).unrecorded then s
  else
    let s := modPort s q fun r => { r with unrecorded := true }
    let lines := requiredLines s q
    issue (recorderOccurrence s) (.recGap q lines[0]? lines[1]?)

/-- Clear the UNRECORDED mark of a port, with REC_RESTORED: CHANNEL when it was given one, NOT_REQUIRED else (R105). -/
def clearUnrecorded (s : State) (q : Nat) (channel : Option Nat) : State :=
  if (s.port q).unrecorded then issue (modPort s q fun r => { r with unrecorded := false }) (.recRestored q channel) else s

/-! ## Giving a port a channel -/

/-- A channel passes to a port: its record, the port's, the wait queue, REC_ALLOC and the end of a gap (R102, R103). -/
def assignChannel (s : State) (ch q : Nat) (previous : Option Nat) (linger : Bool) : State :=
  let r := s.channel ch
  let s := s.setChannel ch
    { r with state := .assigned q, allocFrame := s.frame, lastPort := match previous with | some v => some v | none => r.lastPort }
  let s := s.setOrder (s.ra.order.filter (· ≠ ch) ++ [ch])
  let s := leaveQueue (modPort s q fun r => { r with channel := some ch }) q
  clearUnrecorded (issue s (.recAlloc ch q previous linger s.frame)) q (some ch)

/-- The free channel that last served the port and was freed within the linger time, freed latest (R102). -/
def lingerChannel (s : State) (q : Nat) : Option Nat :=
  (s.ra.freeList.filter fun ch =>
    decide ((s.channel ch).lastPort = some q) && decide (since s (s.channel ch).relFrame ≤ Config.lingerFrames)).getLast?

/-- Give a port a channel from the free list (R102); nothing happens when the list is empty. -/
def giveFree (s : State) (q : Nat) : State :=
  match lingerChannel s q, s.ra.freeList with
  | some ch, _ => assignChannel (s.setFreeList (s.ra.freeList.filter (· ≠ ch))) ch q none true
  | none, ch :: rest => assignChannel (s.setFreeList rest) ch q none false
  | none, [] => s

/-- The port a channel is assigned to. -/
def ChannelRec.holder (c : ChannelRec) : Option Nat :=
  match c.state with
  | .assigned q => some q
  | _ => none

/-- The WANTED holders, the most recent assignment first (R103). -/
def wantedHolders (s : State) : List Nat :=
  (s.ra.order.reverse.filterMap fun ch => (s.channel ch).holder).filter fun q => decide ((s.port q).level = .wanted)

/-- The victim of a preemption: the most recent speaker port, else the most recent handset port (R103). -/
def findVictim (s : State) : Option Nat :=
  match (wantedHolders s).find? fun q => decide (2 ≤ q % 4) with
  | some q => some q
  | none => (wantedHolders s).head?

/-- Preempt a victim's channel for a port (R103). -/
def preempt (s : State) (q victim : Nat) : State :=
  match (s.port victim).channel with
  | some ch =>
    let s := modPort s victim fun r => { r with channel := none }
    assignChannel (enterClass s victim .wanted) ch q (some victim) false
  | none => s

/-- Whether a channel is obtainable for a request (R106). -/
def obtainable (s : State) : Bool := decide (s.ra.freeList ≠ []) || (findVictim s).isSome

/-- Give a port a channel for a request that requires one: from the free list, or by preemption (R106). -/
def obtainChannel (s : State) (q : Nat) : State :=
  if s.ra.freeList ≠ [] then giveFree s q
  else match findVictim s with
    | some v => preempt s q v
    | none => s

/-- A port gives its channel back: it joins the tail of the free list (R104). -/
def releaseChannel (s : State) (q : Nat) : State :=
  match (s.port q).channel with
  | some ch =>
    let s := s.setChannel ch { s.channel ch with state := .free, relFrame := s.frame, lastPort := some q }
    let s := (s.setFreeList (s.ra.freeList ++ [ch])).setOrder (s.ra.order.filter (· ≠ ch))
    modPort s q fun r => { r with channel := none }
  | none => s

/-! ## The recomputation pass (R104) -/

/-- Step 2: a fall to NONE. -/
def passFall (s : State) (e : Nat × Level) : State :=
  if (s.port e.1).level ≠ .none ∧ e.2 = .none then
    let s := leaveQueue (releaseChannel s e.1) e.1
    clearUnrecorded (modPort s e.1 fun r => { r with level := .none }) e.1 none
  else s

/-- Step 3: a change of class. -/
def passClass (s : State) (e : Nat × Level) : State :=
  let old := (s.port e.1).level
  if old ≠ .none ∧ e.2 ≠ .none ∧ old ≠ e.2 then
    let waits := s.ra.waitQueue.contains e.1
    let s := modPort s e.1 fun r => { r with level := e.2 }
    if waits then enterClass (if e.2 = .wanted then clearUnrecorded s e.1 none else s) e.1 e.2 else s
  else s

/-- Step 4: a rise from NONE; a port that holds a channel already (R106) does not wait. -/
def passRise (s : State) (e : Nat × Level) : State :=
  if (s.port e.1).level = .none ∧ e.2 ≠ .none then
    let s := modPort s e.1 fun r => { r with level := e.2 }
    if (s.port e.1).channel = none then enterClass s e.1 e.2 else s
  else s

/-- Step 5: while the wait queue and the free list are both non-empty, the head of the queue is given a channel. -/
def passServe : Nat → State → State
  | 0, s => s
  | fuel + 1, s =>
    match s.ra.waitQueue, s.ra.freeList with
    | q :: _, _ :: _ => passServe fuel (giveFree s q)
    | _, _ => s

/-- Step 6, for one port: preempt for it, or mark it UNRECORDED. -/
def passPreempt (s : State) (q : Nat) : State :=
  if (s.port q).level = .required ∧ s.ra.waitQueue.contains q = true then
    match findVictim s with
    | some v => preempt s q v
    | none => markUnrecorded s q
  else s

/-- The recomputation pass for the named ports (R104). Each step takes the ports in ascending number; for step 3 the manual gives no order.
DESIGN CHOICE (log 47). -/
def recomputePorts (s : State) (named : List Nat) : State :=
  let levels := (Table.mergeKeys [] named).map fun q => (q, portLevel s q)
  let s := levels.foldl passRise (levels.foldl passClass (levels.foldl passFall s))
  let s := passServe s.ra.waitQueue.length s
  s.ra.waitQueue.foldl passPreempt s

/-! ## Enabling and disabling channels -/

/-- A channel's enabled field changes from 1 to 0 (R108). -/
def disableChannel (s : State) (ch : Nat) : State :=
  let r := s.channel ch
  match r.state with
  | .disabled => s
  | .free => (s.setChannel ch { r with state := .disabled }).setFreeList (s.ra.freeList.filter (· ≠ ch))
  | .assigned q =>
    let s := (s.setChannel ch { r with state := .disabled, lastPort := some q }).setOrder (s.ra.order.filter (· ≠ ch))
    let s := modPort s q fun r => { r with channel := none }
    recomputePorts (enterClass s q (s.port q).level) [q]

/-- A channel's enabled field changes from 0 to 1 (R109). -/
def enableChannel (s : State) (ch : Nat) : State :=
  let r := s.channel ch
  match r.state with
  | .disabled =>
    let s := s.setChannel ch { r with state := .free, relFrame := s.frame, lastPort := none }
    recomputePorts (s.setFreeList (s.ra.freeList ++ [ch])) []
  | _ => s

/-- The ports in the wait queue, and the REQUIRED ports among them (R111). -/
def shortage (s : State) : Nat × Nat :=
  (s.ra.waitQueue.length, (s.ra.waitQueue.filter fun q => decide ((s.port q).level = .required)).length)

end Sys2Proof.Machine
end

