-- ==== Sys2Proof/Machine/Mirrors.lean ====
section
/-!
DEFINITION. The status mirrors: the words of Line Status, Position Status and Recorder Status entries (R6, R65, R98, section 11.6), and
the posting of those that a change concerns (R55, R137; log 9).
-/

namespace Sys2Proof.Machine

/-! ## Line Status -/

/-- One participant of a Line Status entry (section 11.6); a vacant place is 0 in every bit. DESIGN CHOICE (log 51). -/
def participantCode : Option Participant → Nat
  | some e => place 4 0 e.party.pos + place 5 5 e.party.hs + place 6 6 e.mode.code + placeBit 15 true
  | none => 0

/-- The eight words of a line's status entry (R6, section 11.6). -/
def lineStatusWords (s : State) (n : Nat) : List Word :=
  let l := s.line n
  let p := s.path n
  let part := fun i => participantCode l.participants[i]?
  [ packed [place 7 0 l.state.code, place 11 8 l.state.causeCode, placeBit 12 l.pendingAdmin, placeBit 16 l.setter.isSome,
      placeBit 17 l.pathSwitching, placeBit 18 l.configRejected, placeBit 19 l.ringBurst],
    optPartyWord l.setter,
    packed [place 15 0 (l.active.getD 0xFFFF), place 17 16 p.lastUsed],
    packed [place 3 0 p.installed.toNat, place 7 4 p.available.toNat, place 11 8 p.operational.toNat],
    packed [place 15 0 (part 0), place 31 16 (part 1)],
    packed [place 15 0 (part 2), place 31 16 (part 3)],
    frameLow l.ringStart,
    frameLow l.lastChange ]

/-! ## Position Status -/

/-- One current entry (section 11.6); an empty one is 0 in every bit. DESIGN CHOICE (log 51). -/
def currentCode : Option CurEntry → Nat
  | some (.line n) => place 7 0 n + place 15 14 1
  | some (.intercom c) => place 7 0 c + place 15 14 2
  | none => 0

/-- Up to four numbers as the bytes of a word, the first at byte 0; bytes beyond the count are 0. DESIGN CHOICE (log 51). -/
def byteList (ns : List Nat) : Word :=
  packed [place 7 0 (ns.getD 0 0), place 15 8 (ns.getD 1 0), place 23 16 (ns.getD 2 0), place 31 24 (ns.getD 3 0)]

/-- The three words of a handset (section 11.6). -/
def handsetWords (h : HandsetRec) : List Word :=
  [ packed [place 15 0 (currentCode h.current[0]?), place 31 16 (currentCode h.current[1]?)],
    packed [place 2 0 h.hold.length],
    byteList h.hold ]

/-- The word of a speaker channel: its runtime state, and the applied PTT-allowed field (section 11.6). -/
def channelWord (c : ChanRun) (pttAllowed : Bool) : Word :=
  packed [place 7 0 c.source.kindCode, place 15 8 c.source.index, placeBit 16 c.mix.isB, placeBit 17 pttAllowed, place 31 24 c.volume]

/-- The assigned words of a position's status entry; words 19 to 63 are 0 (R65, R183, section 11.6). -/
def positionStatusWords (s : State) (p : Nat) : List Word :=
  let r := s.position p
  let sp := s.speaker p
  let alerts := s.alertList p
  [ packed [placeBit 0 r.applied.enabled, placeBit 1 r.configRejected, placeBit 2 r.dim, place 11 8 (sp.ptt.getD 15)] ] ++
  handsetWords (s.handset { pos := p, hs := 0 }) ++ handsetWords (s.handset { pos := p, hs := 1 }) ++
  [ packed [place 3 0 alerts.length], byteList (alerts.take 4), byteList (alerts.drop 4), packed [place 15 0 r.reach.toNat] ] ++
  (List.range 8).map fun i =>
    channelWord (Table.get ChanRun.cold sp.channels i) (Table.get ChanConfig.cold r.applied.channels i).pttAllowed

/-- All 64 words of a position's status entry (R183). -/
def positionStatusEntry (s : State) (p : Nat) : List Word := positionStatusWords s p ++ List.replicate 45 0#32

/-! ## Recorder Status -/

/-- The code of a channel's state (section 11.6). -/
def ChannelState.code : ChannelState → Nat
  | .disabled => 0 | .free => 1 | .assigned _ => 2

/-- The four words of a channel's status entry (R98, R183, section 11.6). -/
def recorderStatusWords (s : State) (r : Nat) : List Word :=
  let c := s.channel r
  [ packed [place 1 0 c.state.code, place 15 8 (c.holder.getD 0xFF), place 23 16 (c.lastPort.getD 0xFF)],
    frameLow c.allocFrame, frameLow c.relFrame, 0#32 ]

/-! ## Posting -/

/-- What the part's writes to a word that have not reached the SRAM leave there, if there are any (R137). -/
def partWrote (s : State) (off : Nat) : Option Word := youngest (s.bi.pwq ++ s.bi.waiting) off

/-- The words of an entry, from an offset on, that an owner still has to write after changes made since a state: a word that has changed, or,
where the part's own writes to it have come or gone meanwhile, one that the memory does not show as it now is. A word that only the processor
has written stays as it wrote it (R134, R139). -/
def changedWords (before s : State) : Nat → List Word → List Word → List (Nat × Word)
  | off, a :: as, b :: bs =>
    (if (if partWrote s off = partWrote before off then a else latestWord s off) = b then [] else [(off, b)]) ++
      changedWords before s (off + 1) as bs
  | _, _, _ => []

/-- The entries of a table, from an offset on, that writes not yet in the SRAM name. -/
def writtenEntries (s : State) (off size : Nat) : List Nat :=
  (s.bi.pwq ++ s.bi.waiting).filterMap fun e => if off ≤ e.1 then some ((e.1 - off) / size) else none

/-- The lines whose status items some table lists, or whose entries are being written. -/
def listedLines (s : State) : List Nat := Table.keys s.lc.lines ++ Table.keys s.cc.paths ++ writtenEntries s (lineStatusOffset 0) 8

/-- The positions whose status items some table lists, or whose entries are being written. -/
def listedPositions (s : State) : List Nat :=
  Table.keys s.hc.positions ++ Table.keys s.lc.alerts ++ Table.keys s.mx.speakers ++ (Table.keys s.hc.handsets).map (· / 2) ++
    writtenEntries s (positionStatusOffset 0) 64

/-- The channels whose status items the table lists, or whose entries are being written. -/
def listedChannels (s : State) : List Nat := Table.keys s.ra.channels ++ writtenEntries s (recorderStatusOffset 0) 4

/-- The changed words of one mirror table, for the entries that either state lists. -/
def mirrorChanges (count : Nat) (offset : Nat → Nat) (words : State → Nat → List Word) (listed : State → List Nat)
    (before s : State) : List (Nat × Word) :=
  ((Table.mergeKeys (Table.mergeKeys [] (listed before)) (listed s)).filter fun i => decide (i < count)).flatMap
    fun i => changedWords before s (offset i) (words before i) (words s i)

/-- Every mirror word to be written after changes made since a state (R6, R29, R65, R98). -/
def allMirrorChanges (before s : State) : List (Nat × Word) :=
  mirrorChanges 256 lineStatusOffset lineStatusWords listedLines before s ++
  mirrorChanges 32 positionStatusOffset positionStatusWords listedPositions before s ++
  mirrorChanges 128 recorderStatusOffset recorderStatusWords listedChannels before s

/-- Write the mirrors of what has changed since a state, as far as it is not written yet (R6, R29, R55, R65, R98; log 9). -/
def postMirrors (before s : State) : State := postAll s (allMirrorChanges before s)

/-- Every mirror of every entry, as a load writes them (R175). -/
def everyMirror (s : State) : List (Nat × Word) :=
  ((List.range 256).flatMap fun n => writesAt (lineStatusOffset n) (lineStatusWords s n)) ++
  ((List.range 32).flatMap fun p => writesAt (positionStatusOffset p) (positionStatusEntry s p)) ++
  ((List.range 128).flatMap fun r => writesAt (recorderStatusOffset r) (recorderStatusWords s r))

end Sys2Proof.Machine
end

