-- ==== Sys2Proof/Machine/Engine.lean ====
section
/-!
DEFINITION. The Request Engine: the ring (R143), the wait for room and the fetch (R145 to R147), the common checks (R149) and
completion (R151).
-/

namespace Sys2Proof.Machine

/-- The number of pending requests (R143). -/
def RE.pendingCount (r : RE) : Nat := (r.tail + 64 - r.head) % 64

/-- The part serves the ring: RUNNING or QUIESCED, with no restart drain in progress (R145, R177). -/
def servesRing (s : State) : Bool := s.su.part.serves && !s.su.draining

/-- An idle engine with a request pending looks at the room in the event ring (R145, R146). An engine that waits for room and finds the
ring empty, after a REQ_TAIL that took the request back, is idle. DESIGN CHOICE (log 48). -/
def beginTake (s : State) : State :=
  if servesRing s = true ∧ s.re.pendingCount ≠ 0 then
    if Config.roomNeeded < s.eu.free then s.setTake (.fetching []) else s.setTake .waitingForRoom
  else s.setTake .idle

/-- The engine begins to take a request if it is idle (R145). -/
def fetchIfIdle (s : State) : State :=
  match s.re.take with
  | .idle => beginTake s
  | _ => s

/-- A wait for room looks again at each change (R146). -/
def lookAgain (s : State) : State :=
  match s.re.take with
  | .waitingForRoom => beginTake s
  | _ => s

/-- The word that a fetch reads next (R147): word i of the slot at the head, forwarded from the queue. -/
def slotWord (s : State) (i : Nat) : Word := partRead s (requestOffset s.re.head + i)

/-- A fetch in flight reads one more word (R147). -/
def fetchWord (s : State) : State :=
  match s.re.take with
  | .fetching ws => if ws.length < 16 then s.setTake (.fetching (ws ++ [slotWord s ws.length])) else s
  | _ => s

/-- The sixteen words of the fetched request; a word that the fetch has not read is read now (R147; log 3). -/
def fetched (s : State) : Option (List Word) :=
  match s.re.take with
  | .fetching ws =>
    if servesRing s then some ((ws ++ (List.range (16 - ws.length)).map fun i => slotWord s (ws.length + i)).take 16) else none
  | _ => none

/-- The request under fetch has a code for which a condition holds. -/
def fetchedCode (s : State) (cond : Nat → Bool) : Bool :=
  match fetched s with
  | some ws => cond (requestCode ws)
  | none => false

/-- The fields of word 0 that a request names (R149, section 8.7). -/
inductive Names where
  | nothing | position | handset
deriving DecidableEq, Repr

/-- The handset is present in the position's applied mask (R62). -/
def present (cfg : PosConfig) (h : Nat) : Bool := if h = 0 then cfg.present0 else cfg.present1

/-- Steps 3 to 5 of the common checks (R149). -/
def commonRefusal (s : State) (ws : List Word) (names : Names) : Option Result :=
  let p := requestPosition ws
  let cfg := (s.position p).applied
  if names = .nothing then none
  else if s.su.positionCount ≤ p then some .badPosition
  else if cfg.enabled = false then some .positionOff
  else if names = .handset ∧ present cfg (requestHandset ws) = false then some .badHandset
  else none

/-- Steps 3 and 4 of R151: REQ_DONE, then the head advances and the engine is idle. -/
def completeRequest (s : State) (ws : List Word) (r : Result) (detail : Word × Word) : State :=
  let s := issue s (.reqDone s.re.head (wordOf ws 0) r detail.1 detail.2)
  { s with re := { s.re with head := (s.re.head + 1) % 64, take := .idle } }

/-- No request detail (R151). -/
def noDetail (_ : State) : Word × Word := (0#32, 0#32)

/-- A fetched request with the given code is taken: common checks, the owner's checks and effects with the mirrors they change, completion
(R55, R149, R151; log 10). The state is as it was when no such request has been fetched (log 4). -/
def takeRequest (s : State) (code : Nat) (names : Names) (own : State → List Word → State × Result)
    (detail : State → Word × Word) : State :=
  match fetched s with
  | some ws =>
    if requestCode ws = code then
      match commonRefusal s ws names with
      | some r => completeRequest s ws r (detail s)
      | none =>
        let done := own s ws
        completeRequest (postMirrors s done.1) ws done.2 (detail done.1)
    else s
  | none => s

end Sys2Proof.Machine
end

