-- ==== Sys2Proof/Machine/Port.lean ====
section
/-!
DEFINITION. The part's side of the memory-side port (R138): which of its requesters wait for the port, the order in which they asked, and
what each does when its access is taken.
-/

namespace Sys2Proof.Machine

/-! ## Who waits -/

/-- The words of a load's entry (R128, R131). -/
def LoadItem.words : LoadItem → Nat
  | .line _ => 16
  | .position _ => 64
  | .key _ => 1
  | .bridge _ => 64
  | .recorder _ => 1

/-- The words that the load's present step reads: the descriptor's (R172), or an entry's (R174). -/
def LoadStep.words : LoadStep → Nat
  | .descriptor => 64
  | .entries next => next.words
  | .ending => 0

/-- The words of a record that have an amount to add: those that the update reads (R123). -/
def UpdateRec.adds (u : UpdateRec) : Nat := u.ops.countP fun e => match e.2 with
  | .add _ => true
  | _ => false

/-- The accesses that a requester has still to make: the entries of the queue, or the words left of the slot under fetch, of the update
being read, or of the load's present step (R123, R138, R147, R172, R174). -/
def accessesLeft (s : State) : PortUser → Nat
  | .queue => s.bi.pwq.length
  | .fetch => match s.re.take with
    | .fetching ws => 16 - ws.length
    | _ => 0
  | .meter => match s.um.inProgress with
    | some u => if u.reading then u.record.adds - u.wordsRead else 0
    | none => 0
  | .load => match s.su.load with
    | some step => step.words - s.su.wordsRead
    | none => 0

/-- A requester waits for the port. -/
def waits (s : State) (u : PortUser) : Bool := decide (accessesLeft s u ≠ 0)

/-- Requesters that have come to wait ask for the port behind those that asked before; one whose wait is over asks no more (R138). Among
requesters that come to wait in one command, the queue asks first, then the fetch, the meter and the load. DESIGN CHOICE (log 43). -/
def askPort (s : State) : State :=
  let still := s.bi.asked.filter (waits s)
  let new := [PortUser.queue, .fetch, .meter, .load].filter fun u => waits s u && !still.contains u
  { s with bi := { s.bi with asked := still ++ new } }

/-! ## Taking an access -/

/-- The write reaches the SRAM. -/
def writeSram (s : State) (addr : Nat) (data : Word) (be : ByteEnables) : State := { s with mem := writeWord s.mem addr data be }

/-- The oldest entry of the queue is written to the SRAM and leaves; writes that wait join; the arbiter's mode follows (R137, R138). -/
def drainOne (s : State) : State :=
  match s.bi.pwq with
  | [] => s
  | (off, w) :: rest =>
    let s := writeSram s (sramAddress s off) w 0b1111#4
    let mode := arbiterAt s.bi.mode rest.length
    { s with bi := BI.refill { s.bi with pwq := rest, mode := mode } }

/-- An update in progress has read one more word (R123). Its block is held, so that its words do not change before it ends. -/
def readUpdateWord (s : State) : State :=
  match s.um.inProgress with
  | some u => s.setInProgress (some { u with wordsRead := u.wordsRead + 1 })
  | none => s

/-- The load has read one more word (R172, R174). Accesses to the aperture are held, so that no word changes before the step ends. -/
def readLoadWord (s : State) : State := { s with su := { s.su with wordsRead := s.su.wordsRead + 1 } }

/-- What a requester does when its access is taken. -/
def access (s : State) : PortUser → State
  | .queue => drainOne s
  | .fetch => fetchWord s
  | .meter => readUpdateWord s
  | .load => readLoadWord s

/-- A requester's access is taken, and the requester asks afresh if it still waits (R138). -/
def takeTurn (s : State) (u : PortUser) : State :=
  let s' := access s u
  askPort { s' with bi := { s'.bi with asked := s.bi.asked.erase u } }

/-! ## Turns of commands -/

/-- The queue's oldest entry is written, once every access asked for before it has been taken (R138). Those are reads, which end no hold; a
held access that the entry's leaving lets go is taken at the end of the command. -/
def drainInTurn (s : State) : State :=
  match s.bi.pwq with
  | [] => s
  | _ :: _ =>
    let s := askPort s
    takeTurn ((s.bi.asked.takeWhile (· ≠ .queue)).foldl takeTurn s) .queue

/-- With no command to take, the port goes to the access that was asked for first, when it is a read; an entry of the queue waits for its
own command (log 3). -/
def idleTurn (s : State) : State :=
  let s := askPort s
  match s.bi.asked with
  | u :: _ => if u = .queue then s else takeTurn s u
  | [] => s

end Sys2Proof.Machine
end

