-- ==== Sys2Proof/Machine/Alerts.lean ====
section
/-!
DEFINITION. The appearance index (R13) and the alert lists (R14 to R16).
-/

namespace Sys2Proof.Machine

/-- Whether a position has an AUDIBLE appearance of a line (R13). -/
def audibleAt (s : State) (n p : Nat) : Bool := (s.appEntries n).any fun e => decide (e.pos = p) && e.audible

/-- Line `a` stands before line `b` on alert lists: an older ring start, and the lower number among equal ones (R14). Ages
are counted back from now (log 17). -/
def ringsBefore (s : State) (a b : Nat) : Bool :=
  let ageA := since s (s.line a).ringStart
  let ageB := since s (s.line b).ringStart
  decide (ageB < ageA) || (decide (ageA = ageB) && decide (a < b))

/-- Insert a line at its place in a list (R14). -/
def insertByRing (s : State) (n : Nat) : List Nat → List Nat
  | [] => [n]
  | m :: t => if ringsBefore s n m then n :: m :: t else m :: insertByRing s n t

/-- Add a line to a position's alert list, if the position is enabled and the list has room and does not hold it (R14, R16). -/
def addAlert (s : State) (p n : Nat) : State :=
  let list := s.alertList p
  if (s.position p).applied.enabled = true ∧ list.length < 8 ∧ list.contains n = false then
    s.setAlertList p (insertByRing s n list)
  else s

/-- The lines in RINGING_IN. -/
def ringingLines (s : State) : List Nat :=
  (s.lc.lines.filter fun e => decide (e.2.state = .ringingIn)).map (·.1)

/-- The earliest ringing line with an AUDIBLE appearance at a position that is not on its list (R15). -/
def nextAlert (s : State) (p : Nat) (leaving : Option Nat) : Option Nat :=
  let cands := (ringingLines s).filter fun n =>
    decide (leaving ≠ some n) && audibleAt s n p && !(s.alertList p).contains n
  cands.foldl (fun best n => match best with
    | none => some n
    | some b => if ringsBefore s n b then some n else some b) none

/-- Backfill a list after an entry left (R15). -/
def backfill (s : State) (p : Nat) (leaving : Option Nat) : State :=
  match nextAlert s p leaving with
  | some n => addAlert s p n
  | none => s

/-- A line leaves a position's list, which is backfilled (R15); `leaving` is a line on its way out of RINGING_IN. -/
def removeAlert (s : State) (p n : Nat) (leaving : Option Nat) : State :=
  if (s.alertList p).contains n then
    backfill (s.setAlertList p ((s.alertList p).filter (· ≠ n))) p leaving
  else s

/-- A line that leaves RINGING_IN leaves every list that holds it, in ascending position order (R15). -/
def leaveAlerts (s : State) (n : Nat) : State :=
  (Table.mergeKeys [] (Table.keys s.lc.alerts)).foldl (fun s p => removeAlert s p n (some n)) s

/-- A line that enters RINGING_IN joins the lists of its AUDIBLE appearances, in ascending position order (R14). -/
def enterAlerts (s : State) (n : Nat) : State :=
  (s.appEntries n).foldl (fun s e => if e.audible then addAlert s e.pos n else s) s

/-- A position that becomes enabled has its list filled, earliest ring first, up to 8 (R16). -/
def fillAlerts (s : State) (p : Nat) : State := (List.range 8).foldl (fun s _ => backfill s p none) s

/-! ## Keys and the appearance index -/

/-- The line a key holds. -/
def KeyVal.lineOf : KeyVal → Option Nat
  | .line n _ => some n
  | .empty => none

/-- Whether some key of a position holds a line as AUDIBLE. -/
def anyAudibleKey (s : State) (n p : Nat) : Bool :=
  (List.range 128).any fun k => decide (s.key (128 * p + k) = .line n true)

/-- Insert or change the entry of a position in a line's index, in position order (R13). -/
def putEntry (p : Nat) (f : Option AppEntry → Option AppEntry) : List AppEntry → List AppEntry
  | [] => (f none).toList
  | e :: t =>
    if p < e.pos then (f none).toList ++ e :: t
    else if p = e.pos then (f (some e)).toList ++ t
    else e :: putEntry p f t

/-- One key of the position stops holding the line: step 1 of R13. -/
def indexLoses (s : State) (n p : Nat) : State :=
  s.setAppEntries n (putEntry p (fun e => match e with
    | some e => if e.count ≤ 1 then none else some { e with count := e.count - 1, audible := anyAudibleKey s n p }
    | none => none) (s.appEntries n))

/-- One key of the position starts to hold the line: step 2 of R13. -/
def indexGains (s : State) (n p : Nat) : State :=
  s.setAppEntries n (putEntry p (fun e => match e with
    | some e => some { e with count := e.count + 1, audible := anyAudibleKey s n p }
    | none => some { pos := p, count := 1, audible := anyAudibleKey s n p }) (s.appEntries n))

/-- Update the key and the appearance index when the key's applied value changes (R13). -/
def indexKey (s : State) (p k : Nat) (v : KeyVal) : State :=
  let old := s.key (128 * p + k)
  if old = v then s
  else
    let s := s.setKeyVal (128 * p + k) v
    let s := match old.lineOf with
      | some n => indexLoses s n p
      | none => s
    match v.lineOf with
    | some n => indexGains s n p
    | none => s

/-- What a key write does to the position's alert list for one line, by its AUDIBLE appearance before and after (R16). -/
def followAudible (before : State) (p : Nat) (s : State) (n : Nat) : State :=
  if audibleAt before n p = true ∧ audibleAt s n p = false then removeAlert s p n none
  else if audibleAt before n p = false ∧ audibleAt s n p = true ∧ (s.line n).state = .ringingIn then addAlert s p n
  else s

/-- A key takes its applied value, with the effects on the index and the alert list (R12, R13, R16). When one write takes away the last
AUDIBLE appearance of a line and gives the first of another, the index is updated whole, then the old line leaves the list, which is
backfilled, and then the new line joins. DESIGN CHOICE (log 46). -/
def applyKey (s : State) (p k : Nat) (v : KeyVal) : State :=
  let old := s.key (128 * p + k)
  let after_ := indexKey s p k v
  let lines := old.lineOf.toList ++ v.lineOf.toList
  lines.foldl (followAudible s p) after_

end Sys2Proof.Machine
end

