-- ==== Sys2Proof/Machine/Circuits.lean ====
section
/-!
DEFINITION. The Circuit Controller: naming of circuits (R28), path masks (R29), seizures (R30, R31), desired state, pending list
and transmitter (R33, R34), release (R35), line timers (R36).
-/

namespace Sys2Proof.Machine

/-! ## Effective configuration and naming -/

/-- The effective configuration of a line: its call copy in a call, its applied copy else (R3). -/
def LineRec.eff (l : LineRec) : CallCopy := l.callCopy.getD l.applied.call

/-- Whether a circuit is named (R28). -/
def isNamed (s : State) (c : Nat) : Bool :=
  s.lc.lines.any fun e =>
    (decide (e.1 < s.su.lineCount) && e.2.applied.call.path.contains c) ||
    (match e.2.callCopy with
     | some cc => cc.path.contains c
     | none => false)

/-- A circuit enters IDLE, or UNINSTALLED when it is not named (R28). -/
def enterIdle (s : State) (c : Nat) : State :=
  modCircuit s c fun r => { r with state := if isNamed s c then .idle else .uninstalled }

/-- A change of naming acts on a circuit in UNINSTALLED or IDLE alone (R28). -/
def renameCircuit (s : State) (c : Nat) : State :=
  match (s.circuit c).state with
  | .uninstalled => enterIdle s c
  | .idle => enterIdle s c
  | _ => s

/-- Naming changed for some circuits (R28). -/
def renameCircuits (s : State) (cs : List Nat) : State := cs.foldl renameCircuit s

/-! ## Path masks -/

/-- The mask of the path positions 0 to 3 with a property. -/
def maskOf (f : Nat → Bool) : BitVec 4 :=
  BitVec.ofNat 4 ((List.range 4).map fun i => if f i then 1 <<< i else 0).sum

/-- A circuit is not DOWN and not RESETTING (R29). -/
def circuitAvailable (s : State) (c : Nat) : Bool :=
  match (s.circuit c).state with
  | .down => false
  | .resetting => false
  | _ => true

/-- The masks of a line after its effective path group changed from `old` to `new` (R29). -/
def refreshMasks (s : State) (n : Nat) (old new : List Nat) : State :=
  modPath s n fun p =>
    { p with
      installed := maskOf fun i => decide (i < new.length)
      available := maskOf fun i => match new[i]? with
        | some c => circuitAvailable s c
        | none => false
      operational := maskOf fun i => match new[i]? with
        | some c => if old[i]? = some c then p.operational.getLsbD i else true
        | none => false }

/-- The path position at which a path group names a circuit. -/
def positionIn (path : List Nat) (c : Nat) : Option Nat := (path.take 4).findIdx? (· == c)

/-- Set or clear one bit of a mask. -/
def setMaskBit (m : BitVec 4) (i : Nat) (b : Bool) : BitVec 4 := maskOf fun j => if j = i then b else m.getLsbD j

/-- Do something for every line whose effective path group names a circuit, at the position that names it. -/
def forNaming (s : State) (c : Nat) (f : State → Nat → Nat → State) : State :=
  (Table.mergeKeys [] (Table.keys s.lc.lines)).foldl
    (fun st n => match positionIn (s.line n).eff.path c with
      | some i => f st n i
      | none => st) s

/-- The available bit of a circuit's position in every line that names it (R29, R45, R46). -/
def setAvailable (s : State) (c : Nat) (b : Bool) : State :=
  forNaming s c fun st n i =>
    modPath st n fun p => { p with available := setMaskBit p.available i (b && p.installed.getLsbD i) }

/-- The operational bit of a circuit's position is set again in every line that names it (R46); a bit at a position that is not
installed is 0 (R29). -/
def setOperational (s : State) (c : Nat) : State :=
  forNaming s c fun st n i =>
    modPath st n fun p => { p with operational := setMaskBit p.operational i (p.installed.getLsbD i) }

/-! ## Call copies -/

/-- The line takes its call copy (R3). -/
def takeCallCopy (s : State) (n : Nat) : State := modLine s n fun l => { l with callCopy := some l.applied.call }

/-- The call copy is discarded: naming and masks follow the applied copy again (R3, R28, R29). -/
def dropCallCopy (s : State) (n : Nat) : State :=
  match (s.line n).callCopy with
  | none => s
  | some cc =>
    let s := renameCircuits (modLine s n fun l => { l with callCopy := none }) cc.path
    refreshMasks s n cc.path (s.line n).applied.call.path

/-! ## Desired state and the transmitter -/

/-- The circuit is in transmission (R34). -/
def inTransmission (s : State) (c : Nat) : Bool :=
  match s.cc.sending with
  | some x => x.circuit == c
  | none => false

/-- The circuit's place in the pending list follows its desired and last-sent states (R34). -/
def relist (s : State) (c : Nat) : State :=
  let r := s.circuit c
  if inTransmission s c then s
  else if r.desired = r.lastSent then s.setPendingList (s.cc.pendingList.filter (· ≠ c))
  else if s.cc.pendingList.contains c then s
  else s.setPendingList (s.cc.pendingList ++ [c])

/-- Change what the part wants of a circuit (R33, R34). -/
def setDesired (s : State) (c : Nat) (d : LinkState) : State := relist (modCircuit s c fun r => { r with desired := d }) c

/-- The message that moves the last-sent state one step toward the desired state (R33). -/
def messageFor (lastSent desired : LinkState) : Option LinkMsg :=
  match lastSent, desired with
  | .idle, .seized => some .seize
  | .idle, .seizedRinging => some .seize
  | .seized, .seizedRinging => some .ringOn
  | .seizedRinging, .seized => some .ringOff
  | .seized, .idle => some .release
  | .seizedRinging, .idle => some .release
  | .idle, .reset => some .reset
  | .seized, .reset => some .reset
  | .seizedRinging, .reset => some .reset
  | _, _ => none

/-- The last-sent state after a message (R33). -/
def LinkMsg.sent : LinkMsg → LinkState
  | .seize => .seized | .ringOn => .seizedRinging | .ringOff => .seized | .release => .idle | .reset => .reset

/-- A free transmitter takes the head of the pending list and begins to send (R34; log 11). -/
def startSending (s : State) : State :=
  match s.cc.sending, s.cc.pendingList with
  | none, c :: rest =>
    let r := s.circuit c
    match messageFor r.lastSent r.desired with
    | some m => (s.setPendingList rest).setSending (some { circuit := c, msg := m, wentDown := false })
    | none => s.setPendingList rest
  | _, _ => s

/-! ## Release (R35) -/

/-- Nothing has been sent on the circuit: its last-sent state is IDLE and no message is in transmission (log 12). -/
def quiet (s : State) (c : Nat) : Bool := decide ((s.circuit c).lastSent = .idle) && !inTransmission s c

/-- A circuit in RELEASING without owner enters IDLE when nothing is left to send on it (R35). -/
def finishRelease (s : State) (c : Nat) : State :=
  let r := s.circuit c
  if r.state = .releasing ∧ r.owner = none ∧ quiet s c = true then enterIdle s c else s

/-- The circuit is released: desired IDLE, with a RELEASE still due on a far-held circuit unless the far end cleared
it; far-held is cleared and the circuit enters RELEASING with the owner given (R35). -/
def releaseCircuit (s : State) (c : Nat) (byFarClear : Bool) (owner : Option Nat) : State :=
  let s := modCircuit s c fun r =>
    { r with lastSent := if r.farHeld && !byFarClear then .seized else r.lastSent, desired := .idle, farHeld := false,
             state := .releasing, owner := owner }
  finishRelease (relist s c) c

/-! ## Seizures (R30, R31) -/

/-- A path position of a line is selectable (R30). -/
def selectable (s : State) (n i : Nat) : Bool :=
  let p := s.path n
  p.installed.getLsbD i && p.available.getLsbD i && p.operational.getLsbD i &&
    (match (s.line n).eff.path[i]? with
     | some c => decide ((s.circuit c).state = .idle)
     | none => false)

/-- The first selectable position among some, in their order. -/
def firstSelectable (s : State) (n : Nat) (is : List Nat) : Option Nat := is.find? fun i => selectable s n i

/-- The position a new seizure takes (R30). -/
def newPosition (s : State) (n : Nat) : Option Nat := firstSelectable s n [0, 1, 2, 3]

/-- The position a failover seizure takes: upward from the position after the failed one, wrapping, and never the failed
one (R31). -/
def failoverPosition (s : State) (n failed : Nat) : Option Nat :=
  firstSelectable s n [(failed + 1) % 4, (failed + 2) % 4, (failed + 3) % 4]

/-- Seize the circuit at a path position: steps 1 and 2 of R30. -/
def seizeAt (s : State) (n i : Nat) : State :=
  match (s.line n).eff.path[i]? with
  | some c =>
    let s := modCircuit s c fun r => { r with owner := some n, state := .seizing }
    let s := modPath (setDesired s c .seized) n fun p => { p with lastUsed := i }
    modLine s n fun l => { l with active := some c }
  | none => s

/-- The line loses its active circuit. -/
def clearActive (s : State) (n : Nat) : State := modLine s n fun l => { l with active := none }

/-- The line's active circuit is released without owner, and leaves the line (R35). -/
def giveUpCircuit (s : State) (n : Nat) (byFarClear : Bool) : State :=
  match (s.line n).active with
  | some c => clearActive (releaseCircuit s c byFarClear none) n
  | none => s

/-- Change what the part wants of a line's active circuit. -/
def wantActive (s : State) (n : Nat) (d : LinkState) : State :=
  match (s.line n).active with
  | some c => setDesired s c d
  | none => s

/-! ## Timers (R36) -/

def startSignal (s : State) (n : Nat) (p : SignalPurpose) (frames : Nat) : State :=
  modLine s n fun l => { l with signalTimer := some (p, after s frames) }

def startState (s : State) (n : Nat) (p : StatePurpose) (frames : Nat) : State :=
  modLine s n fun l => { l with stateTimer := some (p, after s frames) }

def stopSignal (s : State) (n : Nat) : State := modLine s n fun l => { l with signalTimer := none }

def stopState (s : State) (n : Nat) : State := modLine s n fun l => { l with stateTimer := none }

def stopTimers (s : State) (n : Nat) : State := stopState (stopSignal s n) n

/-- The ring timeout in frames (R36). -/
def ringFrames (s : State) : Nat := s.su.ringTimeout * Config.framesPerSecond

/-- The signal timer runs with a purpose and has reached its frame (R36). -/
def signalDue (s : State) (n : Nat) (p : SignalPurpose) : Bool :=
  match (s.line n).signalTimer with
  | some (q, f) => decide (q = p) && reached s f
  | none => false

/-- The state timer runs with a purpose and has reached its frame (R36). -/
def stateDue (s : State) (n : Nat) (p : StatePurpose) : Bool :=
  match (s.line n).stateTimer with
  | some (q, f) => decide (q = p) && reached s f
  | none => false

end Sys2Proof.Machine
end

