-- ==== Sys2Proof/Machine/Lines.lean ====
section
/-!
DEFINITION. What becomes of a line and of the handsets on it: changes of state and their events (R8, R19), call ends and entry to
CLEARING (R17, R18), drops (R54), pushes (R53), intercom ends (R72), the completion of a handset change (R55), forced
release (R24), NAILED seizures (R26), retry, failover and loss of path (R48, R49).
-/

namespace Sys2Proof.Machine

/-! ## Completion of a handset change (R55) -/

/-- The handset ports whose current set differs between two states, in ascending order. -/
def changedPorts (before s : State) : List Nat :=
  let nums := Table.mergeKeys (Table.keys before.hc.handsets) (Table.keys s.hc.handsets)
  (nums.filter fun i =>
    decide ((Table.get HandsetRec.cold before.hc.handsets i).current ≠ (Table.get HandsetRec.cold s.hc.handsets i).current)).map
    fun i => 4 * (i / 2) + i % 2

/-- The dim condition of a position (R73). -/
def dimOf (s : State) (p : Nat) : Bool :=
  (s.position p).applied.enabled &&
    (decide ((s.handset { pos := p, hs := 0 }).current ≠ []) || decide ((s.handset { pos := p, hs := 1 }).current ≠ []))

/-- The dim condition of a position is recomputed (R73). -/
def refreshDim (s : State) (p : Nat) : State := modPosition s p fun r => { r with dim := dimOf s p }

/-- Steps 1 and 2 of R55 for the handsets whose current set has changed since `before`: the ports are recomputed, then the dim conditions. -/
def completePorts (before s : State) : State :=
  match changedPorts before s with
  | [] => s
  | ports => (ports.map (· / 4)).foldl refreshDim (recomputePorts s ports)

/-- The completion of R55 for the handset records changed since `before`: the ports, the dim conditions, then the mirrors of the lines and
positions concerned (log 10). -/
def complete (before s : State) : State := postMirrors before (completePorts before s)

/-! ## Changes of a line's state (R5, R19) -/

/-- The line leaves the states in which a setter and a call copy are kept (R3, R10). -/
def LineState.keepsSetter : LineState → Bool
  | .outOfService _ => false
  | .idle => false
  | .clearing => false
  | _ => true

/-- States in which the effective configuration is the applied copy (R3). -/
def LineState.atRest : LineState → Bool
  | .outOfService _ => true
  | .idle => true
  | _ => false

/-- The line is OUT_OF_SERVICE, with either cause. -/
def LineState.isOos : LineState → Bool
  | .outOfService _ => true
  | _ => false

/-- A change of a line's state or OUT_OF_SERVICE cause, with its LINE_STATE (R19; log 15). -/
def changeState (s : State) (n : Nat) (new : LineState) (cause : StateCause) : State :=
  let old := (s.line n).state
  if old = new then s
  else
    let s := modLine s n fun l =>
      { l with state := new, lastChange := s.frame, pendingAdmin := l.pendingAdmin && decide (old ≠ .clearing),
               setter := if new.keepsSetter then l.setter else none }
    issue (if new.atRest then dropCallCopy s n else s) (.lineState n old new cause)

/-- Every participant is on hold, and there is one (R8). -/
def allHeld (l : LineRec) : Bool := decide (l.participants ≠ []) && l.participants.all fun e => decide (e.mode = .hold)

/-- The participant modes decide between CONNECTED and HELD (R8). -/
def applyModes (s : State) (n : Nat) : State :=
  let l := s.line n
  match l.state with
  | .connected => if l.eff.kind ≠ .nailed ∧ allHeld l = true then changeState s n .held .request else s
  | .held => if l.participants.any (fun e => decide (e.mode = .active)) then changeState s n .connected .request else s
  | _ => s

/-- The line becomes connected, by answer, acknowledgement or glare (R8, R117). -/
def becomeConnected (s : State) (n : Nat) (cause : StateCause) : State :=
  let l := s.line n
  let new : LineState := if l.eff.kind ≠ .nailed ∧ allHeld l = true then .held else .connected
  changeState (openConnection s n) n new cause

/-! ## Call ends -/

/-- The end of a call: its measurement, the timers and the flags that end with it, and LINE_RELEASED (R19, R36, R119). -/
def callEnd (s : State) (n : Nat) (why : ReleaseCause) : State :=
  let r := endMeasurement s n
  let s := modLine r.1 n fun l =>
    { l with signalTimer := none, stateTimer := none, pathSwitching := false, switchFrom := none, ringBurst := false }
  issue s (.lineReleased n why r.2)

/-- Entry to CLEARING (R18): the active circuit is released and kept as owner's, the call ends, the guard starts. -/
def enterClearing (s : State) (n : Nat) (why : ReleaseCause) (cause : StateCause) (byFarClear : Bool) : State :=
  let s := match (s.line n).active with
    | some c => releaseCircuit s c byFarClear (some n)
    | none => s
  changeState (startState (callEnd s n why) n .guard Config.guardFrames) n .clearing cause

/-- A line that is not NAILED is released when its participant list is empty (R17). -/
def releaseIfEmpty (s : State) (n : Nat) : State :=
  let l := s.line n
  if l.participants = [] ∧ l.eff.kind ≠ .nailed then
    match l.state with
    | .calling => changeState (callEnd (giveUpCircuit s n false) n .localEnd) n .idle .request
    | .connected => enterClearing s n .localEnd .request false
    | .held => enterClearing s n .localEnd .request false
    | _ => s
  else s

/-! ## Handsets and participants -/

/-- The line leaves a handset's record, wherever it stands (R54). -/
def hcDrop (s : State) (p : Party) (n : Nat) : State :=
  modHandset s p fun h => { current := h.current.filter (· ≠ .line n), hold := h.hold.filter (· ≠ n) }

/-- The participant leaves the list; a setter who leaves ends PRIVACY (R7, R10). -/
def removeParticipant (s : State) (n : Nat) (p : Party) : State :=
  modLine s n fun l =>
    { l with participants := l.participants.filter (fun e => decide (e.party ≠ p)),
             setter := if l.setter = some p then none else l.setter }

/-- A handset leaves a line: R54 on its side, R7 on the line's, then R8 and R17. -/
def leaveLine (s : State) (p : Party) (n : Nat) : State :=
  if (s.line n).participants.any (fun e => decide (e.party = p)) then
    releaseIfEmpty (applyModes (removeParticipant (hcDrop s p n) n p) n) n
  else hcDrop s p n

/-- Hold or activate: the participant's mode changes, then R8 applies (R7). -/
def setMode (s : State) (n : Nat) (p : Party) (m : Mode) : State :=
  applyModes (modLine s n fun l =>
    { l with participants := l.participants.map fun e => if e.party = p then { e with mode := m } else e }) n

/-- Every participant is dropped from the line, head to tail, as one change (R7, R54; log 32). -/
def dropAll (s : State) (n : Nat) : State :=
  let s' := (s.line n).participants.foldl (fun s e => hcDrop s e.party n) s
  modLine s' n fun l => { l with participants := [], setter := none }

/-- Drop of all participants with the completion of R55. -/
def dropAllComplete (s : State) (n : Nat) : State := complete s (dropAll s n)

/-! ## Intercom -/

/-- Call c reaches or alerts toward position p (R69). -/
def reaches (s : State) (c p : Nat) : Bool :=
  let r := s.call c
  match r.state, r.target with
  | .alerting, some (.position t) => decide (t = p)
  | .paging, some (.group g) =>
    let cfg := (s.position p).applied
    cfg.enabled && decide (r.caller.map (·.pos) ≠ some p) && cfg.groupMask.getLsbD g
  | _, _ => false

/-- The reach set of a position (R69). -/
def reachOf (s : State) (p : Nat) : BitVec 16 :=
  BitVec.ofNat 16 ((List.range 16).map fun c => if reaches s c p then 1 <<< c else 0).sum

/-- The reach sets of every position are recomputed (R69). -/
def recomputeReach (s : State) : State :=
  (List.range 32).foldl (fun s p => modPosition s p fun r => { r with reach := reachOf s p }) s

/-- The intercom entry leaves a handset's current set (R72). -/
def dropIntercom (s : State) (p : Party) (c : Nat) : State :=
  modHandset s p fun h => { h with current := h.current.filter (· ≠ .intercom c) }

/-- An intercom call ends (R72; log 38), but for the completion of R55. -/
def endIntercom (s : State) (c : Nat) (why : IcmEnd) : State :=
  let r := s.call c
  let s := (r.caller.toList ++ r.answerer.toList).foldl (fun s p => dropIntercom s p c) s
  recomputeReach (issue (s.setCall c IcmRec.cold) (.icmEnd c why r.state))

/-- The handset is caller or answerer of the call. -/
def IcmRec.hasParty (r : IcmRec) (p : Party) : Bool := decide (r.caller = some p) || decide (r.answerer = some p)

/-! ## Pushing a current set (R53) -/

/-- One entry of the current set is pushed. -/
def pushEntry (p : Party) (s : State) : CurEntry → State
  | .line n =>
    setMode (modHandset s p fun h => { current := h.current.filter (· ≠ .line n), hold := h.hold ++ [n] }) n p .hold
  | .intercom c => endIntercom s c (.left p)

/-- Push the handset's current set, oldest entry first (R53). -/
def pushCurrent (s : State) (p : Party) : State := (s.handset p).current.foldl (pushEntry p) s

/-- The handset's current set becomes one entry. -/
def setCurrent (s : State) (p : Party) (e : CurEntry) : State := modHandset s p fun h => { h with current := [e] }

/-- The lines of the current set plus the lines of the hold stack number at most 4 (R53). -/
def hasRoom (s : State) (p : Party) : Bool :=
  let h := s.handset p
  decide ((currentLines h.current).length + h.hold.length ≤ 4)

/-! ## Seizures of NAILED lines -/

/-- A line at rest is seized by a new seizure at a path position: call copy, context, circuit, CALLING (R3, R30, R115). -/
def seizeLine (s : State) (n i : Nat) (cause : StateCause) : State :=
  changeState (seizeAt (latchContext (takeCallCopy s n) n 1 none) n i) n .calling cause

/-- A NAILED line is seized, or is OUT_OF_SERVICE with cause NO_PATH (R4, R18, R26, R46, R176; log 13). -/
def seizeNailed (s : State) (n : Nat) (found notFound : StateCause) : State :=
  match newPosition s n with
  | some i => seizeLine s n i found
  | none => changeState s n (.outOfService .noPath) notFound

/-! ## Forced release (R24) -/

/-- The effects of FORCE_RELEASE on a line in RINGING_IN, CALLING, CONNECTED or HELD (R24). -/
def forceRelease (s : State) (n : Nat) : State :=
  let ringing := decide ((s.line n).state = .ringingIn)
  let s := dropAllComplete s n
  let s := if ringing then countUnanswered (leaveAlerts s n) n else s
  enterClearing s n .forced .request false

/-- The line is in a call: RINGING_IN, CALLING, CONNECTED or HELD. -/
def LineState.inCall : LineState → Bool
  | .ringingIn => true
  | .calling => true
  | .connected => true
  | .held => true
  | _ => false

/-! ## Failure of a line's circuit (R48, R49) -/

/-- A retry or failover found no selectable position (R49). -/
def pathLost (s : State) (n failed : Nat) : State :=
  let l := s.line n
  match l.state with
  | .calling =>
    let s := callEnd (dropAllComplete s n) n .lost
    changeState s n (if l.eff.kind = .nailed then .outOfService .noPath else .idle) .noPath
  | _ =>
    let s := dropAllComplete (issue s (.lineLost n failed)) n
    if l.eff.kind = .nailed then changeState (callEnd s n .lost) n (.outOfService .noPath) .noPath
    else enterClearing s n .lost .noPath false

/-- The ring or outgoing ringing of a line in RINGING_IN ends unanswered and the line enters IDLE. -/
def ringEnds (s : State) (n : Nat) (why : ReleaseCause) (cause : StateCause) : State :=
  changeState (callEnd (countUnanswered (leaveAlerts s n) n) n why) n .idle cause

/-- A line's circuit has failed and has left it (R48); `i` is the path position of the failed circuit. -/
def circuitFailed (s : State) (n failed i : Nat) (cause : StateCause) : State :=
  match (s.line n).state with
  | .ringingIn => ringEnds s n .lost cause
  | .calling =>
    let s := stopTimers s n
    match newPosition s n with
    | some j => seizeAt s n j
    | none => pathLost s n failed
  | .connected => failover s
  | .held => failover s
  | _ => s
where
  failover (s : State) : State :=
    let s := modLine (stopTimers s n) n fun l =>
      { l with ringBurst := false, pathSwitching := true, switchFrom := some (l.switchFrom.getD failed) }
    match failoverPosition s n i with
    | some j => seizeAt s n j
    | none => pathLost s n failed

/-- The path position at which a line's effective path group names a circuit. -/
def pathPositionOf (s : State) (n c : Nat) : Nat := (positionIn (s.line n).eff.path c).getD 0

/-- The circuit leaves its owner, and the owner's circuit has failed (R48). A line in CLEARING loses its active circuit. -/
def ownerLoses (s : State) (c : Nat) (owner : Option Nat) (cause : StateCause) : State :=
  match owner with
  | some n => circuitFailed (clearActive s n) n c (pathPositionOf s n c) cause
  | none => s

/-- A failover ends at the acknowledgement of its circuit (R48). -/
def completeSwitch (s : State) (n c : Nat) : State :=
  let l := s.line n
  let s := modLine (stopState s n) n fun l => { l with pathSwitching := false, switchFrom := none }
  switchSegment (issue s (.pathSwitch n (l.switchFrom.getD c) c (s.path n).lastUsed)) n

end Sys2Proof.Machine
end

