-- ==== Sys2Proof/Machine/Handsets.lean ====
section
/-!
DEFINITION. What requests do with a line or a handset once they have been taken: taking a line on a handset (R11, R20, R21), taking
a held line back (R59, R60), and the end of a position's use of its lines and calls (R63, R64).
-/

namespace Sys2Proof.Machine

/-! ## Checks -/

/-- The access class of a position (R62). -/
def positionClass (s : State) (p : Nat) : Nat := (s.position p).applied.accessClass

/-- The line requires a channel that the handset's port does not hold (R106). -/
def needsChannel (s : State) (p : Party) (n : Nat) : Bool :=
  decide ((s.line n).applied.recordLevel = .required) && decide ((s.port (handsetPort p)).channel = none)

/-- The Recording Allocator cannot provide a channel that the request needs (R106). -/
def noRecorder (s : State) (p : Party) (n : Nat) : Bool := needsChannel s p n && !obtainable s

/-- The port is given the channel that the request needs (R106). -/
def provideChannel (s : State) (p : Party) (n : Nat) : State :=
  if needsChannel s p n then obtainChannel s (handsetPort p) else s

/-- The participant limit of a line (R7). -/
def participantLimit (l : LineRec) : Nat := if l.eff.shared then 4 else 1

/-- A join overrides PRIVACY (R11). -/
def bargeApplies (s : State) (n p : Nat) : Bool :=
  let l := s.line n
  match l.setter with
  | some st => l.eff.bargeAllowed && decide (positionClass s p < positionClass s st.pos)
  | none => false

/-- The check by the line's state: step 6 of R20. -/
def stateRefusal (s : State) (n p : Nat) : Option Result :=
  let l := s.line n
  match l.state with
  | .idle => if s.su.part = .quiesced then some .quiesced else if newPosition s n = none then some .noPath else none
  | .ringingIn => none
  | .clearing => some .clearing
  | .outOfService _ => some .lineOos
  | _ =>
    if participantLimit l ≤ l.participants.length then some .lineBusy
    else if l.setter.isSome && !bargeApplies s n p then some .privateLine
    else none

/-! ## Joining a line (R21) -/

/-- Step 3 of R21: the handset joins the line. -/
def joinParticipant (s : State) (p : Party) (n : Nat) : State :=
  let l := s.line n
  let s := setCurrent s p (.line n)
  let s := modLine s n fun l =>
    { l with participants := l.participants ++ [{ party := p, mode := .active }],
             setter := if l.participants = [] ∧ l.eff.privacyDefault = true then some p else l.setter }
  match l.setter with
  | some st => countBarge (issue s (.barge n p st)) n
  | none => s

/-- An answered ring: the ringing circuit is wanted SEIZED, and the line becomes connected (R21). -/
def answerRing (s : State) (n : Nat) : State :=
  let s := endRinging (countAnswered (leaveAlerts (stopState (wantActive s n .seized) n) n) n) n
  becomeConnected s n .request

/-- Step 4 of R21: what becomes of the line. -/
def takeLine (s : State) (n : Nat) : State :=
  match (s.line n).state with
  | .idle =>
    match newPosition s n with
    | some i => seizeLine s n i .request
    | none => s
  | .ringingIn => answerRing s n
  | _ => applyModes s n

/-- The effects of a SELECT or ANSWER whose checks have passed (R21). -/
def joinLine (s : State) (p : Party) (n : Nat) : State :=
  complete s (takeLine (joinParticipant (pushCurrent (provideChannel s p n) p) p n) n)

/-! ## Retrieving a line (R59, R60) -/

/-- The effects of R60. -/
def retrieveEffects (s : State) (p : Party) (n : Nat) : State :=
  let s1 := provideChannel s p n
  let s1 := modHandset s1 p fun h => { h with hold := h.hold.filter (· ≠ n) }
  let s1 := setCurrent (pushCurrent s1 p) p (.line n)
  complete s (setMode s1 n p .active)

/-- Steps 2 to 4 of R59, then R60. -/
def retrieveLine (s : State) (p : Party) (n : Nat) : State × Result :=
  let h := s.handset p
  if h.hold.contains n = false then (s, .notHeld)
  else if 4 < (h.hold.length - 1) + (currentLines h.current).length then (s, .stackFull)
  else if noRecorder s p n then (recorderOccurrence s, .noRecorder)
  else (retrieveEffects s p n, .ok)

/-! ## Selecting a line (R20, R22) -/

/-- Steps 2 to 7 of R20, then R21. -/
def selectLine (s : State) (p : Party) (n : Nat) : State × Result :=
  let l := s.line n
  let h := s.handset p
  let current := h.current.contains (.line n)
  let held := h.hold.contains n
  if l.applied.enabled = false ∨ l.state.isOos = true then (s, .lineOos)
  else if (current || held) = false ∧ l.eff.accessClass < positionClass s p.pos then (countRefusal s n, .access)
  else if current then (s, .noChange)
  else if held then retrieveLine s p n
  else if hasRoom s p = false then (s, .stackFull)
  else
    match stateRefusal s n p.pos with
    | some .privateLine => (countRefusal s n, .privateLine)
    | some r => (s, r)
    | none => if noRecorder s p n then (recorderOccurrence s, .noRecorder) else (joinLine s p n, .ok)

/-! ## Releasing a handset (R56, R57) -/

/-- One entry of the current set is released: steps 1 and 2 of R56. -/
def releaseEntry (p : Party) (s : State) : CurEntry → State
  | .line n => leaveLine s p n
  | .intercom c => dropIntercom (endIntercom s c (.left p)) p c

/-- The top held line resumes (R57). -/
def resumeTop (s : State) (p : Party) : State :=
  match (s.handset p).hold.getLast? with
  | some n =>
    setMode (modHandset s p fun h => { current := [.line n], hold := h.hold.filter (· ≠ n) }) n p .active
  | none => s

/-- The effects of R56. -/
def releaseHandset (s : State) (p : Party) : State :=
  complete s (resumeTop ((s.handset p).current.foldl (releaseEntry p) s) p)

/-! ## A position leaves its lines and calls (R63, R64) -/

/-- Every line of a handset's current set, then of its hold stack from the top, is dropped: step 2 of R63. The manual gives no order between
two lines of the current set; the model takes the oldest entry first. DESIGN CHOICE (log 56). -/
def dropHandset (s : State) (p : Party) : State :=
  let h := s.handset p
  (currentLines h.current ++ h.hold.reverse).foldl (fun s n => leaveLine s p n) s

/-- The calls for which a condition holds end: step 3 of R63. The manual gives no order; the model takes ascending record number. DESIGN
CHOICE (log 52). -/
def endCallsWhere (s : State) (cond : IcmRec → Bool) (why : IcmEnd) : State :=
  (List.range 16).foldl (fun s c =>
    let r := s.call c
    if r.state ≠ .free ∧ cond r = true then endIntercom s c why else s) s

/-- A party of the call is a handset of the position, or the call is ALERTING toward it (R63). -/
def concernsPosition (p : Nat) (r : IcmRec) : Bool :=
  decide (r.caller.map (·.pos) = some p) || decide (r.answerer.map (·.pos) = some p) ||
    (decide (r.state = .alerting) && decide (r.target = some (.position p)))

/-- The runtime state that applied channel fields give (R63, R82). -/
def runtimeOf (c : ChanConfig) : ChanRun := { source := c.source, mix := c.mix, volume := c.volume }

/-- A position is disabled (R63; log 40). -/
def disablePosition (s : State) (p : Nat) : State :=
  let s1 := s.setAlertList p []
  let s1 := dropHandset (dropHandset s1 { pos := p, hs := 0 }) { pos := p, hs := 1 }
  let s1 := endCallsWhere s1 (concernsPosition p) (.disabledPosition p)
  let s1 := modSpeaker s1 p fun r =>
    { channels := Table.mapVals ChanRun.cold (fun _ c => { c with source := .none }) r.channels, ptt := none }
  let s1 := recomputePorts s1 [4 * p, 4 * p + 1, 4 * p + 2, 4 * p + 3]
  recomputeReach (refreshDim (complete s s1) p)

/-- A position is enabled (R63). -/
def enablePosition (s : State) (p : Nat) : State :=
  let cfg := (s.position p).applied
  let s := s.setSpeaker p { channels := Table.mapVals ChanRun.cold (fun _ c => runtimeOf c) cfg.channels, ptt := none }
  recomputeReach (recomputePorts (fillAlerts s p) [4 * p + 2, 4 * p + 3])

/-- A handset leaves the handsets-present mask (R64). -/
def removeHandset (s : State) (p : Party) : State :=
  endCallsWhere (dropHandset s p) (fun r => r.hasParty p) (.disabledHandset p)

/-- A speaker channel is replaced by its applied fields, and PTT on it goes off (R64). -/
def replaceChannel (s : State) (p i : Nat) (c : ChanConfig) : State :=
  modSpeaker s p fun r =>
    { channels := Table.put ChanRun.cold r.channels i (runtimeOf c), ptt := if r.ptt = some i then none else r.ptt }

/-- The channels of which a commit changes any applied field, the source index of a NONE source among them (R62, R64, R96). -/
def changedChannels (old new : PosConfig) : List Nat :=
  (List.range 8).filter fun i => decide (Table.get ChanConfig.cold old.channels i ≠ Table.get ChanConfig.cold new.channels i)

/-- The ports that a commit of an enabled position names besides those of handset changes (R64, R99). -/
def commitPorts (p : Nat) (old new : PosConfig) : List Nat :=
  (if old.recordAll ≠ new.recordAll then [4 * p, 4 * p + 1] else []) ++
  (if old.recordA ≠ new.recordA then [4 * p + 2] else []) ++
  (if old.recordB ≠ new.recordB then [4 * p + 3] else []) ++
  (if changedChannels old new ≠ [] then [4 * p + 2, 4 * p + 3] else [])

/-- A commit leaves a position enabled (R64): handset removal, then channel replacement, then one recomputation and completion. When one
commit removes both handsets, handset 0 leaves its lines and calls before handset 1 does. DESIGN CHOICE (log 45). -/
def changePosition (s : State) (p : Nat) (old new : PosConfig) : State :=
  let s1 := if old.present0 = true ∧ new.present0 = false then removeHandset s { pos := p, hs := 0 } else s
  let s1 := if old.present1 = true ∧ new.present1 = false then removeHandset s1 { pos := p, hs := 1 } else s1
  let s1 := (changedChannels old new).foldl
    (fun s i => replaceChannel s p i (Table.get ChanConfig.cold new.channels i)) s1
  let ports := changedPorts s s1 ++ commitPorts p old new
  let s1 := if ports = [] then s1 else recomputePorts s1 ports
  recomputeReach ((ports.map (· / 4)).foldl refreshDim s1)

/-- A valid position entry is applied (R62 to R64). -/
def applyPosition (s : State) (p : Nat) (cfg : PosConfig) : State :=
  let old := (s.position p).applied
  let s := modPosition s p fun r => { r with applied := cfg, configRejected := false }
  match old.enabled, cfg.enabled with
  | true, false => disablePosition s p
  | false, true => enablePosition s p
  | true, true => changePosition s p old cfg
  | false, false => s

end Sys2Proof.Machine
end

