-- ==== Sys2Proof/Machine/Mixer.lean ====
section
/-!
DEFINITION. The Conference Mixer: the snapshot (R76), gains and saturation (R77, R78), the samples of every output (R79 to R85), bridges
(R89), energies (R90) and talker selection (R91).
-/

namespace Sys2Proof.Machine

/-! ## The snapshot (R76) -/

/-- The snapshot of the state that a frame's outputs depend on (R76). -/
def takeSnapshot (s : State) : Snapshot :=
  { lines := Table.mapVals SnapLine.cold
      (fun _ l => { participants := l.participants, active := l.active, pathSwitching := l.pathSwitching }) s.lc.lines
    circuits := Table.mapVals SnapCircuit.cold (fun _ c => { state := c.state, owner := c.owner }) s.cc.circuits
    handsets := s.hc.handsets
    calls := s.hc.calls
    positions := Table.mapVals SnapPos.cold
      (fun _ p => { enabled := p.applied.enabled, dim := p.dim, dimCode := p.applied.dimCode, pageVolume := p.applied.pageVolume,
                    reach := p.reach }) s.hc.positions
    speakers := s.mx.speakers
    bridges := Table.mapVals SnapBridge.cold (fun _ b => { applied := b.applied, selected := b.selected }) s.mx.bridges
    recorders := Table.mapVals none (fun _ c => c.holder) s.ra.channels
    unrecorded := Table.mapVals false (fun _ r => r.unrecorded) s.ra.ports }

namespace Snapshot

def line (v : Snapshot) (n : Nat) : SnapLine := Table.get SnapLine.cold v.lines n
def circuit (v : Snapshot) (c : Nat) : SnapCircuit := Table.get SnapCircuit.cold v.circuits c
def handset (v : Snapshot) (p : Party) : HandsetRec := Table.get HandsetRec.cold v.handsets (2 * p.pos + p.hs)
def call (v : Snapshot) (c : Nat) : IcmRec := Table.get IcmRec.cold v.calls c
def position (v : Snapshot) (p : Nat) : SnapPos := Table.get SnapPos.cold v.positions p
def speaker (v : Snapshot) (p : Nat) : SpeakerRec := Table.get SpeakerRec.cold v.speakers p
def bridge (v : Snapshot) (b : Nat) : SnapBridge := Table.get SnapBridge.cold v.bridges b

end Snapshot

/-! ## Gains and saturation (R77, R78) -/

/-- The factor of a gain code, in units of 1/4096 (R77). -/
def gainFactor (code : Nat) : Int :=
  ([0, 32, 45, 64, 91, 128, 181, 256, 362, 512, 724, 1024, 1448, 2048, 2896, 4096] : List Int).getD code 0

/-- The scaled value of a sample or sum at a gain code: floor((x f + 2048) / 4096) (R77, R84). -/
def scaled (x : Int) (code : Nat) : Int := (x * gainFactor code + 2048) / 4096

/-- Saturation (R78). -/
def saturate (x : Int) : Int := max (-32768) (min 32767 x)

/-- A saturated value as a sample. -/
def toSample (x : Int) : Sample := BitVec.ofInt 16 x

/-! ## Inputs (R74) -/

/-- The input sample at 64 x highway + slot. -/
def inputAt (inputs : Table Sample) (i : Nat) : Int := (Table.get (0#16) inputs i).toInt

/-- The receive sample of a circuit. -/
def receiveOf (inputs : Table Sample) (c : Nat) : Int := inputAt inputs c

/-- The microphone of a handset: highway 4, slot 2p + h. -/
def microphone (inputs : Table Sample) (p : Party) : Int := inputAt inputs (256 + 2 * p.pos + p.hs)

/-- The PTT microphone of a position: highway 5, slot p. -/
def pttMicrophone (inputs : Table Sample) (p : Nat) : Int := inputAt inputs (320 + p)

/-! ## Bridges (R79, R89) -/

/-- The line receive of a line (R79). -/
def lineReceive (v : Snapshot) (inputs : Table Sample) (n : Nat) : Int :=
  let l := v.line n
  match l.active with
  | some c => if (v.circuit c).state = .inUse ∧ l.pathSwitching = false then receiveOf inputs c else 0
  | none => 0

/-- The source of the position's PTT channel (R82). -/
def pttSource (r : SpeakerRec) : Source :=
  match r.ptt with
  | some i => (Table.get ChanRun.cold r.channels i).source
  | none => .none

/-- Member i of a bridge, when it is in service (R86). -/
def inService (cfg : BridgeConfig) (i : Nat) : Option Member :=
  match cfg.members[i]? with
  | some m => if cfg.enabled && m.enabled then some m else none
  | none => none

/-- The member index at which a bridge has a member in service (R86). -/
def serviceIndex (cfg : BridgeConfig) (who : MemberKind) : Option Nat :=
  (List.range cfg.members.length).find? fun i => match inService cfg i with
    | some m => decide (m.who = who)
    | none => false

/-- The member sample (R89). -/
def memberSample (v : Snapshot) (inputs : Table Sample) (b : Nat) : MemberKind → Int
  | .line n => lineReceive v inputs n
  | .ptt p => if pttSource (v.speaker p) = .bridge b then pttMicrophone inputs p else 0

/-- The contribution of member i (R89); 0 for a member not in service. -/
def contribution (v : Snapshot) (inputs : Table Sample) (b i : Nat) : Int :=
  match inService (v.bridge b).applied i with
  | some m => scaled (memberSample v inputs b m.who) m.gain
  | none => 0

/-- The bridge sum (R89). -/
def bridgeSum (v : Snapshot) (inputs : Table Sample) (b : Nat) : Int :=
  ((v.bridge b).selected.map (contribution v inputs b)).sum

/-- The bridge output (R89). -/
def bridgeOutput (v : Snapshot) (inputs : Table Sample) (b : Nat) : Int := saturate (bridgeSum v inputs b)

/-- The member mix of member i (R89): N-minus-one for a selected member. -/
def memberMix (v : Snapshot) (inputs : Table Sample) (b i : Nat) : Int :=
  if (v.bridge b).selected.contains i then saturate (bridgeSum v inputs b - contribution v inputs b i)
  else bridgeOutput v inputs b

/-- The bridge and member index at which a line is a LINE member in service (R79). -/
def lineMember (v : Snapshot) (n : Nat) : Option (Nat × Nat) :=
  v.bridges.findSome? fun e => (serviceIndex e.2.applied (.line n)).map fun i => (e.1, i)

/-- The line audio of a line (R79). -/
def lineAudio (v : Snapshot) (inputs : Table Sample) (n : Nat) : Int :=
  match lineMember v n with
  | some (b, i) => saturate (lineReceive v inputs n + memberMix v inputs b i)
  | none => lineReceive v inputs n

/-! ## Outputs -/

/-- The ACTIVE participants of a line. -/
def activeParties (v : Snapshot) (n : Nat) : List Party :=
  ((v.line n).participants.filter fun e => decide (e.mode = .active)).map (·.party)

/-- The lines other than n in the current sets of n's ACTIVE participants, each once (R80). -/
def joinedLines (v : Snapshot) (n : Nat) : List Nat :=
  ((activeParties v n).flatMap fun p => currentLines (v.handset p).current).eraseDups.filter (· ≠ n)

/-- The enabled positions whose PTT channel has a LINE source naming the line (R80). -/
def pttTalkers (v : Snapshot) (n : Nat) : List Nat :=
  (List.range 32).filter fun p => (v.position p).enabled && decide (pttSource (v.speaker p) = .line n)

/-- The circuit send of a line (R80). -/
def circuitSend (v : Snapshot) (inputs : Table Sample) (n : Nat) : Int :=
  let mics := ((activeParties v n).map (microphone inputs)).sum
  let joined := ((joinedLines v n).map (lineAudio v inputs)).sum
  let ptts := ((pttTalkers v n).map (pttMicrophone inputs)).sum
  let mix := match lineMember v n with
    | some (b, i) => memberMix v inputs b i
    | none => 0
  saturate (mics + joined + ptts + mix)

/-- The output slot of a circuit (R75). -/
def circuitOutput (v : Snapshot) (inputs : Table Sample) (c : Nat) : Int :=
  let r := v.circuit c
  match r.state, r.owner with
  | .inUse, some n => circuitSend v inputs n
  | _, _ => 0

/-- The other party of an intercom call. -/
def otherParty (r : IcmRec) (p : Party) : Option Party := if r.caller = some p then r.answerer else r.caller

/-- The earpiece of a handset (R81). -/
def earpiece (v : Snapshot) (inputs : Table Sample) (p : Party) : Int :=
  match (v.handset p).current with
  | [] => 0
  | .intercom c :: _ =>
    let r := v.call c
    if r.state = .talking then
      match otherParty r p with
      | some q => microphone inputs q
      | none => 0
    else 0
  | cur =>
    let lines := currentLines cur
    let others := ((lines.flatMap (activeParties v)).eraseDups.filter (· ≠ p))
    saturate ((lines.map (lineAudio v inputs)).sum + (others.map (microphone inputs)).sum)

/-- The channel audio of a speaker channel (R83). -/
def channelAudio (v : Snapshot) (inputs : Table Sample) (p i : Nat) : Int :=
  let r := v.speaker p
  match (Table.get ChanRun.cold r.channels i).source with
  | .none => 0
  | .line n => lineAudio v inputs n
  | .bridge b =>
    let cfg := (v.bridge b).applied
    if cfg.enabled then
      match (if r.ptt = some i then serviceIndex cfg (.ptt p) else none) with
      | some m => memberMix v inputs b m
      | none => bridgeOutput v inputs b
    else 0

/-- The mix sum of a speaker mix: step 1 of R84. -/
def mixSum (v : Snapshot) (inputs : Table Sample) (p : Nat) (m : Mix) : Int :=
  let chans := (v.speaker p).channels
  ((List.range 8).map fun i =>
    let c := Table.get ChanRun.cold chans i
    if c.mix = m then scaled (channelAudio v inputs p i) c.volume else 0).sum

/-- The pages that reach a position, at its page volume: step 3 of R84. -/
def pageSum (v : Snapshot) (inputs : Table Sample) (p : Nat) : Int :=
  let r := v.position p
  ((List.range 16).map fun c =>
    let call := v.call c
    match call.state, call.caller with
    | .paging, some caller => if r.reach.getLsbD c then scaled (microphone inputs caller) r.pageVolume else 0
    | _, _ => 0).sum

/-- The output of a speaker mix (R84). -/
def speakerMix (v : Snapshot) (inputs : Table Sample) (p : Nat) (m : Mix) : Int :=
  let r := v.position p
  let sum := mixSum v inputs p m
  let dimmed := if r.dim then scaled sum r.dimCode else sum
  saturate (dimmed + if m = .a then pageSum v inputs p else 0)

/-- The feed of a recorder channel (R85). -/
def recorderFeed (v : Snapshot) (inputs : Table Sample) (r : Nat) : Int :=
  match Table.get none v.recorders r with
  | some q =>
    if q % 4 < 2 then saturate (microphone inputs (portHandset q) + earpiece v inputs (portHandset q))
    else speakerMix v inputs (q / 4) (if q % 4 = 2 then .a else .b)
  | none => 0

/-- The output sample at 64 x highway + slot (R74). -/
def outputAt (v : Snapshot) (inputs : Table Sample) (i : Nat) : Sample :=
  toSample (
    if i < 256 then circuitOutput v inputs i
    else if i < 320 then earpiece v inputs { pos := (i - 256) / 2, hs := i % 2 }
    else if i < 384 then speakerMix v inputs ((i - 320) / 2) (if i % 2 = 0 then .a else .b)
    else recorderFeed v inputs (i - 384))

/-- Every output sample of a frame (R74, R76). -/
def frameOutputs (v : Snapshot) (inputs : Table Sample) : Table Sample := Table.ofFun (0#16) (List.range 512) (outputAt v inputs)

/-! ## Selection (R91) and energy (R90) -/

/-- The rank value of a member (R91). -/
def rankValue (r : BridgeRec) (i : Nat) : Nat :=
  Table.get 0 r.energy i + if r.selected.contains i then r.applied.hysteresis else 0

/-- Insert a candidate behind those that rank at or above it. -/
def rankInsert (r : BridgeRec) (i : Nat) : List Nat → List Nat
  | [] => [i]
  | j :: t => if rankValue r j < rankValue r i then i :: j :: t else j :: rankInsert r i t

/-- The candidates in rank order: highest first, the lower index first among equals (R91). -/
def rankOrder (r : BridgeRec) : List Nat :=
  let cands := (List.range r.applied.members.length).filter fun i =>
    (inService r.applied i).isSome && decide (r.applied.threshold ≤ Table.get 0 r.energy i)
  cands.foldl (fun acc i => rankInsert r i acc) []

/-- The talker selection of a bridge (R91). -/
def selectTalkers (r : BridgeRec) : BridgeRec :=
  if r.applied.enabled then { r with selected := (rankOrder r).take r.applied.k } else r

/-- The magnitude of a sample, at most 32767 (R90). -/
def magnitude (x : Int) : Nat := min x.natAbs 32767

/-- The energy estimate after a frame (R90). -/
def nextEnergy (e a : Nat) : Nat := e - e / 32 + a / 32

/-- The energies of a bridge's members after a frame (R90). -/
def updateEnergies (v : Snapshot) (inputs : Table Sample) (b : Nat) (r : BridgeRec) : BridgeRec :=
  { r with energy := Table.ofFun 0 (List.range r.applied.members.length) fun i =>
      match inService r.applied i with
      | some m => nextEnergy (Table.get 0 r.energy i) (magnitude (memberSample v inputs b m.who))
      | none => 0 }

/-- The mixer works in RUNNING, QUIESCED and LOCKDOWN (R76), also during a restart drain, which keeps the part state (R177). -/
def mixerRuns (s : State) : Bool := s.su.part.carries

/-- One frame of the mixer (R76): on a selection frame the selection, which the snapshot then shows; the snapshot; the outputs, which a
restart drain keeps at 0 (R177; log 19); and the energies at the frame's end (log 5). -/
def runFrame (s : State) (inputs : Table Sample) : State :=
  let bridges := if s.frame.toNat % 80 = 0 then Table.mapVals BridgeRec.cold (fun _ r => selectTalkers r) s.mx.bridges else s.mx.bridges
  let v := takeSnapshot { s with mx := { s.mx with bridges := bridges } }
  { s with mx := { s.mx with
      snapshot := some v
      out := if s.su.draining then [] else frameOutputs v inputs
      bridges := Table.mapVals BridgeRec.cold (updateEnergies v inputs) bridges } }

/-- The mixer stops: every output 0, every energy 0, every selected set empty, no snapshot (R76, R171). -/
def stopMixer (s : State) : State :=
  { s with mx := { s.mx with
      snapshot := none
      out := []
      bridges := Table.mapVals BridgeRec.cold (fun _ r => { r with energy := [], selected := [] }) s.mx.bridges } }

end Sys2Proof.Machine
end

