-- ==== Sys2Proof/Machine/Speakers.lean ====
section
/-!
DEFINITION. Bridge commits (R87, R88) and the speaker requests' effects (R93 to R96).
-/

namespace Sys2Proof.Machine

/-! ## Bridge commits -/

/-- A LINE member of the applied entry of some bridge other than b names the line (R87). -/
def memberElsewhere (s : State) (b n : Nat) : Bool :=
  s.mx.bridges.any fun e => decide (e.1 ≠ b) && e.2.applied.members.any fun m => decide (m.who = .line n)

/-- A member names what it may: a configured NAILED line of no other bridge, or a configured position (R87). -/
def memberAllowed (s : State) (b : Nat) (m : Member) : Bool :=
  match m.who with
  | .line n => decide (n < s.su.lineCount) && decide ((s.line n).applied.call.kind = .nailed) && !memberElsewhere s b n
  | .ptt p => decide (p < s.su.positionCount)

/-- The validation of a bridge entry (R87). -/
def validBridge (s : State) (b : Nat) (ws : List Word) : Option BridgeConfig :=
  match parseBridge s.su.bridgeCount b ws with
  | some cfg => if cfg.members.all (memberAllowed s b) = true ∧ (cfg.members.map (·.who)).Nodup then some cfg else none
  | none => none

/-- Member i is in service before and after with the same kind and index (R88). -/
def keepsMember (old new : BridgeConfig) (i : Nat) : Bool :=
  match inService old i, inService new i with
  | some a, some b => decide (a.who = b.who)
  | _, _ => false

/-- The position's PTT channel has a source naming the bridge of which it is no in-service PTT member (R88, R96). -/
def losesPtt (b : Nat) (cfg : BridgeConfig) (p : Nat) (r : SpeakerRec) : Bool :=
  decide (pttSource r = .bridge b) && (serviceIndex cfg (.ptt p)).isNone

/-- The PTT channels that a bridge commit turns off (R88, R96). -/
def turnOffPtts (s : State) (b : Nat) (cfg : BridgeConfig) : State :=
  let off := fun p r => if losesPtt b cfg p r then { r with ptt := none } else r
  { s with mx := { s.mx with speakers := Table.mapVals SpeakerRec.cold off s.mx.speakers } }

/-- A valid bridge entry is applied, with its effects on the live state (R88; log 36). -/
def applyBridge (s : State) (b : Nat) (cfg : BridgeConfig) : State :=
  let r := s.bridge b
  let keep := fun i => keepsMember r.applied cfg i
  let s := s.setBridge b
    { applied := cfg, configRejected := false
      energy := Table.ofFun 0 (List.range 16) fun i => if keep i then Table.get 0 r.energy i else 0
      selected := (r.selected.filter keep).take cfg.k }
  turnOffPtts s b cfg

/-! ## Speaker requests -/

/-- The speaker ports of a position. -/
def speakerPorts (p : Nat) : List Nat := [4 * p + 2, 4 * p + 3]

/-- Step 2 of R93: a configured line, or a configured and enabled bridge. -/
def tunable (s : State) : Source → Bool
  | .none => true
  | .line n => decide (n < s.su.lineCount)
  | .bridge b => decide (b < s.su.bridgeCount) && (s.bridge b).applied.enabled

/-- Step 3 of R93: the access class. -/
def mayHear (s : State) (p : Nat) : Source → Bool
  | .line n => decide (positionClass s p ≤ (s.line n).eff.accessClass)
  | _ => true

/-- SPEAKER_SET (R93) on a channel, a source and a mix in range. -/
def setSpeaker (s : State) (p i : Nat) (src : Source) (m : Mix) : State × Result :=
  let r := s.speaker p
  let c := Table.get ChanRun.cold r.channels i
  if tunable s src = false then (s, .badParam)
  else if mayHear s p src = false then (s, .access)
  else if c.source = src ∧ c.mix = m ∧ r.ptt ≠ some i then (s, .noChange)
  else
    let s := s.setSpeaker p
      { channels := Table.put ChanRun.cold r.channels i { c with source := src, mix := m }
        ptt := if r.ptt = some i then none else r.ptt }
    (recomputePorts s (speakerPorts p), .ok)

/-- SPEAKER_VOLUME (R94) on a channel in range. -/
def setVolume (s : State) (p i code : Nat) : State × Result :=
  let r := s.speaker p
  let c := Table.get ChanRun.cold r.channels i
  let v := min code 15
  if c.volume = v then (s, .noChange)
  else
    let s := s.setSpeaker p { r with channels := Table.put ChanRun.cold r.channels i { c with volume := v } }
    (recomputePorts s (speakerPorts p), .ok)

/-- Step 5 of R95: a bridge source has the position as an in-service PTT member. -/
def mayTalk (s : State) (p : Nat) : Source → Bool
  | .bridge b => (serviceIndex (s.bridge b).applied (.ptt p)).isSome
  | _ => true

/-- PTT (R95) on a channel and a direction in range. -/
def setPtt (s : State) (p i : Nat) (on : Bool) : State × Result :=
  let r := s.speaker p
  let c := Table.get ChanRun.cold r.channels i
  if on = false then
    if r.ptt ≠ some i then (s, .noChange) else (s.setSpeaker p { r with ptt := none }, .ok)
  else if (Table.get ChanConfig.cold (s.position p).applied.channels i).pttAllowed = false then (s, .badParam)
  else if c.source = .none then (s, .badParam)
  else if mayTalk s p c.source = false then (s, .badParam)
  else if r.ptt = some i then (s, .noChange)
  else (s.setSpeaker p { r with ptt := some i }, .ok)

end Sys2Proof.Machine
end

