-- ==== Sys2Proof/Machine/Commits.lean ====
section
/-!
DEFINITION. Written copies and commits: a write to a configuration entry merges into the part's copy and, where the rules say so, applies it
(R2 to R4, R12, R62, R87, R97, R129 to R131).
-/

namespace Sys2Proof.Machine

/-! ## Copies (R129, R131) -/

/-- The part's copy of a configuration word. -/
def copyAt (s : State) (off : Nat) : Word := Table.get 0#32 s.bi.copies off

/-- Set the part's copy of a configuration word. -/
def setCopy (s : State) (off : Nat) (w : Word) : State := { s with bi := { s.bi with copies := Table.put 0#32 s.bi.copies off w } }

/-- Merge the enabled bytes of a write into a copy (R126). -/
def mergeCopy (s : State) (off : Nat) (data : Word) (be : ByteEnables) : State := setCopy s off (mergeBytes (copyAt s off) data be)

/-- The written copy of a multi-word entry. -/
def writtenCopy (s : State) (off n : Nat) : List Word := (List.range n).map fun i => copyAt s (off + i)

/-- A commit is rejected, its flag set: the owner writes the whole of the entry's status, whether or not a word of it has changed, and
then CONFIG_REJECT is issued (R2, R62, R130; log 9, log 10). -/
def rejectCommit (s : State) (status : List (Nat × Word)) (what : Rejected) : State := rejectEntry (postAll s status) what

/-! ## Line entries (R2 to R4) -/

/-- The handset ports whose current set holds a line, in ascending order (R3). -/
def portsHolding (s : State) (n : Nat) : List Nat :=
  (s.hc.handsets.filter fun e => e.2.current.contains (.line n)).map fun e => 4 * (e.1 / 2) + e.1 % 2

/-- Set or clear the pending cause of a line in CLEARING. -/
def setPending (s : State) (n : Nat) (b : Bool) : State := modLine s n fun l => { l with pendingAdmin := b }

/-- A commit changes a line's enabled field (R4). -/
def changeEnabled (s : State) (n : Nat) (old new : Bool) : State :=
  let st := (s.line n).state
  match old, new with
  | true, false =>
    if st = .clearing then setPending s n true
    else if st.inCall then setPending (forceRelease s n) n true
    else changeState s n (.outOfService .admin) .request
  | false, true =>
    if st = .clearing then setPending s n false
    else if st = .outOfService .admin then
      if (s.line n).eff.kind = .nailed then seizeNailed s n .request .noPath else changeState s n .idle .request
    else s
  | _, _ => s

/-- A valid line entry is applied: naming, masks, record level (R3), enabled field (R4). -/
def applyLine (s : State) (n : Nat) (cfg : LineConfig) : State :=
  let l := s.line n
  let s := modLine s n fun l => { l with applied := cfg, configRejected := false }
  let s := renameCircuits s (l.applied.call.path ++ cfg.call.path)
  let s := if l.callCopy = none then refreshMasks s n l.applied.call.path cfg.call.path else s
  let s := if l.applied.recordLevel ≠ cfg.recordLevel ∧ portsHolding s n ≠ [] then recomputePorts s (portsHolding s n) else s
  changeEnabled s n l.applied.enabled cfg.enabled

/-- A commit of a line entry (R2, R130). -/
def commitLine (s : State) (n : Nat) : State :=
  match parseLine s.su.lineCount n (writtenCopy s (lineConfigOffset n) 16) with
  | some cfg => applyLine s n cfg
  | none =>
    let s := modLine s n fun l => { l with configRejected := true }
    rejectCommit s (writesAt (lineStatusOffset n) (lineStatusWords s n)) (.line n)

/-! ## Position and bridge entries -/

/-- A commit of a position entry (R62, R130). -/
def commitPosition (s : State) (p : Nat) : State :=
  match parsePosition s.su.positionCount s.su.lineCount s.su.bridgeCount p (writtenCopy s (positionConfigOffset p) 64) with
  | some cfg => applyPosition s p cfg
  | none =>
    let s := modPosition s p fun r => { r with configRejected := true }
    rejectCommit s (writesAt (positionStatusOffset p) (positionStatusEntry s p)) (.position p)

/-- A commit of a bridge entry (R87, R130). A bridge's status is its Live Window word, which shows the part's state and is not written
(R92, R135). -/
def commitBridge (s : State) (b : Nat) : State :=
  match validBridge s b (writtenCopy s (bridgeConfigOffset b) 64) with
  | some cfg => applyBridge s b cfg
  | none => rejectCommit (s.setBridge b { s.bridge b with configRejected := true }) [] (.bridge b)

/-! ## Single-word entries (R131) -/

/-- A key takes its merged word (R12). -/
def writeKey (s : State) (p k : Nat) : State :=
  let r := parseKey s.su.positionCount s.su.lineCount p (copyAt s (appearanceOffset (128 * p + k)))
  let s := applyKey s p k r.1
  if r.2 then rejectEntry s (.key p k) else s

/-- The enabled field of a channel takes a value (R97, R108, R109). -/
def setChannelEnabled (s : State) (ch : Nat) (b : Bool) : State := if b then enableChannel s ch else disableChannel s ch

/-- A recorder channel takes its merged word (R97). -/
def writeRecorder (s : State) (ch : Nat) : State :=
  let b := bitAt (copyAt s (recorderConfigOffset ch)) 0
  if ch < s.su.recorderCount then setChannelEnabled s ch b
  else
    let s := setChannelEnabled s ch false
    if b then rejectEntry s (.recorder ch) else s

end Sys2Proof.Machine
end

