-- ==== Sys2Proof/Machine/Startup.lean ====
section
/-!
DEFINITION. Start-up and restart: cold start (R170), entry to LOADING (R171), the descriptor (R172, R173), the entries (R174), the
derived state (R175), the load's end (R176), teardown and drain (R177).
-/

namespace Sys2Proof.Machine

/-! ## Cold start (R170) -/

/-- Every block takes its cold-start values. The SRAM keeps its contents; the straps are sampled; the command queue and a processor
access that is held are outside the part and stay (log 21). -/
def coldStarted (s : State) (straps : Nat) : State :=
  { State.reset with
    pending := s.pending
    mem := s.mem
    bi := { State.reset.bi with base := straps, held := s.bi.held } }

/-! ## Entry to LOADING (R171) -/

/-- The start word begins a load: format 1 and LOAD 1 (R133, R171). -/
def startsLoad (w : Word) : Bool := decide (field w 7 0 = 1) && bitAt w 8

/-- Entry to LOADING (R142, R171). -/
def enterLoading (s : State) : State :=
  let s := stopMixer s
  { s with
    su := { s.su with part := .loading, load := some .descriptor, wordsRead := 0, startFrame := s.frame, rejects := 0, draining := false }
    bi := { s.bi with latch := none }
    re := { s.re with take := .idle }
    eu := { s.eu with overflow := s.eu.overflow.disarm, fault := s.eu.fault.disarm, recorder := s.eu.recorder.disarm,
                      fltHead := if s.su.restartMark then s.eu.fltHead else 0 } }

/-! ## The descriptor (R172, R173) -/

/-- The first failing field of a descriptor: its word and the TABLE bit (R172). -/
def descriptorFailure (ws : List Word) : Option (Nat × Bool) :=
  let count := fun i => field (wordOf ws i) 15 0
  if field (wordOf ws 0) 7 0 ≠ 1 then some (0, false)
  else if ¬(1 ≤ count 1 ∧ count 1 ≤ 256) then some (1, true)
  else if ¬(1 ≤ count 2 ∧ count 2 ≤ 32) then some (2, true)
  else if 24 < count 3 then some (3, true)
  else if 128 < count 4 then some (4, true)
  else if 1 < field (wordOf ws 7) 15 8 then some (7, false)
  else none

/-- The failed load raises CONFIG_LOAD; a load whose fault is logged returns the part to WAITING with mask FAULT alone (R159, R172). -/
def failLoad (s : State) (subject : Nat) (table : Bool) : State :=
  let s := raiseFault s { code := .configLoad, ext := false, table := table, subject := subject }
  if s.su.part = .loading then
    { s with su := { s.su with part := .waiting, load := none }, eu := { s.eu with mask := 0b00100#5 } }
  else s

/-- The descriptor's values are adopted and the indices reset (R173). -/
def adoptDescriptor (s : State) (ws : List Word) : State :=
  let count := fun i => field (wordOf ws i) 15 0
  let s := { s with
    su := { s.su with lineCount := count 1, positionCount := count 2, bridgeCount := count 3, recorderCount := count 4,
                      ringTimeout := max 10 (min 255 (count 5)), load := some (.entries (.line 0)), wordsRead := 0 }
    um := { s.um with enable := bitAt (wordOf ws 7) 0, format := field (wordOf ws 7) 15 8 }
    re := { head := 0, tail := 0, take := .idle }
    eu := { s.eu with mask := BitVec.ofNat 5 (field (wordOf ws 6) 4 0), evtHead := 0, evtRead := 0, lost := 0,
                      overflow := s.eu.overflow.cleared, recorder := s.eu.recorder.cleared } }
  postAll s ([(0x100, 0#32), (0x101, 0#32)] ++ if s.su.restartMark then [] else [(0x102, 0#32)])

/-- The offset holds a single-word entry: its copy is kept until the load reads it (R131; log 25). -/
def isSingleWord (off : Nat) : Bool :=
  match regionOf off with
  | .appearance _ _ => true
  | .recorderConfig _ _ => true
  | _ => false

/-- What a load keeps of a line until it reads the line's entry (R178); nothing of a line it does not read (R174; log 24). -/
def keepLine (s : State) (n : Nat) (l : LineRec) : LineRec :=
  if n < s.su.lineCount then { LineRec.cold with applied := l.applied, configRejected := l.configRejected } else .cold

/-- What a load keeps of a position until it reads the position's entry (R178, R174; log 24). -/
def keepPosition (s : State) (p : Nat) (r : PosRec) : PosRec :=
  if p < s.su.positionCount then { PosRec.cold with applied := r.applied, configRejected := r.configRejected } else .cold

/-- What a load keeps of a bridge until it reads the bridge's entry (R178, R174; log 24). -/
def keepBridge (s : State) (b : Nat) (r : BridgeRec) : BridgeRec :=
  if b < s.su.bridgeCount then { BridgeRec.cold with applied := r.applied, configRejected := r.configRejected } else .cold

/-- The Recording Allocator discards its state without events (R112). -/
def discardRecording (s : State) : State :=
  { s with ra := { channels := [], ports := [], freeList := [], waitQueue := [], order := [] } }

/-- What a load that has passed its descriptor starts from: no calls, circuits in IDLE back to UNINSTALLED, the written copies that it does
not read 0, and the applied tables, of which it keeps each entry until it reads it and makes those it does not read null (R28, R52, R66,
R112, R115, R129, R172, R174, R178; log 24). -/
def startTables (s : State) : State :=
  { discardRecording s with
    bi := { s.bi with copies := s.bi.copies.filter fun e => isSingleWord e.1 }
    lc := {
      lines := Table.mapVals LineRec.cold (keepLine s) s.lc.lines
      keys := s.lc.keys.filter fun e => decide (e.1 < 128 * s.su.positionCount)
      appIndex := Table.mapVals [] (fun _ es => es.filter fun e => decide (e.pos < s.su.positionCount)) s.lc.appIndex
      alerts := [] }
    cc := { s.cc with
      circuits := Table.mapVals CircuitRec.cold
        (fun _ c => if c.state = .idle then { c with state := .uninstalled } else c) s.cc.circuits
      paths := [] }
    hc := { handsets := [], calls := [], positions := Table.mapVals PosRec.cold (keepPosition s) s.hc.positions }
    mx := { s.mx with speakers := [], bridges := Table.mapVals BridgeRec.cold (keepBridge s) s.mx.bridges }
    um := { s.um with contexts := [], updates := [] } }

/-- The descriptor check (R172, R173). -/
def checkDescriptor (s : State) : State :=
  let ws := (List.range 64).map (partRead s)
  let s := { s with bi := { s.bi with startCopy := wordOf ws 0 } }
  match descriptorFailure ws with
  | some (subject, table) => failLoad s subject table
  | none => startTables (adoptDescriptor s ws)

/-! ## The entries (R174) -/

/-- The load reads the words of an entry into the part's copies (R129, R131). -/
def readEntry (s : State) (off n : Nat) : State :=
  (List.range n).foldl (fun s i => setCopy s (off + i) (partRead s (off + i))) s

/-- A circuit in IDLE that is named no more enters UNINSTALLED (R28). -/
def unnameCircuit (s : State) (c : Nat) : State := if (s.circuit c).state = .idle then enterIdle s c else s

/-- A line's applied entry is replaced in a load: circuits that it named before and that nothing names now, and those that it names now,
follow (R28, R178). -/
def replaceLine (s : State) (n : Nat) (cfg : LineConfig) (rejected : Bool) : State :=
  let old := (s.line n).applied.call.path
  let s := modLine s n fun l => { l with applied := cfg, configRejected := rejected }
  renameCircuits (old.foldl unnameCircuit s) cfg.call.path

/-- A line entry is read and applied; its circuits are named (R28, R174). -/
def loadLine (s : State) (n : Nat) : State :=
  let s := readEntry s (lineConfigOffset n) 16
  match parseLine s.su.lineCount n (writtenCopy s (lineConfigOffset n) 16) with
  | some cfg => replaceLine s n cfg false
  | none => rejectEntry (replaceLine s n .null true) (.line n)

/-- A position entry is read and applied (R62, R174). -/
def loadPosition (s : State) (p : Nat) : State :=
  let s := readEntry s (positionConfigOffset p) 64
  match parsePosition s.su.positionCount s.su.lineCount s.su.bridgeCount p (writtenCopy s (positionConfigOffset p) 64) with
  | some cfg => modPosition s p fun r => { r with applied := cfg, configRejected := false }
  | none => rejectEntry (modPosition s p fun r => { r with applied := .cold, configRejected := true }) (.position p)

/-- A key word is read and applied (R12, R13, R174). -/
def loadKey (s : State) (i : Nat) : State := writeKey (readEntry s (appearanceOffset i) 1) (i / 128) (i % 128)

/-- The part as the validation of a bridge entry sees it in a load: with the bridge entries that the load has applied already (R174). -/
def loadedBridges (s : State) (b : Nat) : State :=
  { s with mx := { s.mx with bridges := s.mx.bridges.filter fun e => decide (e.1 < b) } }

/-- A bridge entry is read and applied (R87, R174; log 35). -/
def loadBridge (s : State) (b : Nat) : State :=
  let s := readEntry s (bridgeConfigOffset b) 64
  match validBridge (loadedBridges s b) b (writtenCopy s (bridgeConfigOffset b) 64) with
  | some cfg => s.setBridge b { BridgeRec.cold with applied := cfg }
  | none => rejectEntry (s.setBridge b { BridgeRec.cold with configRejected := true }) (.bridge b)

/-- A recorder entry is read (R97, R174); the channels are rebuilt when the derived state is set, and until then the free list is empty
(R111, R112). -/
def loadRecorder (s : State) (ch : Nat) : State := readEntry s (recorderConfigOffset ch) 1

/-- One entry of the load. -/
def loadItem (s : State) : LoadItem → State
  | .line n => loadLine s n
  | .position p => loadPosition s p
  | .key i => loadKey s i
  | .bridge b => loadBridge s b
  | .recorder r => loadRecorder s r

/-- The entry after an entry, in the order of R174. -/
def nextItem (su : SU) : LoadItem → Option LoadItem
  | .line n => if n + 1 < su.lineCount then some (.line (n + 1)) else some (.position 0)
  | .position p => if p + 1 < su.positionCount then some (.position (p + 1)) else some (.key 0)
  | .key i =>
    if i + 1 < 128 * su.positionCount then some (.key (i + 1)) else if 0 < su.bridgeCount then some (.bridge 0)
    else if 0 < su.recorderCount then some (.recorder 0) else none
  | .bridge b =>
    if b + 1 < su.bridgeCount then some (.bridge (b + 1)) else if 0 < su.recorderCount then some (.recorder 0) else none
  | .recorder r => if r + 1 < su.recorderCount then some (.recorder (r + 1)) else none

/-! ## The derived state (R175) -/

/-- A line's state and frames as a load sets them, and its masks (R5, R6, R29). -/
def deriveLine (s : State) (n : Nat) : State :=
  let s := modLine s n fun l =>
    { LineRec.cold with
      applied := l.applied, configRejected := l.configRejected
      state := if n < s.su.lineCount ∧ l.applied.enabled = true then .idle else .outOfService .admin
      lastChange := s.su.startFrame }
  refreshMasks s n [] (s.line n).applied.call.path

/-- The speaker runtime of a position as a load sets it (R82). -/
def deriveSpeaker (s : State) (p : Nat) : State :=
  let cfg := (s.position p).applied
  if p < s.su.positionCount ∧ cfg.enabled = true then
    s.setSpeaker p { channels := Table.mapVals ChanRun.cold (fun _ c => runtimeOf c) cfg.channels, ptt := none }
  else s

/-- A configured channel that is enabled becomes FREE: step 1 of R112. -/
def deriveChannel (s : State) (ch : Nat) : State :=
  if ch < s.su.recorderCount ∧ bitAt (copyAt s (recorderConfigOffset ch)) 0 = true then
    (s.setChannel ch { ChannelRec.cold with state := .free, relFrame := s.su.startFrame }).setFreeList (s.ra.freeList ++ [ch])
  else s

/-- A WANTED speaker port takes the head of the free list, or waits, without events: step 2 of R112. -/
def derivePort (s : State) (q : Nat) : State :=
  if portLevel s q = .wanted then
    match s.ra.freeList with
    | ch :: rest =>
      let s := s.setChannel ch { s.channel ch with state := .assigned q, allocFrame := s.su.startFrame }
      let s := (s.setFreeList rest).setOrder (s.ra.order ++ [ch])
      s.setPort q { level := .wanted, channel := some ch, unrecorded := false }
    | [] => (s.setPort q { level := .wanted, channel := none, unrecorded := false }).setWaitQueue (s.ra.waitQueue ++ [q])
  else s

/-- The speaker ports, ascending. -/
def allSpeakerPorts : List Nat := (List.range 32).flatMap speakerPorts

/-- The derived state, and every mirror (R175). -/
def deriveState (s : State) : State :=
  let s := (List.range 256).foldl deriveLine s
  let s := (List.range 32).foldl deriveSpeaker s
  let s := (List.range 128).foldl deriveChannel (discardRecording s)
  let s := allSpeakerPorts.foldl derivePort s
  let s := postAll (s.setLoad (some .ending)) (everyMirror s)
  { s with bi := { s.bi with loadLeft := s.bi.waiting.length } }

/-- The load takes one entry; after the last it sets the derived state (R174, R175). -/
def readNextEntry (s : State) : State :=
  match s.su.load with
  | some (.entries item) =>
    let s := loadItem s item
    match nextItem s.su item with
    | some next => s.setLoad (some (.entries next))
    | none => deriveState s
  | _ => s

/-! ## The load's end (R176) -/

/-- The NAILED lines that the load's end seizes, in ascending order. -/
def nailedLines (s : State) : List Nat :=
  (List.range s.su.lineCount).filter fun n =>
    (s.line n).applied.enabled && decide ((s.line n).applied.call.kind = .nailed)

/-- The last mirror write of the load has joined the queue (R176). -/
def loadFinished (s : State) : Bool := decide (s.su.load = some .ending) && decide (s.bi.loadLeft = 0)

/-- A NAILED line is seized at a load's end, and its status mirror is written: step 1 of R176. -/
def seizeLoaded (s : State) (n : Nat) : State := postMirrors s (seizeNailed s n .load .load)

/-- The end of a load (R176), but for the held access. -/
def endLoad (s : State) : State :=
  let s := (nailedLines s).foldl seizeLoaded s
  let s := { s with su := { s.su with part := .running, load := none }, eu := { s.eu with cause := none, unlogged := 0 } }
  issue s (.loadComplete s.su.restartMark s.su.rejects)

/-! ## Restart (R177) -/

/-- A circuit at the teardown: step 2 of R177. -/
def tearCircuit (s : State) (c : Nat) : State :=
  match (s.circuit c).state with
  | .seizing => releaseCircuit s c false none
  | .inUse => releaseCircuit s c false none
  | _ => finishRelease (modCircuit s c fun r => { r with owner := none }) c

/-- A line at the teardown: step 1 of R177. -/
def tearLine (s : State) (n : Nat) : State :=
  let s := modLine s n fun l =>
    { l with participants := [], setter := none, ringBurst := false, pathSwitching := false, switchFrom := none, pendingAdmin := false,
             signalTimer := none, stateTimer := none, state := .outOfService .admin, active := none,
             lastChange := if l.state = .outOfService .admin then l.lastChange else s.frame }
  dropCallCopy s n

/-- A port at the teardown: it drops to NONE without events; its channel becomes FREE (step 4 of R177; log 20). -/
def tearPort (s : State) (q : Nat) : State := (releaseChannel s q).setPort q PortRec.cold

/-- Every circuit, then every line: steps 1 and 2 of R177 (log 34). Circuits released together join the pending list in ascending circuit
number: the manual gives no order. DESIGN CHOICE (log 50). -/
def tearCalls (s : State) : State :=
  let s := (Table.keys s.cc.circuits).foldl tearCircuit s
  (Table.keys s.lc.lines).foldl tearLine s

/-- Alerts, handsets, intercom calls, dim conditions, reach sets, contexts and updates are gone: step 3 of R177. -/
def clearCalls (s : State) : State :=
  { s with
    lc := { s.lc with alerts := [] }
    hc := { handsets := [], calls := []
            positions := Table.mapVals PosRec.cold (fun _ r => { r with dim := false, reach := 0 }) s.hc.positions }
    um := { s.um with contexts := [], updates := [] } }

/-- Every port: step 4 of R177. -/
def tearPorts (s : State) : State := (Table.keys s.ra.ports).foldl tearPort s

/-- The restart drain begins (R177). -/
def beginDrain (s : State) : State :=
  { s with
    ra := { s.ra with waitQueue := [] }
    mx := { s.mx with out := [] }
    re := { s.re with take := .idle }
    bi := { s.bi with latch := none }
    eu := { s.eu with overflow := s.eu.overflow.disarm, fault := s.eu.fault.disarm, recorder := s.eu.recorder.disarm }
    su := { s.su with restartMark := true, draining := true } }

/-- The teardown, and the start of the restart drain (R177). -/
def restart (s : State) : State := beginDrain (tearPorts (clearCalls (tearCalls s)))

/-- The queue is empty, no write waits, and no measurement update is in progress (R177). -/
def drained (s : State) : Bool :=
  decide (s.bi.pwq = []) && decide (s.bi.waiting = []) && decide (s.um.inProgress = none)

end Sys2Proof.Machine
end

