-- ==== Sys2Proof/Machine/Bus.lean ====
section
/-!
DEFINITION. The Bus Interposer's side of processor accesses: holds (R138 to R141), what an access does by its zone (R127 to R134), the Live
Window (R135, R136, R161, R162), and the end of every command (mirrors, transmitter, attention output, held accesses).
-/

namespace Sys2Proof.Machine

/-! ## Addresses -/

/-- The aperture offset of an SRAM word address, when it lies in the aperture (R125). -/
def offsetOf (s : State) (addr : Nat) : Option Nat :=
  if sramAddress s 0 ≤ addr ∧ addr < sramAddress s 0 + 0x10000 then some (addr - sramAddress s 0) else none

/-- The part copies, commits and protects: RUNNING, QUIESCED or LOCKDOWN (R127). -/
def PartState.copying (p : PartState) : Bool := p.carries

/-- A processor write to the region passes to the SRAM in the part state (R127, R134). -/
def passes (part : PartState) (r : Region) : Bool :=
  match zoneKind r with
  | .overlay => false
  | .owned => !part.copying
  | _ => true

/-! ## Holds -/

/-- Every access inside the aperture but a Live Window read is held: LOADING or a restart drain (R141, R177). -/
def holdsAll (s : State) : Bool := decide (s.su.part = .loading) || s.su.draining

/-- The offset lies in the measurement block under hold (R140). -/
def inMeasHold (s : State) (off : Nat) : Bool :=
  match s.bi.measHold with
  | some n => decide (measurementOffset n ≤ off ∧ off < measurementOffset n + 16)
  | none => false

/-- A processor write to an offset of the aperture must wait: for a hold, for the part's writes to its word, or, where it passes to the
SRAM, for the port in DRAIN (R138 to R141; log 8). -/
def holdsWrite (s : State) (off : Nat) : Bool :=
  holdsAll s || inMeasHold s off || writePending s off || (passes s.su.part (regionOf off) && decide (s.bi.mode = .drain))

/-- The offset lies in the Live Window (R128, R135). -/
def inLiveWindow (off : Nat) : Bool := decide (0x40 ≤ off ∧ off < 0x80)

/-- A processor read of an offset of the aperture must wait: for a hold, for a write of the part to join that names its word, or, where
nothing in the queue answers it, for the port in DRAIN. A read of the Live Window never waits (R135, R137, R138, R140, R141; log 39). -/
def holdsRead (s : State) (off : Nat) : Bool :=
  !inLiveWindow off &&
    (holdsAll s || inMeasHold s off || s.bi.waiting.any (fun e => e.1 == off) ||
      (decide (youngest s.bi.pwq off = none) && decide (s.bi.mode = .drain)))

/-- A processor access must wait; one outside the aperture never does (R125, R138 to R141; log 8). -/
def mustHold (s : State) : Access → Bool
  | .write addr _ _ =>
    match offsetOf s addr with
    | some off => holdsWrite s off
    | none => false
  | .read addr _ =>
    match offsetOf s addr with
    | some off => holdsRead s off
    | none => false

/-! ## Writes -/

/-- A misdirected or refused processor write raises a fault with the offset as subject (R132, R134). -/
def writeFault (s : State) (code : FaultCode) (off : Nat) : State :=
  raiseFault s { code := code, ext := false, table := false, subject := off }

/-- A write of REQ_TAIL is validated and handed on (R132, R144). The index is the value of the whole merged word, so that a set bit above it
puts it out of range. DESIGN CHOICE (log 57), as for the two other index words. -/
def writeReqTail (s : State) (data : Word) (be : ByteEnables) : State :=
  let v := (mergeBytes (natWord s.re.tail) data be).toNat
  if v ≤ 63 then { s with re := { s.re with tail := v } } else writeFault s .indexWrite 0x100

/-- A write of EVT_READ is validated and handed on (R132, R157). The index is the value of the whole merged word. DESIGN CHOICE (log 57). -/
def writeEvtRead (s : State) (data : Word) (be : ByteEnables) : State :=
  let v := (mergeBytes (natWord s.eu.evtRead) data be).toNat
  if v ≤ 255 then { s with eu := { s.eu with evtRead := v } } else writeFault s .indexWrite 0x101

/-- A write of FLT_READ is validated and handed on (R132, R163). The index is the value of the whole merged word. DESIGN CHOICE (log 57). -/
def writeFltRead (s : State) (data : Word) (be : ByteEnables) : State :=
  let v := (mergeBytes (natWord s.eu.fltRead) data be).toNat
  if v ≤ 31 ∧ (s.eu.fltHead + 32 - v) % 32 ≤ 16 then { s with eu := { s.eu with fltRead := v } }
  else writeFault s .indexWrite 0x102

/-- A write of the start word merges into the copy and, in WAITING, may begin a load (R133, R171). -/
def writeStartWord (s : State) (data : Word) (be : ByteEnables) : State :=
  let w := mergeBytes s.bi.startCopy data be
  let s := { s with bi := { s.bi with startCopy := w } }
  if s.su.part = .waiting ∧ startsLoad w = true then enterLoading s else s

/-- A write to a COPIED word, taken in RUNNING, QUIESCED or LOCKDOWN, besides its passing to the SRAM (R129 to R132). -/
def copyWrite (s : State) (off : Nat) (data : Word) (be : ByteEnables) : State :=
  match regionOf off with
  | .reqTail => writeReqTail s data be
  | .evtRead => writeEvtRead s data be
  | .fltRead => writeFltRead s data be
  | .lineConfig n w => let s := mergeCopy s off data be; if w = 0 then commitLine s n else s
  | .positionConfig p w => let s := mergeCopy s off data be; if w = 0 then commitPosition s p else s
  | .bridgeConfig b w => let s := mergeCopy s off data be; if w = 0 then commitBridge s b else s
  | .appearance p k => writeKey (mergeCopy s off data be) p k
  | .recorderConfig ch w => if w = 0 then writeRecorder (mergeCopy s off data be) ch else s
  | _ => s

/-- A processor write inside the aperture is taken (R127). -/
def takeWrite (s : State) (off : Nat) (data : Word) (be : ByteEnables) : State :=
  if passes s.su.part (regionOf off) then
    let s := writeSram s (sramAddress s off) data be
    if off = 0 then writeStartWord s data be
    else if s.su.part.copying then copyWrite s off data be
    else s
  else if s.su.part.copying then writeFault s .ownedWrite off
  else s

/-! ## The Live Window (R135) -/

/-- The frame count that a read of its halves shows (R136). -/
def shownFrame (s : State) : Frame := s.bi.latch.getD s.frame

/-- The word of bridge b: a mask of the selected members, enabled, CONFIG_REJECTED (R92). -/
def bridgeWord (s : State) (b : Nat) : Word :=
  let r := s.bridge b
  packed [((List.range 16).map fun i => if r.selected.contains i then 1 <<< i else 0).sum, placeBit 16 r.applied.enabled,
    placeBit 17 r.configRejected]

/-- The lockdown cause word (R167). -/
def causeWord (e : EU) : Word :=
  match e.cause with
  | some code => packed [place 7 0 1, place 15 8 code.code, place 31 16 e.unlogged]
  | none => packed [place 31 16 e.unlogged]

/-- The word that a read of a Live Window offset returns (R135, section 11.4). -/
def liveWindowWord (s : State) (off : Nat) : Word :=
  if off = 0x40 then 0x00013256#32
  else if off = 0x41 then natWord s.su.part.code
  else if off = 0x42 then frameHigh (shownFrame s)
  else if off = 0x43 then frameLow (shownFrame s)
  else if off = 0x44 then natWord s.re.head
  else if off = 0x45 then natWord s.eu.evtHead
  else if off = 0x46 then natWord s.eu.fltHead
  else if off = 0x47 then (summaryFlags s.eu s.su.part).setWidth 32
  else if off = 0x48 then s.eu.mask.setWidth 32
  else if off = 0x49 then natWord s.eu.lost
  else if off = 0x4A then packed [place 7 0 (shortage s).1, place 23 16 (shortage s).2]
  else if off = 0x4B then natWord s.ra.freeList.length
  else if off = 0x4C then natWord s.bi.pwq.length
  else if off = 0x4D then causeWord s.eu
  else if 0x50 ≤ off ∧ off < 0x68 then bridgeWord s (off - 0x50)
  else 0#32

/-- The side effect of a read of a Live Window offset (R135, R136, R161, R162). -/
def readEffect (s : State) (off : Nat) : State :=
  let e := s.eu
  if off = 0x42 then { s with bi := { s.bi with latch := some (shownFrame s) } }
  else if off = 0x43 then { s with bi := { s.bi with latch := none } }
  else if off = 0x46 then { s with eu := { e with fault := e.fault.detailRead } }
  else if off = 0x47 then
    { s with eu := { e with overflow := e.overflow.summaryRead, fault := e.fault.summaryRead, recorder := e.recorder.summaryRead } }
  else if off = 0x49 then { s with eu := { e with overflow := e.overflow.detailRead, lost := 0 } }
  else if off = 0x4A then { s with eu := { e with recorder := e.recorder.detailRead } }
  else s

/-- The word that a processor read finds: outside the aperture the SRAM word; inside it the Live Window's, else the youngest queued write to
the word, else the SRAM word (R125, R127, R135, R137). -/
def readWord (s : State) (addr : Nat) : Word :=
  match offsetOf s addr with
  | some off => if inLiveWindow off then liveWindowWord s off else latestWord s off
  | none => wordAt s.mem addr

/-- The side effect of a processor read: that of its Live Window word, if it is one (R126, R135). -/
def readSideEffect (s : State) (addr : Nat) : State :=
  match offsetOf s addr with
  | some off => if inLiveWindow off then readEffect s off else s
  | none => s

/-- A processor read is answered: the enabled bytes of the word go on the bus, then the side effect (R126). -/
def takeRead (s : State) (addr : Nat) (be : ByteEnables) : State :=
  readSideEffect { s with bi := { s.bi with readData := mergeBytes 0#32 (readWord s addr) be } } addr

/-- What a processor read of some bytes of a word returns at once; none while it is held (R125 to R127, R135, R137 to R141; log 39). -/
def processorRead (s : State) (addr : Nat) (be : ByteEnables) : Option Word :=
  if mustHold s (.read addr be) then none else some (mergeBytes 0#32 (readWord s addr) be)

/-- A processor access is taken (R125, R127). -/
def takeAccess (s : State) : Access → State
  | .write addr data be =>
    match offsetOf s addr with
    | some off => takeWrite s off data be
    | none => writeSram s addr data be
  | .read addr be => takeRead s addr be

/-! ## The end of a command -/

/-- The attention output follows the flags and the mask (R159). -/
def refreshAttention (s : State) : State := { s with eu := { s.eu with attention := attentionOf s.eu s.su.part } }

/-- What follows every change within a command: a wait for room looks again (R146), the transmitter starts (R34), unrecorded
intervals follow (R118), the changed mirrors are posted (R6, R65, R98), an update ends (R123), requesters ask for the port (R138), and the
attention output follows (R159). -/
def settle (before s : State) : State :=
  refreshAttention (askPort (endUpdateIfDone (postMirrors before (followAllUnrecorded (startSending (lookAgain s))))))

/-- As `settle`, for steps that change no mirrored item, and for the steps of start-up and restart that write no mirror of their own
changes (R170, R175, R177). -/
def settleQuietly (s : State) : State :=
  refreshAttention (askPort (endUpdateIfDone (followAllUnrecorded (startSending (lookAgain s)))))

/-- Held accesses are taken in their order, as long as the first need not wait (R126, R139 to R141). -/
def serveHeld : Nat → State → State
  | 0, s => s
  | fuel + 1, s =>
    match s.bi.held with
    | [] => s
    | a :: rest =>
      if mustHold s a then s
      else
        let s' := { s with bi := { s.bi with held := rest } }
        serveHeld fuel (settle s' (takeAccess s' a))

/-- A requester has its turn at the port within a command: its access is taken, an update whose last write-back has left ends, and the held
access of the processor goes before the part's next access, once it need wait no more (R123, R138 to R140; log 8). -/
def servedTurn (s : State) (u : PortUser) : State :=
  let s := endUpdateIfDone (takeTurn s u)
  serveHeld s.bi.held.length s

/-- Turns are had in the order in which the accesses were asked for, until a requester has none left. -/
def takeTurns (u : PortUser) : Nat → State → State
  | 0, s => s
  | fuel + 1, s =>
    if waits s u then
      match s.bi.asked with
      | v :: _ => takeTurns u fuel (servedTurn s v)
      | [] => s
    else s

/-- A requester makes all the accesses it has left; those asked for before each of them are taken before it, and so is a held access that
need wait no more (R138). At most four requesters share the port, and none has more than 64 accesses left. -/
def finishReads (s : State) (u : PortUser) : State := if waits s u then takeTurns u 256 (askPort s) else s

/-- The fetch of a request whose code meets a condition reads the words it has left, in its turns at the port (R138, R147; log 3). -/
def finishFetch (s : State) (cond : Nat → Bool) : State := if fetchedCode s cond then finishReads s .fetch else s

/-- The end of a command that may change mirrored state. -/
def finish (before s : State) : State :=
  let s := settle before s
  serveHeld s.bi.held.length s

/-- The end of a command that posts no mirror. -/
def finishQuietly (s : State) : State :=
  let s := settleQuietly s
  serveHeld s.bi.held.length s

/-- The outcome of a command that runs. -/
def done (before s : State) : Host.Outcome State Fault Refusal := .next (finish before s)

/-- The outcome of a command that posts no mirror. -/
def doneQuietly (s : State) : Host.Outcome State Fault Refusal := .next (finishQuietly s)

/-- The byte enables of an access. -/
def Access.enables : Access → ByteEnables
  | .write _ _ be => be
  | .read _ be => be

/-- A processor access: taken, or held behind what holds it (R126, R139 to R141; log 7). An access that enables no byte does
not exist (R126; log 26). -/
def processorAccess (s : State) (a : Access) : Host.Outcome State Fault Refusal :=
  if a.enables = 0#4 then .fault .noByteEnabled
  else if s.bi.held ≠ [] ∨ mustHold s a = true then .next { s with bi := { s.bi with held := s.bi.held ++ [a] } }
  else done s (takeAccess s a)

/-- A processor read of an offset of the aperture. -/
def apertureRead (s : State) (off : Nat) (be : ByteEnables) : Host.Outcome State Fault Refusal :=
  processorAccess s (.read (sramAddress s off) be)

/-- A request command: the fetch of such a request reads the words it has left, then the request is taken. A held access taken between the
reads may change words of the slot, or end the fetch: what the fetch has read by then decides (R126, R147, R167). -/
def requestTaken (s : State) (code : Nat) (names : Names) (own : State → List Word → State × Result) (detail : State → Word × Word) :
    Host.Outcome State Fault Refusal :=
  let s := finishFetch s (· = code)
  done s (takeRequest s code names own detail)

/-- A processor write to an offset of the aperture. -/
def apertureWrite (s : State) (off : Nat) (data : Word) (be : ByteEnables) : Host.Outcome State Fault Refusal :=
  processorAccess s (.write (sramAddress s off) data be)

end Sys2Proof.Machine
end

