-- ==== Sys2Proof/Machine/Accesses.lean ====
section
/-!
DEFINITION. The meanings of processor accesses: each is a write of a word, or a read of a Live Window word, which its zone and the part
state then treat (R126, R127; log 27).
-/

namespace Sys2Proof.Machine

/-- START_WORD (R133, R171). -/
def execStartWord (data : Word) (be : ByteEnables) (s : State) : Host.Outcome State Fault Refusal := apertureWrite s 0 data be

/-- LINE_COMMIT (R2, R130): word 0 of a line entry. -/
def execLineCommit (line : Fin 256) (data : Word) (be : ByteEnables) (s : State) : Host.Outcome State Fault Refusal :=
  apertureWrite s (lineConfigOffset line) data be

/-- POSITION_COMMIT (R62, R130): word 0 of a position entry. -/
def execPositionCommit (position : Fin 32) (data : Word) (be : ByteEnables) (s : State) : Host.Outcome State Fault Refusal :=
  apertureWrite s (positionConfigOffset position) data be

/-- BRIDGE_COMMIT (R87, R130): word 0 of a bridge entry. -/
def execBridgeCommit (bridge : Fin 24) (data : Word) (be : ByteEnables) (s : State) : Host.Outcome State Fault Refusal :=
  apertureWrite s (bridgeConfigOffset bridge) data be

/-- CONFIG_WORD_WRITE (R130): words 1 onward of a multi-word entry. -/
def execConfigWordWrite (offset : Fin 65536) (data : Word) (be : ByteEnables) (s : State) : Host.Outcome State Fault Refusal :=
  apertureWrite s offset data be

/-- APPEARANCE_WRITE (R12, R131): a key word. -/
def execAppearanceWrite (position : Fin 32) (key : Fin 128) (data : Word) (be : ByteEnables) (s : State) :
    Host.Outcome State Fault Refusal :=
  apertureWrite s (appearanceOffset (128 * position + key)) data be

/-- RECORDER_CONFIG_WRITE (R97, R131): the first word of a recorder entry. -/
def execRecorderConfigWrite (channel : Fin 128) (data : Word) (be : ByteEnables) (s : State) : Host.Outcome State Fault Refusal :=
  apertureWrite s (recorderConfigOffset channel) data be

/-- REQ_TAIL (R132, R144). -/
def execReqTail (data : Word) (be : ByteEnables) (s : State) : Host.Outcome State Fault Refusal := apertureWrite s 0x100 data be

/-- EVT_READ (R132, R157). -/
def execEvtRead (data : Word) (be : ByteEnables) (s : State) : Host.Outcome State Fault Refusal := apertureWrite s 0x101 data be

/-- FLT_READ (R132, R163). -/
def execFltRead (data : Word) (be : ByteEnables) (s : State) : Host.Outcome State Fault Refusal := apertureWrite s 0x102 data be

/-- PROTECTED_WRITE (R134): an OWNED or OVERLAY offset. -/
def execProtectedWrite (offset : Fin 65536) (data : Word) (be : ByteEnables) (s : State) : Host.Outcome State Fault Refusal :=
  apertureWrite s offset data be

/-- MEMORY_WRITE (R125, R127): any other word, by its SRAM word address. -/
def execMemoryWrite (address : Nat) (data : Word) (be : ByteEnables) (s : State) : Host.Outcome State Fault Refusal :=
  processorAccess s (.write address data be)

/-- FRAME_COUNT_HIGH_READ (R136). -/
def execFrameCountHighRead (be : ByteEnables) (s : State) : Host.Outcome State Fault Refusal := apertureRead s 0x42 be

/-- FRAME_COUNT_LOW_READ (R136). -/
def execFrameCountLowRead (be : ByteEnables) (s : State) : Host.Outcome State Fault Refusal := apertureRead s 0x43 be

/-- SUMMARY_READ (R161). -/
def execSummaryRead (be : ByteEnables) (s : State) : Host.Outcome State Fault Refusal := apertureRead s 0x47 be

/-- FLT_HEAD_READ (R162). -/
def execFltHeadRead (be : ByteEnables) (s : State) : Host.Outcome State Fault Refusal := apertureRead s 0x46 be

/-- LOST_COUNT_READ (R162). -/
def execLostCountRead (be : ByteEnables) (s : State) : Host.Outcome State Fault Refusal := apertureRead s 0x49 be

/-- SHORTAGE_READ (R111, R162). -/
def execShortageRead (be : ByteEnables) (s : State) : Host.Outcome State Fault Refusal := apertureRead s 0x4A be

end Sys2Proof.Machine
end

