-- ==== Sys2Proof/Machine/HandsetRequests.lean ====
section
/-!
DEFINITION. The meanings of the requests of handsets and of the intercom (R56 to R61, R67 to R70).
-/

namespace Sys2Proof.Machine

/-- RELEASE (R56, R57). -/
def ownRelease (s : State) (ws : List Word) : State × Result :=
  let p := requestParty ws
  if (s.handset p).current = [] then (s, .noCurrent) else (releaseHandset s p, .ok)

/-- The current set holds an intercom call. -/
def hasIntercom (cur : List CurEntry) : Bool := cur.any fun e => match e with
  | .intercom _ => true
  | .line _ => false

/-- HOLD (R58). -/
def ownHold (s : State) (ws : List Word) : State × Result :=
  let p := requestParty ws
  let h := s.handset p
  if h.current = [] then (s, .noCurrent)
  else if hasIntercom h.current then (s, .notHoldable)
  else if hasRoom s p = false then (s, .stackFull)
  else (complete s (pushCurrent s p), .ok)

/-- RETRIEVE (R59, R60). -/
def ownRetrieve (s : State) (ws : List Word) : State × Result :=
  let n := param ws 1
  if s.su.lineCount ≤ n then (s, .badParam) else retrieveLine s (requestParty ws) n

/-- The effects of JOIN (R61). -/
def joinTop (s : State) (p : Party) (n : Nat) : State :=
  let s1 := modHandset (provideChannel s p n) p fun h =>
    { current := h.current ++ [.line n], hold := h.hold.filter (· ≠ n) }
  complete s (setMode s1 n p .active)

/-- JOIN (R61). -/
def ownJoin (s : State) (ws : List Word) : State × Result :=
  let p := requestParty ws
  let h := s.handset p
  match h.current with
  | [] => (s, .noCurrent)
  | [.line _] =>
    match h.hold.getLast? with
    | none => (s, .notHeld)
    | some n => if noRecorder s p n then (recorderOccurrence s, .noRecorder) else (joinTop s p n, .ok)
  | _ => (s, .badParam)

/-- The target that INTERCOM_CALL's parameters name, when they are in range: step 1 of R67. -/
def icmTarget (kind index : Nat) : Option IcmTarget :=
  if kind = 0 ∧ index < 32 then some (.position index) else if kind = 1 ∧ index < 16 then some (.group index) else none

/-- Step 2 of R67: an enabled target position, or an enabled member of the group other than the caller's position. -/
def targetOn (s : State) (caller : Nat) : IcmTarget → Bool
  | .position t => (s.position t).applied.enabled
  | .group g => (List.range 32).any fun p =>
      decide (p ≠ caller) && (s.position p).applied.enabled && (s.position p).applied.groupMask.getLsbD g

/-- The lowest FREE record (R66). -/
def freeCall (s : State) : Option Nat := (List.range 16).find? fun c => decide ((s.call c).state = .free)

/-- The state of a call that is not yet answered (R68). -/
def IcmTarget.ringState : IcmTarget → IcmState
  | .position _ => .alerting
  | .group _ => .paging

/-- The effects of INTERCOM_CALL (R68). -/
def placeCall (s : State) (p : Party) (t : IcmTarget) : State :=
  let s1 := pushCurrent s p
  match freeCall s1 with
  | none => s
  | some c =>
    let s1 := s1.setCall c
      { state := t.ringState, caller := some p, target := some t, answerer := none, start := s.frame,
        timer := some (after s Config.intercomFrames) }
    let s1 := issue (setCurrent s1 p (.intercom c)) (.icmAlert c p t s.frame)
    complete s (recomputeReach s1)

/-- INTERCOM_CALL (R67, R68). -/
def ownIntercomCall (s : State) (ws : List Word) : State × Result :=
  let p := requestParty ws
  match icmTarget (param ws 1) (param ws 2) with
  | none => (s, .badParam)
  | some t =>
    if targetOn s p.pos t = false then (s, .positionOff)
    else if t = .position p.pos then (s, .badParam)
    else if freeCall s = none then (s, .noIcm)
    else if s.su.part = .quiesced then (s, .quiesced)
    else if hasRoom s p = false then (s, .stackFull)
    else (placeCall s p t, .ok)

/-- The effects of INTERCOM_ANSWER (R70). -/
def answerCall (s : State) (p : Party) (c : Nat) : State :=
  let s1 := pushCurrent s p
  let r := s1.call c
  let s1 := s1.setCall c { r with state := .talking, answerer := some p, timer := none }
  let s1 := issue (setCurrent s1 p (.intercom c)) (.icmAnswered c r.caller p)
  complete s (recomputeReach s1)

/-- INTERCOM_ANSWER (R70). -/
def ownIntercomAnswer (s : State) (ws : List Word) : State × Result :=
  let p := requestParty ws
  let c := param ws 1
  if 15 < c then (s, .badParam)
  else if (s.position p.pos).reach.getLsbD c = false ∨ frameLow (s.call c).start ≠ wordOf ws 2 then (s, .notAlerting)
  else if hasRoom s p = false then (s, .stackFull)
  else (answerCall s p c, .ok)

/-! ## Meanings -/

/-- RELEASE (R56, R57). -/
def execRelease (s : State) : Host.Outcome State Fault Refusal := requestTaken s 0x30 .handset ownRelease noDetail

/-- HOLD (R58). -/
def execHold (s : State) : Host.Outcome State Fault Refusal := requestTaken s 0x31 .handset ownHold noDetail

/-- RETRIEVE (R59, R60). -/
def execRetrieve (s : State) : Host.Outcome State Fault Refusal := requestTaken s 0x32 .handset ownRetrieve noDetail

/-- JOIN (R61). -/
def execJoin (s : State) : Host.Outcome State Fault Refusal := requestTaken s 0x33 .handset ownJoin noDetail

/-- INTERCOM_CALL (R67, R68). -/
def execIntercomCall (s : State) : Host.Outcome State Fault Refusal := requestTaken s 0x34 .handset ownIntercomCall noDetail

/-- INTERCOM_ANSWER (R70). -/
def execIntercomAnswer (s : State) : Host.Outcome State Fault Refusal :=
  requestTaken s 0x35 .handset ownIntercomAnswer noDetail

end Sys2Proof.Machine
end

