-- ==== Sys2Proof/Machine/Link.lean ====
section
/-!
DEFINITION. What arrives on the signalling link (R40 to R47), the ends of sends (R34, R35, R39) and the expiries of line timers
(R36, R37, R39, R41, R50, R18).
-/

namespace Sys2Proof.Machine

/-! ## Faults of the link (R47) -/

def signalUnknown (s : State) (c : Nat) : State := raiseFault s { code := .signalUnknown, ext := true, table := false, subject := c }

def signalState (s : State) (c : Nat) : State := raiseFault s { code := .signalState, ext := true, table := false, subject := c }

/-- Messages are handled in full: RUNNING, QUIESCED or LOCKDOWN, with no restart drain (R40, R177). -/
def linkActive (s : State) : Bool := s.su.part.carries && !s.su.draining

/-- The record of the owner of a circuit. -/
def ownerLine (s : State) (c : Nat) : Option (Nat × LineRec) := (s.circuit c).owner.map fun n => (n, s.line n)

/-- The SEIZE of a circuit has been sent (R43, R44). -/
def seizeSent (r : CircuitRec) : Bool := decide (r.lastSent = .seized) || decide (r.lastSent = .seizedRinging)

/-- A circuit enters IN_USE. -/
def putInUse (s : State) (c : Nat) : State := modCircuit s c fun r => { r with state := .inUse }

/-! ## Seizure taken, far answer (R37, R38, R43) -/

/-- The SEIZE_ACK of R37 and R38 on a line in CALLING. -/
def acknowledge (s : State) (n c : Nat) : State :=
  let s := stopState (putInUse s c) n
  if (s.line n).eff.kind = .autoRingdown then
    startState (startSignal (setDesired s c .seizedRinging) n .cadenceOn Config.cadenceOnFrames) n .noAnswer (ringFrames s)
  else becomeConnected (setDesired s c .seized) n .far

/-- The FAR_ANSWER of R37. -/
def farAnswered (s : State) (n c : Nat) : State := becomeConnected (stopTimers (setDesired s c .seized) n) n .far

/-- The failover of the circuit's owner completes (R48). -/
def failoverTaken (s : State) (n c : Nat) : State := completeSwitch (putInUse s c) n c

/-- SEIZE_ACK by circuit and owner state (R43). -/
def seizeAckOn (s : State) (c : Nat) : State :=
  let r := s.circuit c
  match r.state, ownerLine s c with
  | .uninstalled, _ => signalUnknown s c
  | .seizing, some (n, l) =>
    if seizeSent r = false then signalState s c
    else if l.state = .calling then acknowledge s n c
    else if l.pathSwitching then failoverTaken s n c
    else s
  | .seizing, none => signalState s c
  | .inUse, _ => s
  | .releasing, _ => s
  | _, _ => signalState s c

/-- FAR_ANSWER by circuit and owner state (R43). -/
def farAnswerOn (s : State) (c : Nat) : State :=
  let r := s.circuit c
  match r.state, ownerLine s c with
  | .uninstalled, _ => signalUnknown s c
  | .seizing, some (n, l) =>
    if seizeSent r = false then signalState s c
    else if l.state = .calling then
      let s := acknowledge s n c
      if l.eff.kind = .autoRingdown then farAnswered s n c else s
    else if l.pathSwitching then failoverTaken s n c
    else s
  | .seizing, none => signalState s c
  | .inUse, some (n, l) =>
    if l.state = .ringingIn then signalState s c
    else if l.state = .calling ∧ l.eff.kind = .autoRingdown then farAnswered s n c
    else s
  | .inUse, none => s
  | .releasing, _ => s
  | _, _ => signalState s c

/-! ## Rings (R41, R42) -/

/-- The target of a ring: the configured line that names the circuit at the lowest path position, the lowest such line (R41). -/
def ringTarget (s : State) (c : Nat) : Option Nat :=
  ([0, 1, 2, 3].findSome? fun i =>
    (s.lc.lines.find? fun e => decide (e.1 < s.su.lineCount) && decide (positionIn e.2.eff.path c = some i)).map (·.1))

/-- The ring is accepted (R41). -/
def acceptRing (s : State) (n c : Nat) : State :=
  let i := pathPositionOf s n c
  let s := modCircuit s c fun r => { r with owner := some n, state := .inUse, farHeld := true }
  let s := modPath s n fun p => { p with lastUsed := i }
  let s := latchContext (takeCallCopy s n) n 0 (some s.frame)
  let s := modLine s n fun l => { l with active := some c, ringStart := s.frame }
  let s := startState (changeState s n .ringingIn .far) n .ringIn (ringFrames s)
  enterAlerts (issue s (.ringAlert n c s.frame)) n

/-- The ring is refused (R41): the circuit is released as a far-held one, so that RELEASE is sent. -/
def rejectRing (s : State) (c : Nat) (target : Option Nat) : State :=
  let s := releaseCircuit (modCircuit s c fun r => { r with farHeld := true }) c false none
  let s := issue s (.ringRejected c target)
  match target with
  | some n => countRejectedRing s n
  | none => s

/-- RING_DETECT by circuit and owner state (R41, R42). -/
def ringDetectOn (s : State) (c : Nat) : State :=
  match (s.circuit c).state, ownerLine s c with
  | .uninstalled, _ => signalUnknown s c
  | .idle, _ =>
    match ringTarget s c with
    | some n => if (s.line n).state = .idle then acceptRing s n c else rejectRing s c (some n)
    | none => rejectRing s c none
  | .seizing, some (n, l) =>
    if l.state = .calling then farAnswered (putInUse s c) n c
    else if l.pathSwitching then failoverTaken s n c
    else s
  | .seizing, none => s
  | .inUse, some (n, l) => if l.state = .calling then farAnswered s n c else s
  | .inUse, none => s
  | .releasing, _ => s
  | _, _ => signalState s c

/-! ## Far clear (R44) -/

/-- The circuit enters IDLE without owner and far-held mark; nothing is sent (R44). -/
def freeRinging (s : State) (c : Nat) : State :=
  enterIdle (relist (modCircuit s c fun r => { r with owner := none, farHeld := false, desired := .idle }) c) c

/-- A far clear on the circuit of a call (R44). -/
def clearCall (s : State) (n c : Nat) (l : LineRec) : State :=
  if l.state = .ringingIn then ringEnds (clearActive (freeRinging s c) n) n .far .far
  else if l.state.inCall = false then s
  else if l.eff.kind = .nailed then
    ownerLoses (releaseCircuit s c true none) c (some n) .far
  else enterClearing (dropAllComplete s n) n .far .far true

/-- FAR_CLEAR by circuit and owner state (R44). -/
def farClearOn (s : State) (c : Nat) : State :=
  let r := s.circuit c
  match r.state, ownerLine s c with
  | .uninstalled, _ => signalUnknown s c
  | .seizing, some (n, l) => if seizeSent r then clearCall s n c l else signalState s c
  | .seizing, none => signalState s c
  | .inUse, some (n, l) => clearCall s n c l
  | .inUse, none => s
  | .releasing, _ => s
  | _, _ => signalState s c

/-! ## Circuits out of use and back (R45, R46) -/

/-- A circuit in transmission that enters DOWN keeps its last-sent state IDLE at the end of the send (R34, R45). -/
def markWentDown (s : State) (c : Nat) : State :=
  match s.cc.sending with
  | some x => if x.circuit = c then s.setSending (some { x with wentDown := true }) else s
  | none => s

/-- Steps 1 to 3 of R45. -/
def takeDown (s : State) (c : Nat) : State :=
  let owner := (s.circuit c).owner
  let s := modCircuit s c fun r =>
    { r with state := .down, owner := none, desired := .idle, lastSent := .idle, farHeld := false }
  let s := markWentDown (s.setPendingList (s.cc.pendingList.filter (· ≠ c))) c
  ownerLoses (setAvailable s c false) c owner .far

/-- CIRCUIT_DOWN (R40, R45). -/
def circuitDownOn (s : State) (c : Nat) : State :=
  match (s.circuit c).state with
  | .down => s
  | .uninstalled => if linkActive s then signalUnknown s c else takeDown s c
  | _ => takeDown s c

/-- The NAILED lines in OUT_OF_SERVICE with cause NO_PATH that name the circuit, in ascending order (R46). -/
def lostNailed (s : State) (c : Nat) : List Nat :=
  (s.lc.lines.filter fun e =>
    decide (e.2.applied.call.kind = .nailed) && decide (e.2.state = .outOfService .noPath) && e.2.applied.call.path.contains c).map (·.1)

/-- A NAILED line is brought back if it has a selectable position (R46). -/
def bringBack (s : State) (n : Nat) : State :=
  match newPosition s n with
  | some i => seizeLine s n i .far
  | none => s

/-- The NAILED lines that a returned circuit brings back, outside WAITING and LOADING (R40, R46). -/
def bringBackAll (s : State) (c : Nat) : State := if linkActive s then (lostNailed s c).foldl bringBack s else s

/-- CIRCUIT_UP (R40, R46). -/
def circuitUpOn (s : State) (c : Nat) : State :=
  match (s.circuit c).state with
  | .uninstalled => if linkActive s then signalUnknown s c else s
  | .down => bringBackAll (setAvailable (setOperational (enterIdle s c) c) c true) c
  | _ => bringBackAll (setOperational s c) c

/-- RESET_DONE (R40, R46). -/
def resetDoneOn (s : State) (c : Nat) : State :=
  let r := s.circuit c
  if r.state = .resetting ∧ r.lastSent = .reset then
    let s := modCircuit s c fun r => { r with desired := .idle, lastSent := .idle }
    bringBackAll (setAvailable (enterIdle (relist s c) c) c true) c
  else if linkActive s = false then s
  else if r.state = .uninstalled then signalUnknown s c
  else signalState s c

/-- A message that is discarded in WAITING, LOADING and a restart drain (R40, R177). -/
def whenLinkActive (s : State) (f : State → State) : State := if linkActive s then f s else s

/-! ## Ends of sends (R34, R35, R36) -/

/-- The end of a SEIZE starts the acknowledgement wait of a SEIZING circuit's line (R36). -/
def startAckWait (s : State) (c : Nat) : State :=
  match (s.circuit c).state, (s.circuit c).owner with
  | .seizing, some n => startState s n .ackWait Config.ackWaitFrames
  | _, _ => s

/-- The end of the transmission in progress, when it is of the given message (R34). It clears far-held (log 37). A circuit that went DOWN in
transmission keeps the last-sent state it has then: IDLE, or SEIZED where it came back, rang and was released as far-held meanwhile (R35).
DEDUCED (log 49). For such a circuit that has come back, the old send is neither the SEIZE of a new seizure, so that it starts no ACK_WAIT
(R36, R39), nor anything sent on it, so that it stays far-held (R35). DESIGN CHOICE (log 55). -/
def sendEnds (s : State) (m : LinkMsg) : State :=
  match s.cc.sending with
  | some x =>
    if x.msg = m then
      let s := s.setSending none
      let s := if x.wentDown then s
        else modCircuit s x.circuit fun r => { r with lastSent := m.sent, farHeld := false }
      let s := relist s x.circuit
      let s := if m = .seize ∧ x.wentDown = false then startAckWait s x.circuit else s
      finishRelease s x.circuit
    else s
  | none => s

/-! ## Expiries (R36) -/

/-- A cadence expiry of a ringing line (R37). -/
def cadence (s : State) (n : Nat) (want : LinkState) (next : SignalPurpose) (frames : Nat) : State :=
  startSignal (wantActive s n want) n next frames

/-- The expiry of ACK_WAIT (R39): the circuit is marked failed for the line, released without owner, and has failed. -/
def ackWaitExpires (s : State) (n : Nat) : State :=
  match (s.line n).active with
  | some c =>
    let i := pathPositionOf s n c
    let s := modPath (stopState s n) n fun p => { p with operational := setMaskBit p.operational i false }
    ownerLoses (releaseCircuit s c false none) c (some n) .timer
  | none => stopState s n

/-- The expiry of NO_ANSWER (R37). -/
def noAnswerExpires (s : State) (n : Nat) : State :=
  let s := giveUpCircuit (countUnanswered (dropAllComplete s n) n) n false
  changeState (callEnd s n .noAnswer) n .idle .timer

/-- The expiry of RING_IN (R41). -/
def ringInExpires (s : State) (n : Nat) : State := ringEnds (giveUpCircuit s n false) n .noAnswer .timer

/-- The circuit of a line in CLEARING is freed at guard expiry (R35). -/
def freeCircuit (s : State) (n : Nat) : State :=
  match (s.line n).active with
  | some c => clearActive (finishRelease (modCircuit s c fun r => { r with owner := none }) c) n
  | none => s

/-- The expiry of the guard (R18; log 33). -/
def guardExpires (s : State) (n : Nat) : State :=
  let s := stopState (freeCircuit s n) n
  if (s.line n).pendingAdmin then changeState s n (.outOfService .admin) .timer
  else
    let s := dropCallCopy s n
    if (s.line n).applied.call.kind = .nailed then seizeNailed s n .timer .noPath else changeState s n .idle .timer

/-- The expiry of BURST (R50). -/
def burstExpires (s : State) (n : Nat) : State :=
  modLine (stopSignal (wantActive s n .seized) n) n fun l => { l with ringBurst := false }

end Sys2Proof.Machine
end

