-- ==== Sys2Proof/Machine/LineRequests.lean ====
section
/-!
DEFINITION. The meanings of the requests of lines and circuits (R20 to R26, R50, R51).
-/

namespace Sys2Proof.Machine

/-! ## SELECT, ANSWER -/

/-- SELECT: steps 0 and 1 of R20, then the line on the key. -/
def ownSelect (s : State) (ws : List Word) : State × Result :=
  let key := param ws 1
  let p := requestParty ws
  if 127 < key then (s, .badParam)
  else
    match (s.key (128 * p.pos + key)).lineOf with
    | some n => selectLine s p n
    | none => (s, .emptyKey)

/-- ANSWER: the head of the position's alert list, as SELECT would take it (R22). -/
def ownAnswer (s : State) (ws : List Word) : State × Result :=
  let p := requestParty ws
  match s.alertList p.pos with
  | n :: _ => selectLine s p n
  | [] => (s, .notAlerting)

/-! ## PRIVACY -/

/-- The handset is an ACTIVE participant of the line. -/
def isActive (l : LineRec) (p : Party) : Bool := l.participants.any fun e => decide (e.party = p) && decide (e.mode = .active)

/-- PRIVACY on a line and a direction in range (R23). -/
def setPrivacy (s : State) (p : Party) (n : Nat) (on : Bool) : State × Result :=
  let l := s.line n
  if on then
    if isActive l p = false then (s, .badParam)
    else match l.setter with
      | some st => (s, if st = p then .noChange else .privateLine)
      | none => (modLine s n fun l => { l with setter := some p }, .ok)
  else
    match l.setter with
    | none => (s, .noChange)
    | some st => if st = p then (modLine s n fun l => { l with setter := none }, .ok) else (s, .privateLine)

/-- PRIVACY (R23). -/
def ownPrivacy (s : State) (ws : List Word) : State × Result :=
  let n := param ws 1
  match onOff (param ws 2) with
  | some on => if n < s.su.lineCount then setPrivacy s (requestParty ws) n on else (s, .badParam)
  | none => (s, .badParam)

/-! ## FORCE_RELEASE, LINE_SERVICE -/

/-- FORCE_RELEASE (R24). -/
def ownForceRelease (s : State) (ws : List Word) : State × Result :=
  let n := param ws 1
  if s.su.lineCount ≤ n then (s, .badParam)
  else if (s.line n).state.inCall then (forceRelease s n, .ok)
  else (s, .noChange)

/-- LINE_SERVICE out, by the line's state (R25). -/
def serviceOut (s : State) (n : Nat) : State × Result :=
  let l := s.line n
  match l.state with
  | .outOfService .admin => (s, .noChange)
  | .outOfService .noPath => (changeState s n (.outOfService .admin) .request, .ok)
  | .idle => (changeState s n (.outOfService .admin) .request, .ok)
  | .clearing => if l.pendingAdmin then (s, .noChange) else (setPending s n true, .ok)
  | _ => (setPending (forceRelease s n) n true, .ok)

/-- LINE_SERVICE in, by the line's state (R26). -/
def serviceIn (s : State) (n : Nat) : State × Result :=
  let l := s.line n
  match l.state with
  | .outOfService cause =>
    if l.eff.kind = .nailed then
      (seizeNailed s n .request .noPath, if newPosition s n = none then .noPath else .ok)
    else if cause = .admin then (changeState s n .idle .request, .ok)
    else (s, .noChange)
  | .clearing => if l.pendingAdmin then (setPending s n false, .ok) else (s, .noChange)
  | _ => (s, .noChange)

/-- LINE_SERVICE (R25, R26). -/
def ownLineService (s : State) (ws : List Word) : State × Result :=
  let n := param ws 1
  match onOff (param ws 2) with
  | none => (s, .badParam)
  | some into =>
    if s.su.lineCount ≤ n then (s, .badParam)
    else if into = false then serviceOut s n
    else if (s.line n).applied.enabled = false then (s, .badParam)
    else serviceIn s n

/-! ## SIGNAL, CIRCUIT_RESET -/

/-- Step 2 of R50: a connected MANUAL_RINGDOWN line that is not path switching. -/
def maySignal (l : LineRec) : Bool :=
  decide (l.eff.kind = .manualRingdown) && (decide (l.state = .connected) || decide (l.state = .held)) && !l.pathSwitching

/-- The burst begins (R50). -/
def startBurst (s : State) (n : Nat) : State :=
  startSignal (wantActive (modLine s n fun l => { l with ringBurst := true }) n .seizedRinging) n .burst Config.burstFrames

/-- SIGNAL (R50). -/
def ownSignal (s : State) (ws : List Word) : State × Result :=
  let n := param ws 1
  if s.su.lineCount ≤ n then (s, .badParam)
  else if maySignal (s.line n) = false then (s, .badParam)
  else if (s.line n).ringBurst then (s, .noChange)
  else (startBurst s n, .ok)

/-- The effects of CIRCUIT_RESET (R51). -/
def resetCircuit (s : State) (c : Nat) : State :=
  let owner := (s.circuit c).owner
  let s := modCircuit s c fun r => { r with owner := none, state := .resetting, desired := .reset, farHeld := false }
  ownerLoses (setAvailable (relist s c) c false) c owner .request

/-- CIRCUIT_RESET (R51). -/
def ownCircuitReset (s : State) (ws : List Word) : State × Result :=
  let c := param ws 1
  if 255 < c then (s, .badParam)
  else
    match (s.circuit c).state with
    | .uninstalled => (s, .badParam)
    | .resetting => (s, .noChange)
    | _ => (resetCircuit s c, .ok)

/-! ## Meanings -/

/-- SELECT (R20, R21). -/
def execSelect (s : State) : Host.Outcome State Fault Refusal := requestTaken s 0x10 .handset ownSelect noDetail

/-- ANSWER (R22). -/
def execAnswer (s : State) : Host.Outcome State Fault Refusal := requestTaken s 0x11 .handset ownAnswer noDetail

/-- PRIVACY (R23). -/
def execPrivacy (s : State) : Host.Outcome State Fault Refusal := requestTaken s 0x12 .handset ownPrivacy noDetail

/-- FORCE_RELEASE (R24). -/
def execForceRelease (s : State) : Host.Outcome State Fault Refusal := requestTaken s 0x13 .nothing ownForceRelease noDetail

/-- LINE_SERVICE (R25, R26). -/
def execLineService (s : State) : Host.Outcome State Fault Refusal := requestTaken s 0x14 .nothing ownLineService noDetail

/-- SIGNAL (R50). -/
def execSignal (s : State) : Host.Outcome State Fault Refusal := requestTaken s 0x20 .nothing ownSignal noDetail

/-- CIRCUIT_RESET (R51). -/
def execCircuitReset (s : State) : Host.Outcome State Fault Refusal := requestTaken s 0x21 .nothing ownCircuitReset noDetail

end Sys2Proof.Machine
end

