-- ==== Sys2Proof/Machine/MemoryPort.lean ====
section
/-!
DEFINITION. The meanings of the steps of the memory-side port: a posted write reaches the SRAM (R137, R138), and a measurement update is
begun and its words read (R122, R123, R140).
-/

namespace Sys2Proof.Machine

/-- The Usage Meter runs: RUNNING, QUIESCED or LOCKDOWN (R122). -/
def meterRuns (s : State) : Bool := s.su.part.carries

/-- The head record of the update list is begun, with the hold of its block (R122, R123, R140). -/
def startUpdate (s : State) : State :=
  match s.um.inProgress, s.um.updates with
  | none, u :: rest =>
    let s := (s.setUpdates rest).setInProgress (some { record := u, reading := true, wordsRead := 0 })
    { s with bi := { s.bi with measHold := some u.line } }
  | _, _ => s

/-- The words have been read, and the write-backs are placed in the queue (R123). -/
def placeWriteBacks (s : State) : State :=
  match s.um.inProgress with
  | some u =>
    if u.reading then postAll (s.setInProgress (some { u with reading := false })) (writeBacks s u.record) else s
  | none => s

/-- PWQ_ENTRY_WRITE (R137, R138), in the queue's turn. -/
def execPwqEntryWrite (s : State) : Host.Outcome State Fault Refusal := doneQuietly (drainInTurn s)

/-- MEASUREMENT_UPDATE_START (R122, R123). -/
def execMeasurementUpdateStart (s : State) : Host.Outcome State Fault Refusal :=
  doneQuietly (if meterRuns s then startUpdate s else s)

/-- MEASUREMENT_READ_DONE (R123): the words left are read in the meter's turns at the port (R138). Those turns change nothing that a mirror
shows, so the mirrors are compared from their end on: a queued word that leaves in a restart drain is not written again (R177). -/
def execMeasurementReadDone (s : State) : Host.Outcome State Fault Refusal :=
  let read := finishReads s .meter
  done read (placeWriteBacks read)

end Sys2Proof.Machine
end

