-- ==== Sys2Proof/Machine/OtherRequests.lean ====
section
/-!
DEFINITION. The meanings of the fetch and of the requests of speakers, measurement, attention and part state (R93 to R95, R114, R145 to
R149, R153, R160, R179 to R181).
-/

namespace Sys2Proof.Machine

/-- REQUEST_FETCH (R145 to R147): an idle engine begins to take the request at the head, or waits for room. -/
def execRequestFetch (s : State) : Host.Outcome State Fault Refusal := done s (fetchIfIdle s)

/-! ## NOP -/

/-- NOP changes nothing (R153). -/
def ownNop (s : State) (_ : List Word) : State × Result := (s, .ok)

/-- The requests pending behind the one at the head (R153; log 16). -/
def nopDetail (s : State) : Word × Word := (natWord ((s.re.tail + 64 - s.re.head - 1) % 64), 0#32)

/-! ## Speakers -/

/-- SPEAKER_SET (R93). -/
def ownSpeakerSet (s : State) (ws : List Word) : State × Result :=
  let i := param ws 1
  match sourceOf (param ws 2) (param ws 3), mixOf (param ws 4) with
  | some src, some m => if i < 8 then setSpeaker s (requestPosition ws) i src m else (s, .badParam)
  | _, _ => (s, .badParam)

/-- SPEAKER_VOLUME (R94). -/
def ownSpeakerVolume (s : State) (ws : List Word) : State × Result :=
  let i := param ws 1
  if i < 8 then setVolume s (requestPosition ws) i (param ws 2) else (s, .badParam)

/-- PTT (R95). -/
def ownPtt (s : State) (ws : List Word) : State × Result :=
  let i := param ws 1
  match onOff (param ws 2) with
  | some on => if i < 8 then setPtt s (requestPosition ws) i on else (s, .badParam)
  | none => (s, .badParam)

/-! ## Measurement and attention -/

/-- MEASURE_MODE (R114). -/
def ownMeasureMode (s : State) (ws : List Word) : State × Result :=
  match onOff (param ws 1), onOff (param ws 2) with
  | some enable, some _ =>
    let format := param ws 2
    if s.um.enable = enable ∧ s.um.format = format then (s, .noChange)
    else ({ s with um := { s.um with enable := enable, format := format } }, .ok)
  | _, _ => (s, .badParam)

/-- The global mode in force after the request (R114; log 16). -/
def modeDetail (s : State) : Word × Word := (flagWord s.um.enable, natWord s.um.format)

/-- SET_ATTENTION (R160). -/
def ownSetAttention (s : State) (ws : List Word) : State × Result :=
  let m : BitVec 5 := (wordOf ws 1).setWidth 5
  if s.eu.mask = m then (s, .noChange) else ({ s with eu := { s.eu with mask := m } }, .ok)

/-! ## Part state -/

/-- QUIESCE (R179). -/
def ownQuiesce (s : State) (_ : List Word) : State × Result :=
  if s.su.part = .running then (issue (s.setPart .quiesced) (.partState .quiesced .running .quiesce), .ok) else (s, .noChange)

/-- RESUME (R180). -/
def ownResume (s : State) (_ : List Word) : State × Result :=
  if s.su.part = .quiesced then (issue (s.setPart .running) (.partState .running .quiesced .resume), .ok) else (s, .noChange)

/-- A fetched request whose code names no request of the part completes with BAD_CODE: step 1 of R149. -/
def takeBadCode (s : State) : State :=
  match fetched s with
  | some ws => if requestCodes.contains (requestCode ws) then s else completeRequest s ws .badCode (noDetail s)
  | none => s

/-! ## Meanings -/

/-- NOP (R153). -/
def execNop (s : State) : Host.Outcome State Fault Refusal := requestTaken s 0x00 .nothing ownNop nopDetail

/-- SPEAKER_SET (R93). -/
def execSpeakerSet (s : State) : Host.Outcome State Fault Refusal := requestTaken s 0x40 .position ownSpeakerSet noDetail

/-- SPEAKER_VOLUME (R94). -/
def execSpeakerVolume (s : State) : Host.Outcome State Fault Refusal := requestTaken s 0x41 .position ownSpeakerVolume noDetail

/-- PTT (R95). -/
def execPtt (s : State) : Host.Outcome State Fault Refusal := requestTaken s 0x42 .position ownPtt noDetail

/-- MEASURE_MODE (R114). -/
def execMeasureMode (s : State) : Host.Outcome State Fault Refusal := requestTaken s 0x50 .nothing ownMeasureMode modeDetail

/-- SET_ATTENTION (R160). -/
def execSetAttention (s : State) : Host.Outcome State Fault Refusal := requestTaken s 0x60 .nothing ownSetAttention noDetail

/-- QUIESCE (R179). -/
def execQuiesce (s : State) : Host.Outcome State Fault Refusal := requestTaken s 0x70 .nothing ownQuiesce noDetail

/-- RESUME (R180). -/
def execResume (s : State) : Host.Outcome State Fault Refusal := requestTaken s 0x71 .nothing ownResume noDetail

/-- RESTART (R181): the restart of R177, without REQ_DONE and without an advance of the head. -/
def execRestart (s : State) : Host.Outcome State Fault Refusal :=
  let s := finishFetch s (· = 0x72)
  doneQuietly (if fetchedCode s (· = 0x72) then restart s else s)

/-- BAD_CODE (R149): a fetched request whose code names no request. -/
def execBadCode (s : State) : Host.Outcome State Fault Refusal :=
  let s := finishFetch s fun code => !requestCodes.contains code
  done s (takeBadCode s)

end Sys2Proof.Machine
end

