-- ==== Sys2Proof/Machine/Signalling.lean ====
section
/-!
DEFINITION. The meanings of inbound messages (R40 to R47), of the ends of sends (R34) and of timer expiries (R36, R71).
-/

namespace Sys2Proof.Machine

/-! ## Inbound messages -/

/-- SEIZE_ACK (R43). -/
def execSeizeAck (circuit : Fin 256) (s : State) : Host.Outcome State Fault Refusal :=
  done s (whenLinkActive s fun s => seizeAckOn s circuit)

/-- RING_DETECT (R41, R42). -/
def execRingDetect (circuit : Fin 256) (s : State) : Host.Outcome State Fault Refusal :=
  done s (whenLinkActive s fun s => ringDetectOn s circuit)

/-- FAR_ANSWER (R43). -/
def execFarAnswer (circuit : Fin 256) (s : State) : Host.Outcome State Fault Refusal :=
  done s (whenLinkActive s fun s => farAnswerOn s circuit)

/-- FAR_CLEAR (R44). -/
def execFarClear (circuit : Fin 256) (s : State) : Host.Outcome State Fault Refusal :=
  done s (whenLinkActive s fun s => farClearOn s circuit)

/-- CIRCUIT_DOWN (R45). -/
def execCircuitDown (circuit : Fin 256) (s : State) : Host.Outcome State Fault Refusal := done s (circuitDownOn s circuit)

/-- CIRCUIT_UP (R46). -/
def execCircuitUp (circuit : Fin 256) (s : State) : Host.Outcome State Fault Refusal := done s (circuitUpOn s circuit)

/-- RESET_DONE (R46). -/
def execResetDone (circuit : Fin 256) (s : State) : Host.Outcome State Fault Refusal := done s (resetDoneOn s circuit)

/-! ## Ends of sends -/

/-- SEIZE (R34, R36): the end of a SEIZE transmission. -/
def execSeize (s : State) : Host.Outcome State Fault Refusal := done s (sendEnds s .seize)

/-- RING_ON (R34): the end of a RING_ON transmission. -/
def execRingOn (s : State) : Host.Outcome State Fault Refusal := done s (sendEnds s .ringOn)

/-- RING_OFF (R34): the end of a RING_OFF transmission. -/
def execRingOff (s : State) : Host.Outcome State Fault Refusal := done s (sendEnds s .ringOff)

/-- RELEASE_MESSAGE (R34, R35): the end of a RELEASE transmission. -/
def execReleaseMessage (s : State) : Host.Outcome State Fault Refusal := done s (sendEnds s .release)

/-- RESET (R34): the end of a RESET transmission. -/
def execReset (s : State) : Host.Outcome State Fault Refusal := done s (sendEnds s .reset)

/-! ## Expiries (log 4, log 6) -/

/-- CADENCE_ON (R37): ringing pauses. -/
def execCadenceOn (line : Fin 256) (s : State) : Host.Outcome State Fault Refusal :=
  done s (if signalDue s line .cadenceOn then cadence s line .seized .cadenceOff Config.cadenceOffFrames else s)

/-- CADENCE_OFF (R37): ringing goes on. -/
def execCadenceOff (line : Fin 256) (s : State) : Host.Outcome State Fault Refusal :=
  done s (if signalDue s line .cadenceOff then cadence s line .seizedRinging .cadenceOn Config.cadenceOnFrames else s)

/-- BURST (R50). -/
def execBurst (line : Fin 256) (s : State) : Host.Outcome State Fault Refusal :=
  done s (if signalDue s line .burst then burstExpires s line else s)

/-- ACK_WAIT (R39). -/
def execAckWait (line : Fin 256) (s : State) : Host.Outcome State Fault Refusal :=
  done s (if stateDue s line .ackWait then ackWaitExpires s line else s)

/-- NO_ANSWER (R37). -/
def execNoAnswer (line : Fin 256) (s : State) : Host.Outcome State Fault Refusal :=
  done s (if stateDue s line .noAnswer then noAnswerExpires s line else s)

/-- RING_IN (R41). -/
def execRingIn (line : Fin 256) (s : State) : Host.Outcome State Fault Refusal :=
  done s (if stateDue s line .ringIn then ringInExpires s line else s)

/-- GUARD (R18). -/
def execGuard (line : Fin 256) (s : State) : Host.Outcome State Fault Refusal :=
  done s (if stateDue s line .guard then guardExpires s line else s)

/-- The timer of an intercom call has reached its frame (R66, R71). -/
def callDue (s : State) (c : Nat) : Bool :=
  match (s.call c).timer with
  | some f => reached s f
  | none => false

/-- INTERCOM_TIMER (R71). -/
def execIntercomTimer (call : Fin 16) (s : State) : Host.Outcome State Fault Refusal :=
  done s (if callDue s call then complete s (endIntercom s call .noAnswer) else s)

end Sys2Proof.Machine
end

