-- ==== Sys2Proof/Machine/StartupCommands.lean ====
section
/-!
DEFINITION. The meanings of the pins, of the steps of start-up and restart, and of a frame start.
-/

namespace Sys2Proof.Machine

/-- COLD_START (R170): from any state, with the straps sampled (R125). -/
def execColdStart (straps : Fin 16) (s : State) : Host.Outcome State Fault Refusal := doneQuietly (coldStarted s straps)

/-- RECOVER_INPUT (R177): a restart in LOCKDOWN; no effect in any other state, or in a restart drain. -/
def execRecoverInput (s : State) : Host.Outcome State Fault Refusal :=
  if s.su.part = .lockdown ∧ s.su.draining = false then doneQuietly (restart s) else doneQuietly s

/-- FRAME_START (R76, R136): the frame counter counts on; the mixer computes the frame where it runs, and every output is 0
elsewhere (log 5). -/
def execFrameStart (inputs : Table Sample) (s : State) : Host.Outcome State Fault Refusal :=
  let s := { s with frame := s.frame + 1#48 }
  doneQuietly (if mixerRuns s then runFrame s inputs else { s with mx := { s.mx with out := [] } })

/-- RESTART_DRAIN_END (R177): entry to LOADING once the drain is complete (log 4). -/
def execRestartDrainEnd (s : State) : Host.Outcome State Fault Refusal :=
  if s.su.draining = true ∧ drained s = true then doneQuietly (enterLoading s) else doneQuietly s

/-- DESCRIPTOR_CHECK (R172, R173): the descriptor of a load has been read, its words in the load's turns at the port (R138). -/
def execDescriptorCheck (s : State) : Host.Outcome State Fault Refusal :=
  if s.su.load = some .descriptor then doneQuietly (checkDescriptor (finishReads s .load)) else doneQuietly s

/-- LOAD_ENTRY_READ (R174, R175): the next configuration entry of a load, read in the load's turns at the port (R138). -/
def execLoadEntryRead (s : State) : Host.Outcome State Fault Refusal :=
  match s.su.load with
  | some (.entries _) => doneQuietly (readNextEntry (finishReads s .load))
  | _ => doneQuietly s

/-- LOAD_END (R176): the last mirror write of the load has joined the queue. -/
def execLoadEnd (s : State) : Host.Outcome State Fault Refusal := if loadFinished s then done s (endLoad s) else done s s

end Sys2Proof.Machine
end

