-- ==== Sys2Proof/Machine/Dispatch.lean ====
section
/-! DEFINITION. The meaning of every command: one direct call for each row of the opcode table. -/

namespace Sys2Proof.Machine

def exec (i : Instr) (s : State) : Host.Outcome State Fault Refusal :=
  match i with
  | .coldStart straps => Sys2Proof.Machine.execColdStart straps s
  | .recoverInput => Sys2Proof.Machine.execRecoverInput s
  | .frameStart inputs => Sys2Proof.Machine.execFrameStart inputs s
  | .requestFetch => Sys2Proof.Machine.execRequestFetch s
  | .nop => Sys2Proof.Machine.execNop s
  | .select => Sys2Proof.Machine.execSelect s
  | .answer => Sys2Proof.Machine.execAnswer s
  | .privacy => Sys2Proof.Machine.execPrivacy s
  | .forceRelease => Sys2Proof.Machine.execForceRelease s
  | .lineService => Sys2Proof.Machine.execLineService s
  | .signal => Sys2Proof.Machine.execSignal s
  | .circuitReset => Sys2Proof.Machine.execCircuitReset s
  | .release => Sys2Proof.Machine.execRelease s
  | .hold => Sys2Proof.Machine.execHold s
  | .retrieve => Sys2Proof.Machine.execRetrieve s
  | .join => Sys2Proof.Machine.execJoin s
  | .intercomCall => Sys2Proof.Machine.execIntercomCall s
  | .intercomAnswer => Sys2Proof.Machine.execIntercomAnswer s
  | .speakerSet => Sys2Proof.Machine.execSpeakerSet s
  | .speakerVolume => Sys2Proof.Machine.execSpeakerVolume s
  | .ptt => Sys2Proof.Machine.execPtt s
  | .measureMode => Sys2Proof.Machine.execMeasureMode s
  | .setAttention => Sys2Proof.Machine.execSetAttention s
  | .quiesce => Sys2Proof.Machine.execQuiesce s
  | .resume => Sys2Proof.Machine.execResume s
  | .restart => Sys2Proof.Machine.execRestart s
  | .badCode => Sys2Proof.Machine.execBadCode s
  | .restartDrainEnd => Sys2Proof.Machine.execRestartDrainEnd s
  | .startWord data be => Sys2Proof.Machine.execStartWord data be s
  | .descriptorCheck => Sys2Proof.Machine.execDescriptorCheck s
  | .loadEntryRead => Sys2Proof.Machine.execLoadEntryRead s
  | .loadEnd => Sys2Proof.Machine.execLoadEnd s
  | .lineCommit line data be => Sys2Proof.Machine.execLineCommit line data be s
  | .positionCommit position data be => Sys2Proof.Machine.execPositionCommit position data be s
  | .bridgeCommit bridge data be => Sys2Proof.Machine.execBridgeCommit bridge data be s
  | .configWordWrite offset data be => Sys2Proof.Machine.execConfigWordWrite offset data be s
  | .appearanceWrite position key data be => Sys2Proof.Machine.execAppearanceWrite position key data be s
  | .recorderConfigWrite channel data be => Sys2Proof.Machine.execRecorderConfigWrite channel data be s
  | .reqTail data be => Sys2Proof.Machine.execReqTail data be s
  | .evtRead data be => Sys2Proof.Machine.execEvtRead data be s
  | .fltRead data be => Sys2Proof.Machine.execFltRead data be s
  | .protectedWrite offset data be => Sys2Proof.Machine.execProtectedWrite offset data be s
  | .memoryWrite address data be => Sys2Proof.Machine.execMemoryWrite address data be s
  | .frameCountHighRead be => Sys2Proof.Machine.execFrameCountHighRead be s
  | .frameCountLowRead be => Sys2Proof.Machine.execFrameCountLowRead be s
  | .summaryRead be => Sys2Proof.Machine.execSummaryRead be s
  | .fltHeadRead be => Sys2Proof.Machine.execFltHeadRead be s
  | .lostCountRead be => Sys2Proof.Machine.execLostCountRead be s
  | .shortageRead be => Sys2Proof.Machine.execShortageRead be s
  | .pwqEntryWrite => Sys2Proof.Machine.execPwqEntryWrite s
  | .measurementUpdateStart => Sys2Proof.Machine.execMeasurementUpdateStart s
  | .measurementReadDone => Sys2Proof.Machine.execMeasurementReadDone s
  | .seizeAck circuit => Sys2Proof.Machine.execSeizeAck circuit s
  | .ringDetect circuit => Sys2Proof.Machine.execRingDetect circuit s
  | .farAnswer circuit => Sys2Proof.Machine.execFarAnswer circuit s
  | .farClear circuit => Sys2Proof.Machine.execFarClear circuit s
  | .circuitDown circuit => Sys2Proof.Machine.execCircuitDown circuit s
  | .circuitUp circuit => Sys2Proof.Machine.execCircuitUp circuit s
  | .resetDone circuit => Sys2Proof.Machine.execResetDone circuit s
  | .seize => Sys2Proof.Machine.execSeize s
  | .ringOn => Sys2Proof.Machine.execRingOn s
  | .ringOff => Sys2Proof.Machine.execRingOff s
  | .releaseMessage => Sys2Proof.Machine.execReleaseMessage s
  | .reset => Sys2Proof.Machine.execReset s
  | .cadenceOn line => Sys2Proof.Machine.execCadenceOn line s
  | .cadenceOff line => Sys2Proof.Machine.execCadenceOff line s
  | .burst line => Sys2Proof.Machine.execBurst line s
  | .ackWait line => Sys2Proof.Machine.execAckWait line s
  | .noAnswer line => Sys2Proof.Machine.execNoAnswer line s
  | .ringIn line => Sys2Proof.Machine.execRingIn line s
  | .guard line => Sys2Proof.Machine.execGuard line s
  | .intercomTimer call => Sys2Proof.Machine.execIntercomTimer call s

end Sys2Proof.Machine
end

