-- ==== Sys2Proof/Safety.lean ====
section
/-!
DEFINITION. What holds of the part between any two steps, and the words in which claims are stated.
-/

namespace Sys2Proof.Machine

/-! ## Invariants -/

/-- The SRAM's contents are in canonical form. -/
def MemoryOk (s : State) : Prop := Memory.wf s.mem = true

/-- The discipline of the posted write queue (R137, R138): at most 16 entries, writes wait only for a full queue, and the arbiter's mode
fits the depth. -/
structure QueueOk (b : BI) : Prop where
  size   : b.pwq.length ≤ 16
  full   : b.waiting ≠ [] → b.pwq.length = 16
  normal : b.mode = .normal → b.pwq.length < 12
  drain  : b.mode = .drain → 8 < b.pwq.length

/-- The indices of the rings and of the fault log, and the saturating counts, lie in their ranges (R132, R143, R154, R155, R163, R167). -/
structure IndexOk (s : State) : Prop where
  evtHead  : s.eu.evtHead < 256
  evtRead  : s.eu.evtRead < 256
  fltHead  : s.eu.fltHead < 32
  fltRead  : s.eu.fltRead < 32
  lost     : s.eu.lost ≤ 65535
  unlogged : s.eu.unlogged ≤ 65535
  reqHead  : s.re.head < 64
  reqTail  : s.re.tail < 64

/-- The fault log never holds more than 16 unread records (R163, R165); until the first load ends the processor's index is 0, and a restart
drain goes with the restart mark (R177). -/
structure FaultLogOk (s : State) : Prop where
  unread : s.eu.unreadFaults ≤ 16
  first  : s.su.restartMark = false → s.su.part = .waiting ∨ s.su.part = .loading → s.eu.fltRead = 0
  drain  : s.su.draining = true → s.su.restartMark = true

/-- What the Recording Allocator keeps (R100, R101, R107): the free list holds each FREE channel once and no other, the channel that a port
holds is assigned to it, the wait queue holds no port twice, and the wait queue is empty or the free list is. -/
structure RecordingOk (s : State) : Prop where
  once  : s.ra.freeList.Nodup
  free  : ∀ ch, ch ∈ s.ra.freeList ↔ (s.channel ch).state = .free
  held  : ∀ q ch, (s.port q).channel = some ch → (s.channel ch).state = .assigned q
  queue : s.ra.waitQueue.Nodup
  short : s.ra.waitQueue = [] ∨ s.ra.freeList = []

/-- Every word of Line Status, Position Status and Recorder Status, as a processor read finds it, shows the part's state (R6, R29, R65, R98,
section 11.6). -/
structure MirrorsShow (s : State) : Prop where
  line     : ∀ n < 256, ∀ i < 8, latestWord s (lineStatusOffset n + i) = (lineStatusWords s n).getD i 0#32
  position : ∀ p < 32, ∀ i < 64, latestWord s (positionStatusOffset p + i) = (positionStatusEntry s p).getD i 0#32
  channel  : ∀ r < 128, ∀ i < 4, latestWord s (recorderStatusOffset r + i) = (recorderStatusWords s r).getD i 0#32

/-- A load has written every mirror: in RUNNING, QUIESCED and LOCKDOWN but for a restart drain and a lockdown that ended a load, and in a
load's last step (R6, R65, R98, R175, R177). -/
def mirrored (s : State) : Bool :=
  (s.su.part.carries && !s.su.draining && decide (s.eu.cause ≠ some .configLoad)) || decide (s.su.load = some .ending)

/-- The mirrors show the part's state wherever a load has written them; a load is a thing of LOADING, and a part that serves requests is in no
lockdown that ended a load (R137, R167, R169, R175). -/
structure MirrorsOk (s : State) : Prop where
  shown   : mirrored s = true → MirrorsShow s
  loading : s.su.load ≠ none → s.su.part = .loading
  serving : s.su.part.serves = true → s.eu.cause ≠ some .configLoad

/-- Every line's appearance list is in ascending position order, without duplicates (R13). -/
def AppearancesOk (s : State) : Prop := ∀ n, (s.appEntries n).Pairwise fun a b => a.pos < b.pos

/-- The attention output is what the flags and the mask make it (R159). -/
def AttentionOk (s : State) : Prop := s.eu.attention = attentionOf s.eu s.su.part

/-! ## Frames -/

/-- The pieces of State that claims about what a command leaves unchanged tell apart. -/
inductive Block where
  | sram | words | frame | bus | ring | take | events | alarms | lc | cc | link | hc | mx | ra | um | meter | su
deriving DecidableEq, Repr

/-- A block is as it was. `words` are the aperture's words outside the OWNED zones, as a processor read finds them (R137). The last part of
every command may start the transmitter (R34), move the unrecorded intervals (R118), end an update (R123) and end a wait for room
(R146): `link`, `meter` and `take` say when these leave what they act on. -/
def Same (s t : State) : Block → Prop
  | .sram => t.mem = s.mem
  | .words => ∀ off, regionOf off ≠ .owned → latestWord t off = latestWord s off
  | .frame => t.frame = s.frame
  | .bus => t.bi.base = s.bi.base ∧ t.bi.copies = s.bi.copies ∧ t.bi.startCopy = s.bi.startCopy ∧ t.bi.latch = s.bi.latch ∧
      t.bi.held = s.bi.held ∧ t.bi.readData = s.bi.readData
  | .ring => t.re.head = s.re.head ∧ t.re.tail = s.re.tail
  | .take => s.re.take ≠ .waitingForRoom → t.re.take = s.re.take
  | .events => t.eu.evtHead = s.eu.evtHead ∧ t.eu.evtRead = s.eu.evtRead ∧ t.eu.lost = s.eu.lost ∧ t.eu.overflow = s.eu.overflow
  | .alarms => t.eu.fault = s.eu.fault ∧ t.eu.recorder = s.eu.recorder ∧ t.eu.mask = s.eu.mask ∧ t.eu.fltHead = s.eu.fltHead ∧
      t.eu.fltRead = s.eu.fltRead ∧ t.eu.cause = s.eu.cause ∧ t.eu.unlogged = s.eu.unlogged
  | .lc => t.lc = s.lc
  | .cc => t.cc.circuits = s.cc.circuits ∧ t.cc.paths = s.cc.paths
  | .link => s.cc.pendingList = [] ∨ s.cc.sending ≠ none → t.cc.pendingList = s.cc.pendingList ∧ t.cc.sending = s.cc.sending
  | .hc => t.hc = s.hc
  | .mx => t.mx = s.mx
  | .ra => t.ra = s.ra
  | .um => t.um.enable = s.um.enable ∧ t.um.format = s.um.format ∧ t.um.updates = s.um.updates
  | .meter => (s.um.contexts = [] → t.um.contexts = []) ∧
      (s.um.inProgress = none → t.um.inProgress = none ∧ t.bi.measHold = s.bi.measHold)
  | .su => t.su = s.su

/-- The command queue and every block but those listed are as they were. -/
def Leaves (s t : State) (changed : List Block) : Prop := t.pending = s.pending ∧ ∀ b, b ∉ changed → Same s t b

/-! ## Requests and events -/

/-- Entry h of the event ring, as a processor read finds it, is the event as issued at frame f (R156). -/
def EventAt (t : State) (h : Nat) (e : Event) (f : Frame) : Prop :=
  ∀ i < 8, latestWord t (eventOffset h + i) = (e.words f).getD i 0#32

/-- A request with a code and its words stands fetched at the head of the ring, no processor access is held, and the event ring has room
for a number of events. -/
structure Ready (s : State) (code : Nat) (ws : List Word) (events : Nat) : Prop where
  fetched : fetched s = some ws
  whole   : accessesLeft s .fetch = 0
  code    : requestCode ws = code
  held    : s.bi.held = []
  room    : s.eu.unread + events ≤ 255
  head    : s.eu.evtHead < 256
  read    : s.eu.evtRead < 256

/-- The request names a handset that is present at an enabled position of the configuration (R149). -/
structure FromHandset (s : State) (ws : List Word) (p : Party) : Prop where
  party   : requestParty ws = p
  config  : p.pos < s.su.positionCount
  enabled : (s.position p.pos).applied.enabled = true
  present : present (s.position p.pos).applied p.hs = true

/-- The request has completed as R151 says: the last event issued is its REQ_DONE, the head has advanced, and the engine is idle. -/
def Completed (s t : State) (ws : List Word) (r : Result) (d1 d2 : Word) : Prop :=
  t.re.head = (s.re.head + 1) % 64 ∧ t.re.tail = s.re.tail ∧ t.re.take = .idle ∧
    ∃ h, h < 256 ∧ t.eu.evtHead = (h + 1) % 256 ∧ EventAt t h (.reqDone s.re.head (wordOf ws 0) r d1 d2) s.frame

/-- The request commands and their codes (R149, section 8.7). -/
def requestsByCode : List (Instr × Nat) :=
  [(.nop, 0x00), (.select, 0x10), (.answer, 0x11), (.privacy, 0x12), (.forceRelease, 0x13), (.lineService, 0x14), (.signal, 0x20),
   (.circuitReset, 0x21), (.release, 0x30), (.hold, 0x31), (.retrieve, 0x32), (.join, 0x33), (.intercomCall, 0x34), (.intercomAnswer, 0x35),
   (.speakerSet, 0x40), (.speakerVolume, 0x41), (.ptt, 0x42), (.measureMode, 0x50), (.setAttention, 0x60), (.quiesce, 0x70),
   (.resume, 0x71), (.restart, 0x72)]

/-- The requests that name a handset, with their codes (R149, section 8.7). -/
def handsetRequests : List (Instr × Nat) :=
  [(.select, 0x10), (.answer, 0x11), (.privacy, 0x12), (.release, 0x30), (.hold, 0x31), (.retrieve, 0x32), (.join, 0x33),
   (.intercomCall, 0x34), (.intercomAnswer, 0x35)]

/-- The requests that name a position, with their codes (R149, section 8.7). -/
def positionRequests : List (Instr × Nat) := [(.speakerSet, 0x40), (.speakerVolume, 0x41), (.ptt, 0x42)]

/-! ## Messages of the link -/

/-- A message that the state of its circuit does not allow (R42 to R44, R46, R47). -/
def wrongState (s : State) (c : Fin 256) (i : Instr) : Prop :=
  let r := s.circuit c
  (i ∈ [Instr.seizeAck c, .farAnswer c, .farClear c] ∧
    (r.state = .idle ∨ r.state = .down ∨ r.state = .resetting ∨ (r.state = .seizing ∧ seizeSent r = false))) ∨
  (i = .ringDetect c ∧ (r.state = .down ∨ r.state = .resetting)) ∨
  (i = .farAnswer c ∧ r.state = .inUse ∧ ∃ n, r.owner = some n ∧ (s.line n).state = .ringingIn) ∨
  (i = .resetDone c ∧ r.state ≠ .uninstalled ∧ ¬(r.state = .resetting ∧ r.lastSent = .reset))

/-- A message that is ignored: by the state of its circuit and of its circuit's owner (R42 to R45), or because the part is in WAITING,
LOADING or a restart drain (R40, R177). -/
def ignoredMessage (s : State) (c : Fin 256) (i : Instr) : Prop :=
  let r := s.circuit c
  (linkActive s = true ∧
    ((i ∈ [Instr.seizeAck c, .ringDetect c, .farAnswer c, .farClear c] ∧ r.state = .releasing) ∨
     (i = .seizeAck c ∧ r.state = .inUse) ∨
     (∃ n, r.owner = some n ∧ r.state = .inUse ∧
       ((i = .farAnswer c ∧ (s.line n).state ≠ .ringingIn ∧ ¬((s.line n).state = .calling ∧ (s.line n).eff.kind = .autoRingdown)) ∨
        (i = .ringDetect c ∧ (s.line n).state ≠ .calling))))) ∨
  (linkActive s = false ∧
    (i ∈ [Instr.seizeAck c, .ringDetect c, .farAnswer c, .farClear c] ∨ (i = .circuitUp c ∧ r.state = .uninstalled) ∨
     (i = .resetDone c ∧ ¬(r.state = .resetting ∧ r.lastSent = .reset)))) ∨
  (i = .circuitDown c ∧ r.state = .down)

/-! ## Start-up and restart -/

/-- What a restart leaves at its taking (R177): every call, alert, intercom call, recording and context is gone without events, the
outputs are 0, and the drain has begun. -/
structure TornDown (s t : State) : Prop where
  part      : t.su = { s.su with restartMark := true, draining := true }
  line      : ∀ n, (t.line n).participants = [] ∧ (t.line n).setter = none ∧ (t.line n).callCopy = none ∧
    (t.line n).state = .outOfService .admin ∧ (t.line n).active = none ∧ (t.line n).signalTimer = none ∧
    (t.line n).stateTimer = none ∧ (t.line n).pendingAdmin = false ∧ (t.line n).ringBurst = false ∧
    (t.line n).pathSwitching = false
  circuit   : ∀ c, (t.circuit c).owner = none ∧ (t.circuit c).state ≠ .seizing ∧ (t.circuit c).state ≠ .inUse
  alerts    : t.lc.alerts = []
  handsets  : t.hc.handsets = []
  calls     : t.hc.calls = []
  contexts  : t.um.contexts = [] ∧ t.um.updates = []
  port      : ∀ q, t.port q = PortRec.cold
  waitQueue : t.ra.waitQueue = []
  outputs   : t.mx.out = []
  engine    : t.re.take = .idle ∧ t.re.head = s.re.head ∧ t.re.tail = s.re.tail
  events    : t.eu = { s.eu with
    overflow := s.eu.overflow.disarm, fault := s.eu.fault.disarm, recorder := s.eu.recorder.disarm, attention := t.eu.attention }
  bus       : t.bi.latch = none ∧ t.bi.base = s.bi.base ∧ t.bi.copies = s.bi.copies ∧ t.bi.startCopy = s.bi.startCopy ∧
    t.bi.held = s.bi.held ∧ t.bi.readData = s.bi.readData
  frame     : Leaves s t [.bus, .take, .events, .alarms, .lc, .cc, .link, .hc, .mx, .ra, .um, .meter, .su]

/-- What entry to LOADING does (R142, R171). -/
structure EntersLoading (s t : State) : Prop where
  part    : t.su = { s.su with
    part := .loading, load := some .descriptor, wordsRead := 0, startFrame := s.frame, rejects := 0, draining := false }
  outputs : t.mx.out = [] ∧ t.mx.snapshot = none ∧ t.mx.speakers = s.mx.speakers
  bridges : ∀ b, (t.bridge b).energy = [] ∧ (t.bridge b).selected = []
  engine  : t.re.take = .idle
  bus     : t.bi.latch = none ∧ t.bi.base = s.bi.base ∧ t.bi.copies = s.bi.copies ∧ t.bi.held = s.bi.held ∧ t.bi.readData = s.bi.readData
  events  : t.eu = { s.eu with
    overflow := s.eu.overflow.disarm, fault := s.eu.fault.disarm, recorder := s.eu.recorder.disarm, attention := t.eu.attention
    fltHead := if s.su.restartMark then s.eu.fltHead else 0 }

/-! ## Processor accesses and faults -/

/-- A processor write to an offset of the aperture that nothing holds: it enables a byte, no access waits, and no rule of R138 to R141 holds
it. -/
structure Taken (s : State) (off : Nat) (be : ByteEnables) : Prop where
  inside  : off < 0x10000
  enables : be ≠ 0#4
  none    : s.bi.held = []
  free    : mustHold s (.write (sramAddress s off) 0#32 be) = false

/-- The enabled bytes of a processor write have reached the SRAM, and every other word outside the OWNED zones reads as before (R126, R127,
R137). -/
structure Wrote (s t : State) (off : Nat) (data : Word) (be : ByteEnables) : Prop where
  sram  : t.mem = writeWord s.mem (sramAddress s off) data be
  other : ∀ o, o ≠ off → regionOf o ≠ .owned → latestWord t o = latestWord s o

/-- The written copy of a word holds the merged word; every other copy, and all else that the Bus Interposer keeps for the processor's side,
is as before (R126, R130, R131). -/
structure Copied (s t : State) (off : Nat) (data : Word) (be : ByteEnables) : Prop where
  copies : ∀ o, copyAt t o = if o = off then mergeBytes (copyAt s off) data be else copyAt s o
  rest   : t.bi.base = s.bi.base ∧ t.bi.startCopy = s.bi.startCopy ∧ t.bi.latch = s.bi.latch ∧ t.bi.held = s.bi.held ∧
    t.bi.readData = s.bi.readData

/-- A load has read the words of an entry into the written copy; all else of the processor's side is as before (R129, R131, R174). -/
structure EntryRead (s t : State) (off : Nat) (ws : List Word) : Prop where
  copies : ∀ o, copyAt t o = if off ≤ o ∧ o < off + ws.length then wordOf ws (o - off) else copyAt s o
  rest   : t.bi.base = s.bi.base ∧ t.bi.startCopy = s.bi.startCopy ∧ t.bi.latch = s.bi.latch ∧ t.bi.held = s.bi.held ∧
    t.bi.readData = s.bi.readData

/-- A fault has been logged at the index that stood at its head: the record, the index, the FAULT flag and FAULT_LOGGED (R165). -/
structure Logged (s t : State) (f : FaultReport) (double : Bool) : Prop where
  head   : t.eu.fltHead = (s.eu.fltHead + 1) % 32
  flag   : t.eu.fault = s.eu.fault.occur
  record : ∀ i < 16, latestWord t (faultOffset s.eu.fltHead + i) = (f.words s.frame double).getD i 0#32
  event  : t.eu.evtHead = (s.eu.evtHead + 1) % 256 ∧ EventAt t s.eu.evtHead (.faultLogged s.eu.fltHead f.code double) s.frame

/-! ## Further words of the statements -/

/-- All writes of the part that have not reached the SRAM, oldest first: those in the queue, then those that wait for room (R137). -/
def writesOf (s : State) : List (Nat × Word) := s.bi.pwq ++ s.bi.waiting

/-- The whole of a status entry has joined the queue, changed or not, and then the words of an event; where the entry showed the state before,
as in every run from a load on, nothing more is written (R2, R62, R130, R156). -/
def StatusWrittenFirst (s t : State) (off : Nat) (shown status : List Word) (e : Event) : Prop :=
  ∃ again, writesOf t = writesOf s ++ writesAt off status ++ writesAt (eventOffset s.eu.evtHead) (e.words s.frame) ++ again ∧
    (∀ w ∈ again, w ∈ writesAt off status) ∧ ((∀ i < shown.length, latestWord s (off + i) = shown.getD i 0#32) → again = [])

/-- The request names a position that is configured and enabled (R149). -/
structure FromPosition (s : State) (ws : List Word) (p : Nat) : Prop where
  position : requestPosition ws = p
  config   : p < s.su.positionCount
  enabled  : (s.position p).applied.enabled = true

/-- As `Completed`, for requests whose effects may issue any number of events: the last event issued is the REQ_DONE unless the ring was
full and events were dropped (R151, R155). -/
structure Finished (s t : State) (ws : List Word) (r : Result) : Prop where
  ring  : t.re.head = (s.re.head + 1) % 64 ∧ t.re.tail = s.re.tail ∧ t.re.take = .idle
  event : s.eu.lost < 65535 → t.eu.lost = s.eu.lost →
    EventAt t ((t.eu.evtHead + 255) % 256) (.reqDone s.re.head (wordOf ws 0) r 0#32 0#32) s.frame

/-- The command that is the end of a transmission of a message (R34). -/
def endOfSend : LinkMsg → Instr
  | .seize => .seize
  | .ringOn => .ringOn
  | .ringOff => .ringOff
  | .release => .releaseMessage
  | .reset => .reset

/-- The place of a handset's record among the 64 (R52). -/
def Party.place (p : Party) : Nat := 2 * p.pos + p.hs

/-- Beside some handsets and their positions, the Handset Controller keeps everything as it was (R52, R62, R66). -/
structure OnlyHandsets (s t : State) (ps : List Party) : Prop where
  handsets  : ∀ q : Party, (∀ p ∈ ps, q.place ≠ p.place) → t.handset q = s.handset q
  positions : ∀ q, (∀ p ∈ ps, q ≠ p.place / 2) → t.position q = s.position q
  calls     : t.hc.calls = s.hc.calls

/-- A line's record when its call has ended and it is IDLE (R3, R8, R19, R36). -/
def idleAfter (l : LineRec) (now : Frame) : LineRec :=
  { l with
    state := .idle, lastChange := now, setter := none, callCopy := none, active := none, signalTimer := none, stateTimer := none
    pathSwitching := false, switchFrom := none, ringBurst := false }

/-- A line's record when its call has ended and the line is CLEARING, its guard running to a frame (R18, R19, R36). -/
def clearingAfter (l : LineRec) (guard now : Frame) : LineRec :=
  { l with
    state := .clearing, lastChange := now, participants := [], setter := none, signalTimer := none, stateTimer := some (.guard, guard)
    pathSwitching := false, switchFrom := none, ringBurst := false }

/-- The update list when a line's call has ended, its context brought up to date by a function first (R119, R120, R122). -/
def updatesAfter (s : State) (n : Nat) (f : MeasContext → MeasContext) : List UpdateRec :=
  match s.context n with
  | some c => if c.enabled then (formUpdate s n (callEndOps ((f c).finish s.frame) s.frame)).um.updates else s.um.updates
  | none => s.um.updates

/-- The ring or the outgoing ringing of a call ended unanswered (R116). -/
def unansweredOf (c : MeasContext) : MeasContext := { c with unanswered := 1 }

/-- The update list is a given one; the measurement mode is as it was (R114, R122). -/
def UpdatesAre (s t : State) (us : List UpdateRec) : Prop := t.um.updates = us ∧ t.um.enable = s.um.enable ∧ t.um.format = s.um.format

/-- What making an operation does to a word (R123). -/
def UpdOp.make (op : UpdOp) (w : Word) : Word := (writeBack w op).getD w

/-- A line without a call is seized anew at path position j, on circuit d: step 1 and step 2 of R30, in CALLING with a call copy and a latched
context (R3, R5, R115). -/
structure SeizedAnew (s t : State) (n j d : Nat) : Prop where
  line    : t.line n = { s.line n with
    callCopy := some (s.line n).applied.call, active := some d, state := .calling, lastChange := s.frame
    stateTimer := if (s.line n).state = .clearing then none else (s.line n).stateTimer }
  circuit : t.circuit d = { s.circuit d with owner := some n, state := .seizing, desired := .seized }
  used    : (t.path n).lastUsed = j
  latched : ∃ x, t.context n = some x ∧ x.seizures = 1 ∧ x.format = s.um.format ∧
    x.enabled = (s.um.enable && (s.line n).applied.measureEnable)

/-- The masks of a line are what R29 makes of its effective path group and its circuits, its operational bits apart. -/
def masksFollow (s : State) (n : Nat) : Prop := s.path n = (refreshMasks s n (s.line n).eff.path (s.line n).eff.path).path n

/-- The line is enabled and not OUT_OF_SERVICE: step 2 of R20. -/
def inServiceLine (l : LineRec) : Prop := l.applied.enabled = true ∧ l.state.isOos = false

/-- A handset may take a line that it does not have: the line is in service and open to the position's class, and the handset's stack has room
for its current lines (R20, steps 2 to 5). -/
structure MayTake (s : State) (p : Party) (n : Nat) : Prop where
  service : inServiceLine (s.line n)
  fresh   : CurEntry.line n ∉ (s.handset p).current ∧ n ∉ (s.handset p).hold
  access  : positionClass s p.pos ≤ (s.line n).eff.accessClass
  room    : (currentLines (s.handset p).current).length + (s.handset p).hold.length ≤ 4

/-- A join of the line overrides the PRIVACY of a setter (R11). -/
def overrides (s : State) (n p : Nat) (setter : Party) : Prop :=
  (s.line n).eff.bargeAllowed = true ∧ positionClass s p < positionClass s setter.pos

/-- The first check of R20 that refuses a handset a line, in the order of the checks, with its result (R7, R9, R11, R20). -/
def selectRefused (s : State) (p : Party) (n : Nat) (r : Result) : Prop :=
  let l := s.line n
  let inUse := l.state = .calling ∨ l.state = .connected ∨ l.state = .held
  let full := (if l.eff.shared = true then 4 else 1) ≤ l.participants.length
  (r = .lineOos ∧ ¬inServiceLine l) ∨
  (r = .access ∧ inServiceLine l ∧ CurEntry.line n ∉ (s.handset p).current ∧ n ∉ (s.handset p).hold ∧
    l.eff.accessClass < positionClass s p.pos) ∨
  (r = .noChange ∧ inServiceLine l ∧ CurEntry.line n ∈ (s.handset p).current) ∨
  (r = .stackFull ∧ inServiceLine l ∧ CurEntry.line n ∉ (s.handset p).current ∧ n ∉ (s.handset p).hold ∧
    positionClass s p.pos ≤ l.eff.accessClass ∧ 4 < (currentLines (s.handset p).current).length + (s.handset p).hold.length) ∨
  (MayTake s p n ∧
    ((r = .quiesced ∧ l.state = .idle ∧ s.su.part = .quiesced) ∨
     (r = .noPath ∧ l.state = .idle ∧ s.su.part ≠ .quiesced ∧ ∀ j < 4, selectable s n j = false) ∨
     (r = .clearing ∧ l.state = .clearing) ∨
     (r = .lineBusy ∧ inUse ∧ full) ∨
     (r = .privateLine ∧ inUse ∧ ¬full ∧ ∃ st ∈ l.setter, ¬overrides s n p.pos st)))

/-- The line is in a state in which a handset that may take it obtains it, but for the recorder channel that it may need (R20, step 6). -/
def takeable (s : State) (n p : Nat) : Prop :=
  let l := s.line n
  (l.state = .idle ∧ s.su.part ≠ .quiesced ∧ ∃ j < 4, selectable s n j = true) ∨ l.state = .ringingIn ∨
  ((l.state = .calling ∨ l.state = .connected ∨ l.state = .held) ∧ l.participants.length < (if l.eff.shared = true then 4 else 1) ∧
    ∀ st ∈ l.setter, overrides s n p st)

/-- The state of a line that becomes connected (R8): HELD when every participant is on hold and the line is not NAILED. -/
def connectedOrHeld (l : LineRec) : LineState := if l.eff.kind ≠ .nailed ∧ allHeld l = true then .held else .connected

/-- A member that may be selected: in service, its energy estimate at least the threshold (R91). -/
def isCandidate (r : BridgeRec) (i : Nat) : Prop :=
  i < r.applied.members.length ∧ (inService r.applied i).isSome = true ∧ r.applied.threshold ≤ Table.get 0 r.energy i

/-- Member j ranks before member i: a higher rank value, or an equal one and a lower index (R91). -/
def outranks (r : BridgeRec) (j i : Nat) : Prop := rankValue r i < rankValue r j ∨ (rankValue r i = rankValue r j ∧ j < i)

/-- The lines of a handset's current set have been pushed: its participation in each is on hold, and a connected line that is not NAILED and
of which every participant is on hold is HELD (R7, R8, R53). -/
structure LinesPushed (s t : State) (p : Party) (ns : List Nat) : Prop where
  mode : ∀ m ∈ ns, (t.line m).participants = (s.line m).participants.map fun e => if e.party = p then { e with mode := .hold } else e
  held : ∀ m ∈ ns, (s.line m).state = .connected → (s.line m).eff.kind ≠ .nailed → (s.line m).participants ≠ [] →
    (∀ e ∈ (s.line m).participants, e.party ≠ p → e.mode = .hold) → (t.line m).state = .held

/-- A call of a caller's position, by its target kind (0 POSITION, 1 GROUP) and index, reaches position q (R67, R69). -/
def wouldReach (s : State) (caller kind index q : Nat) : Prop :=
  q < 32 ∧ q ≠ caller ∧ (s.position q).applied.enabled = true ∧
    ((kind = 0 ∧ q = index) ∨ (kind = 1 ∧ index < 16 ∧ (s.position q).applied.groupMask.getLsbD index = true))

/-- The handset's stack has no room for the lines of its current set (R53). -/
def stackFull (s : State) (p : Party) : Prop := 4 < (currentLines (s.handset p).current).length + (s.handset p).hold.length

/-- The first check of R67 that refuses a call to a target kind and index, with its result. -/
def callRefused (s : State) (p : Party) (kind index : Nat) (r : Result) : Prop :=
  let known := (kind = 0 ∧ index < 32) ∨ (kind = 1 ∧ index < 16)
  let own := kind = 0 ∧ index = p.pos
  let free := ∃ c < 16, (s.call c).state = .free
  (r = .badParam ∧ ¬known) ∨
  (r = .positionOff ∧ known ∧ ¬own ∧ ∀ q, ¬wouldReach s p.pos kind index q) ∨
  (r = .badParam ∧ known ∧ own) ∨
  ((∃ q, wouldReach s p.pos kind index q) ∧
    ((r = .noIcm ∧ ¬free) ∨ (r = .quiesced ∧ free ∧ s.su.part = .quiesced) ∨
     (r = .stackFull ∧ free ∧ s.su.part ≠ .quiesced ∧ stackFull s p)))

/-- The first check of R70 that refuses an answer to a call record, with its result; `start` is the parameter that names the call's start
frame. -/
def answerRefused (s : State) (p : Party) (c : Nat) (start : Word) (r : Result) : Prop :=
  let alerting := (s.position p.pos).reach.getLsbD c = true ∧ frameLow (s.call c).start = start
  (r = .badParam ∧ 15 < c) ∨ (r = .notAlerting ∧ c ≤ 15 ∧ ¬alerting) ∨ (r = .stackFull ∧ c ≤ 15 ∧ alerting ∧ stackFull s p)

/-- An intercom call has ended by the act of a handset (R66, R69, R72; log 38): its record is FREE, no position is reached by it, and its
other party loses it from the current set; no other handset and no other record changes. -/
structure CallLeft (s t : State) (x : Nat) (p : Party) : Prop where
  record   : t.call x = IcmRec.cold
  calls    : ∀ y, y ≠ x → t.call y = s.call y
  parties  : ∀ q : Party, q.place ≠ p.place → ((s.call x).caller = some q ∨ (s.call x).answerer = some q) →
    t.handset q = { s.handset q with current := (s.handset q).current.filter (· ≠ .intercom x) }
  handsets : ∀ q : Party, q.place ≠ p.place → (∀ r, (s.call x).caller = some r ∨ (s.call x).answerer = some r → r.place ≠ q.place) →
    t.handset q = s.handset q
  reach    : ∀ q < 32, (t.position q).reach.getLsbD x = false

/-- A line is forced off (R24, R25, R4): every handset leaves it, its circuit is being released as its own, it is on no alert list, and the
call is measured, unanswered where it was ringing in (R15, R18, R54, R116, R119). No other line changes. -/
structure ForcedOff (s t : State) (n : Nat) : Prop where
  handsets : ∀ e ∈ (s.line n).participants, CurEntry.line n ∉ (t.handset e.party).current ∧ n ∉ (t.handset e.party).hold
  others   : OnlyHandsets s t ((s.line n).participants.map (·.party))
  circuit  : ∀ c, (s.line n).active = some c → (t.circuit c).owner = some n ∧ (t.circuit c).state = .releasing ∧
    (t.circuit c).desired = .idle ∧ (t.circuit c).farHeld = false
  alerts   : (s.line n).state = .ringingIn → ∀ p, n ∉ t.alertList p
  measured : t.context n = none ∧ UpdatesAre s t (updatesAfter s n (if (s.line n).state = .ringingIn then unansweredOf else id))
  lines    : ∀ m, m ≠ n → t.line m = s.line m

/-- The line's participants that stay when some handsets leave every line of their records (R54, R63, R64). -/
def participantsWithout (s : State) (ps : List Party) (n : Nat) : List Participant :=
  (s.line n).participants.filter fun e =>
    decide ¬(e.party ∈ ps ∧ (CurEntry.line n ∈ (s.handset e.party).current ∨ n ∈ (s.handset e.party).hold))

/-- Some handsets have left their lines: each line keeps its other participants, and a line that is not NAILED and has lost its last one is
released, by its state (R7, R17, R18, R63, R64). -/
structure HandsetsLeft (s t : State) (ps : List Party) : Prop where
  participants : ∀ n, (t.line n).participants = participantsWithout s ps n
  released     : ∀ n, (s.line n).participants ≠ [] → participantsWithout s ps n = [] → (s.line n).eff.kind ≠ .nailed →
    ((s.line n).state = .calling → (t.line n).state = .idle) ∧
    ((s.line n).state = .connected ∨ (s.line n).state = .held →
      (t.line n).state = .clearing ∧ (t.line n).stateTimer = some (.guard, s.frame + 8000#48))

/-- A position's alert list as it is filled when the position becomes enabled: of the lines in RINGING_IN with an AUDIBLE appearance there,
the eight that rang first, in the order of their rings (R16). -/
structure FilledAlerts (t : State) (p : Nat) : Prop where
  only  : ∀ n ∈ t.alertList p, n ∈ ringingLines t ∧ audibleAt t n p = true
  order : (t.alertList p).Pairwise fun a b => ringsBefore t a b = true
  size  : (t.alertList p).length ≤ 8
  first : ∀ n ∈ ringingLines t, audibleAt t n p = true → n ∉ t.alertList p →
    (t.alertList p).length = 8 ∧ ∀ m ∈ t.alertList p, ringsBefore t m n = true

/-- A handset's current set after RELEASE: the line on top of its hold stack, if it has one, resumes: it is the one entry of the current
set, and CONNECTED again from HELD (R8, R57). -/
structure TopResumed (s t : State) (p : Party) : Prop where
  resumed : ∀ m, (s.handset p).hold.getLast? = some m →
    t.handset p = { current := [.line m], hold := (s.handset p).hold.filter (· ≠ m) } ∧
    ((s.line m).state = .held → { party := p, mode := .hold } ∈ (s.line m).participants → (t.line m).state = .connected)
  empty   : (s.handset p).hold = [] → t.handset p = { current := [], hold := [] }

/-- Before and after the entry of a position, or its place, a line's appearance list holds the lower and the higher positions (R13). -/
def around (p : Nat) (before after : List AppEntry) : Prop := (∀ e ∈ before, e.pos < p) ∧ ∀ e ∈ after, p < e.pos

/-- The line may join a position's alert list by R15: it is in RINGING_IN, has an AUDIBLE appearance there, and is not on the list. -/
def mayAlert (s t : State) (p n : Nat) : Prop := n ∈ ringingLines s ∧ audibleAt t n p = true ∧ n ∉ s.alertList p

/-- A line has been inserted at its ring-start place in an alert list (R14). -/
def insertedByRing (s : State) (n : Nat) (old new : List Nat) : Prop :=
  ∃ a b, old = a ++ b ∧ new = a ++ n :: b ∧ (∀ x ∈ a, ringsBefore s n x = false) ∧ ∀ x ∈ b.head?, ringsBefore s n x = true

/-- Commands that may change the part's applied configuration: start-up, loads, and processor writes. -/
def mayConfigure : Instr → Bool
  | .coldStart _ => true
  | .descriptorCheck => true
  | .loadEntryRead => true
  | .startWord _ _ => true
  | .lineCommit _ _ _ => true
  | .positionCommit _ _ _ => true
  | .bridgeCommit _ _ _ => true
  | .configWordWrite _ _ _ => true
  | .appearanceWrite _ _ _ _ => true
  | .recorderConfigWrite _ _ _ => true
  | .reqTail _ _ => true
  | .evtRead _ _ => true
  | .fltRead _ _ => true
  | .protectedWrite _ _ _ => true
  | .memoryWrite _ _ _ => true
  | _ => false

end Sys2Proof.Machine
end

