-- ==== Sys2Proof/WellFormed.lean ====
section
/-!
DEFINITION. Which commands are well formed: the operands are such as the rows of the table stand for. The machine's meanings do not rest on
it: an ill-formed command has the meaning its operands give it, or the fault of log 26 (log 27).
-/

namespace Sys2Proof

open Sys2Proof.Machine

/-- An access enables one to four bytes of its word (R126). -/
def enablesSome (be : ByteEnables) : Bool := decide (be ≠ 0#4)

/-- The input samples of a frame: eight highways of 64 slots (R74), in canonical form. -/
def inputsOk (t : Table Sample) : Bool := Table.wf 0#16 t && t.all fun e => decide (e.1 < 512)

/-- The offset is of words 1 onward of a multi-word configuration entry (R130). -/
def isLaterWord (off : Nat) : Bool :=
  match regionOf off with
  | .lineConfig _ w => decide (w ≠ 0)
  | .positionConfig _ w => decide (w ≠ 0)
  | .bridgeConfig _ w => decide (w ≠ 0)
  | _ => false

/-- The offset lies in an OWNED or OVERLAY zone (R134). -/
def isProtected (off : Nat) : Bool :=
  match zoneKind (regionOf off) with
  | .owned => true
  | .overlay => true
  | _ => false

/-- The command is well formed. -/
def wellFormed : Instr → Bool
  | .coldStart _ => true
  | .recoverInput => true
  | .frameStart inputs => inputsOk inputs
  | .requestFetch => true
  | .nop => true
  | .select => true
  | .answer => true
  | .privacy => true
  | .forceRelease => true
  | .lineService => true
  | .signal => true
  | .circuitReset => true
  | .release => true
  | .hold => true
  | .retrieve => true
  | .join => true
  | .intercomCall => true
  | .intercomAnswer => true
  | .speakerSet => true
  | .speakerVolume => true
  | .ptt => true
  | .measureMode => true
  | .setAttention => true
  | .quiesce => true
  | .resume => true
  | .restart => true
  | .badCode => true
  | .restartDrainEnd => true
  | .startWord _ be => enablesSome be
  | .descriptorCheck => true
  | .loadEntryRead => true
  | .loadEnd => true
  | .lineCommit _ _ be => enablesSome be
  | .positionCommit _ _ be => enablesSome be
  | .bridgeCommit _ _ be => enablesSome be
  | .configWordWrite off _ be => enablesSome be && isLaterWord off
  | .appearanceWrite _ _ _ be => enablesSome be
  | .recorderConfigWrite _ _ be => enablesSome be
  | .reqTail _ be => enablesSome be
  | .evtRead _ be => enablesSome be
  | .fltRead _ be => enablesSome be
  | .protectedWrite off _ be => enablesSome be && isProtected off
  | .memoryWrite _ _ be => enablesSome be
  | .frameCountHighRead be => enablesSome be
  | .frameCountLowRead be => enablesSome be
  | .summaryRead be => enablesSome be
  | .fltHeadRead be => enablesSome be
  | .lostCountRead be => enablesSome be
  | .shortageRead be => enablesSome be
  | .pwqEntryWrite => true
  | .measurementUpdateStart => true
  | .measurementReadDone => true
  | .seizeAck _ => true
  | .ringDetect _ => true
  | .farAnswer _ => true
  | .farClear _ => true
  | .circuitDown _ => true
  | .circuitUp _ => true
  | .resetDone _ => true
  | .seize => true
  | .ringOn => true
  | .ringOff => true
  | .releaseMessage => true
  | .reset => true
  | .cadenceOn _ => true
  | .cadenceOff _ => true
  | .burst _ => true
  | .ackWait _ => true
  | .noAnswer _ => true
  | .ringIn _ => true
  | .guard _ => true
  | .intercomTimer _ => true

end Sys2Proof
end

