-- ==== Sys2Proof/Certificates/Slice0/Obligations.lean ====
section
/-!
DEFINITION. The statements for the provers. What the claims mean by their words is defined in Safety.lean.
-/

open Sys2Proof Sys2Proof.Machine

/-! ## The queue of commands -/

/-- A step with a command at the front of the queue is the command's effect on the state with the queue's rest. The queue is the model's
(log 3, log 30); 95_what_each_step_holds.md says that a command is one step. -/
def Obligations.StepRunsFrontCommand : Prop :=
  ∀ (c : Instr) (rest : List Instr) (s : State), step { s with pending := c :: rest } = exec c { s with pending := rest }

/-! ## Invariants of every step -/

/-- The SRAM keeps its canonical form (the model's own form; log 1), and the posted write queue and the arbiter keep their discipline (R137,
R138). -/
def Obligations.StepKeepsMemoryAndQueue : Prop :=
  (∀ s t : State, MemoryOk s → step s = .next t → MemoryOk t) ∧ ∀ s t : State, QueueOk s.bi → step s = .next t → QueueOk t.bi

/-- Ring indices, fault indices and saturating counts stay in their ranges, and the fault log never holds more than 16 unread records (R132,
R143, R154, R155, R163, R165, R167, R177). Every line's appearance list stays in position order, without duplicates (R13). -/
def Obligations.StepKeepsIndicesAndFaultLog : Prop :=
  (∀ s t : State, IndexOk s → step s = .next t → IndexOk t) ∧ (∀ s t : State, FaultLogOk s → step s = .next t → FaultLogOk t) ∧
  ∀ s t : State, AppearancesOk s → step s = .next t → AppearancesOk t

/-- The attention output is asserted exactly while a set flag is enabled by the mask (R159). -/
def Obligations.StepKeepsAttentionOutput : Prop := ∀ s t : State, AttentionOk s → step s = .next t → AttentionOk t

/-- The free list holds each FREE channel once and no other, the channel that a port holds is assigned to it, the wait queue holds no port
twice, and the wait queue is empty or the free list is: while a port waits, no enabled channel is free (R100, R101, R107). -/
def Obligations.StepKeepsRecordingAllocation : Prop :=
  ∀ s t : State, RecordingOk s → step s = .next t → RecordingOk t ∧ (t.ra.waitQueue ≠ [] → ∀ ch, (t.channel ch).state ≠ .free)

/-- Wherever a load has written them, and outside a restart drain, the words of Line Status, Position Status and Recorder Status, as a
processor read finds them, show the part's state (R6, R29, R65, R98, R137, R175). That they show 0 in the bits of a vacant place, and index
0 for a source NONE, is the model's choice (log 51) and reading (log 18). -/
def Obligations.StepKeepsStatusMirrors : Prop := ∀ s t : State, MirrorsOk s → step s = .next t → MirrorsOk t

/-- Every invariant holds right after reset. -/
def Obligations.ResetMeetsInvariants : Prop :=
  MemoryOk State.reset ∧ QueueOk State.reset.bi ∧ IndexOk State.reset ∧ FaultLogOk State.reset ∧ AttentionOk State.reset ∧
  RecordingOk State.reset ∧ MirrorsOk State.reset ∧ AppearancesOk State.reset

/-! ## Start-up, restart, frames -/

/-- COLD_START gives every piece of the part its cold-start value, the straps as the base, and leaves the SRAM (R170, R125). -/
def Obligations.ColdStartResetsEverything : Prop :=
  ∀ (straps : Fin 16) (s : State), s.bi.held = [] →
    exec (.coldStart straps) s = .next
      { State.reset with pending := s.pending, mem := s.mem, bi := { State.reset.bi with base := straps } }

/-- A restart tears every call down and begins the drain: RESTART in RUNNING or QUIESCED, RECOVER_INPUT in LOCKDOWN (R177, R181). -/
def Obligations.RestartTearsDown : Prop :=
  (∀ s : State, s.su.part = .lockdown → s.su.draining = false → s.bi.held = [] →
    ∃ t, exec .recoverInput s = .next t ∧ TornDown s t) ∧
  (∀ (s : State) (ws : List Word) (k : Nat), Ready s 0x72 ws k → ∃ t, exec .restart s = .next t ∧ TornDown s t)

/-- A FRAME_START counts one frame. In RUNNING, QUIESCED and LOCKDOWN every output is the snapshot's, or 0 in a restart drain; at a
selection frame each enabled bridge selects the members of highest rank, at most its talker limit of them, in rank order; and every member
in service takes its next energy. Circuit sends, earpieces, speaker mixes with their dimming and pages, and recorder feeds are spelled out.
Elsewhere every output is 0 (R74 to R76, R79 to R85, R89 to R91, R136, R177; log 5, log 19). -/
def Obligations.FrameStartMixesOneFrame : Prop :=
  ∀ (inputs : Table Sample) (s : State), s.bi.held = [] →
    ∃ t, exec (.frameStart inputs) s = .next t ∧ t.frame = s.frame + 1#48 ∧ t.mx.speakers = s.mx.speakers ∧
      Leaves s t [.frame, .mx, .meter] ∧
      (mixerRuns s = false → t.mx.out = [] ∧ t.mx.snapshot = s.mx.snapshot ∧ t.mx.bridges = s.mx.bridges) ∧
      (mixerRuns s = true →
        (∀ b, (t.bridge b).applied = (s.bridge b).applied ∧ (t.bridge b).configRejected = (s.bridge b).configRejected) ∧
        (∀ b, (s.bridge b).applied.enabled = true → (s.frame + 1#48).toNat % 80 = 0 →
          (∀ i ∈ (t.bridge b).selected, isCandidate (s.bridge b) i) ∧
          (t.bridge b).selected.length ≤ (s.bridge b).applied.k ∧
          (t.bridge b).selected.Pairwise (outranks (s.bridge b)) ∧
          (∀ i, isCandidate (s.bridge b) i → i ∉ (t.bridge b).selected →
            (t.bridge b).selected.length = (s.bridge b).applied.k ∧ ∀ j ∈ (t.bridge b).selected, outranks (s.bridge b) j i)) ∧
        (∀ b, ¬((s.bridge b).applied.enabled = true ∧ (s.frame + 1#48).toNat % 80 = 0) → (t.bridge b).selected = (s.bridge b).selected) ∧
        ∃ v, t.mx.snapshot = some v ∧ v = { takeSnapshot s with bridges := v.bridges } ∧
          (∀ b, (v.bridge b).applied = (s.bridge b).applied ∧ (v.bridge b).selected = (t.bridge b).selected) ∧
          ((s.frame + 1#48).toNat % 80 ≠ 0 → v = takeSnapshot s) ∧
          (∀ i < 512, Table.get 0#16 t.mx.out i = if s.su.draining = true then 0#16 else outputAt v inputs i) ∧
          (∀ b i, Table.get 0 (t.bridge b).energy i =
            match inService (s.bridge b).applied i with
            | some m =>
              Table.get 0 (s.bridge b).energy i - Table.get 0 (s.bridge b).energy i / 32 + min (memberSample v inputs b m.who).natAbs 32767 / 32
            | none => 0) ∧
          (∀ b i, (v.bridge b).selected.Nodup → i ∈ (v.bridge b).selected →
            memberMix v inputs b i = saturate (((v.bridge b).selected.filter (· ≠ i)).map (contribution v inputs b)).sum) ∧
          (∀ b, bridgeOutput v inputs b = saturate ((t.bridge b).selected.map (contribution v inputs b)).sum) ∧
          (∀ b i, i ∉ (t.bridge b).selected → memberMix v inputs b i = bridgeOutput v inputs b) ∧
          (∀ b i m, inService (s.bridge b).applied i = some m →
            contribution v inputs b i = (memberSample v inputs b m.who * gainFactor m.gain + 2048) / 4096) ∧
          (∀ p i, match (Table.get ChanRun.cold (s.speaker p).channels i).source with
            | .none => channelAudio v inputs p i = 0
            | .line n => channelAudio v inputs p i = lineAudio v inputs n
            | .bridge b =>
              ((s.bridge b).applied.enabled = false → channelAudio v inputs p i = 0) ∧
              (∀ m, (s.bridge b).applied.enabled = true → (s.speaker p).ptt = some i → serviceIndex (s.bridge b).applied (.ptt p) = some m →
                channelAudio v inputs p i = memberMix v inputs b m) ∧
              ((s.bridge b).applied.enabled = true →
                (s.speaker p).ptt ≠ some i ∨ serviceIndex (s.bridge b).applied (.ptt p) = none →
                channelAudio v inputs p i = bridgeOutput v inputs b)) ∧
          (s.su.draining = false →
            (∀ c < 256, (s.circuit c).state ≠ .inUse → Table.get 0#16 t.mx.out c = 0#16) ∧
            (∀ c < 256, ∀ n, (s.circuit c).state = .inUse → (s.circuit c).owner = some n →
              Table.get 0#16 t.mx.out c = toSample (saturate (
                (((s.line n).participants.filter fun e => decide (e.mode = .active)).map fun e =>
                  (Table.get 0#16 inputs (256 + 2 * e.party.pos + e.party.hs)).toInt).sum +
                ((joinedLines v n).map (lineAudio v inputs)).sum +
                ((pttTalkers v n).map fun p => (Table.get 0#16 inputs (320 + p)).toInt).sum +
                match lineMember v n with
                | some (b, i) => memberMix v inputs b i
                | none => 0))) ∧
            (∀ n, lineMember v n = none → lineAudio v inputs n =
              match (s.line n).active with
              | some c => if (s.circuit c).state = .inUse ∧ (s.line n).pathSwitching = false then (Table.get 0#16 inputs c).toInt else 0
              | none => 0) ∧
            (∀ p : Party, p.pos < 32 → p.hs < 2 → (s.handset p).current = [] → Table.get 0#16 t.mx.out (256 + p.place) = 0#16) ∧
            (∀ (p : Party) (ns : List Nat), p.pos < 32 → p.hs < 2 → ns ≠ [] → (s.handset p).current = ns.map .line →
              ∃ others : List Party, others.Nodup ∧
                (∀ q, q ∈ others ↔ q ≠ p ∧ ∃ n ∈ ns, { party := q, mode := .active } ∈ (s.line n).participants) ∧
                Table.get 0#16 t.mx.out (256 + p.place) = toSample (saturate ((ns.map (lineAudio v inputs)).sum +
                  (others.map fun q => (Table.get 0#16 inputs (256 + 2 * q.pos + q.hs)).toInt).sum))) ∧
            (∀ (p : Nat) (mix : Mix) (sum pages : Int), p < 32 →
              sum = ((List.range 8).map fun i =>
                if (Table.get ChanRun.cold (s.speaker p).channels i).mix = mix then
                  (channelAudio v inputs p i * gainFactor (Table.get ChanRun.cold (s.speaker p).channels i).volume + 2048) / 4096
                else 0).sum →
              pages = ((List.range 16).map fun c =>
                match (s.call c).caller with
                | some q =>
                  if (s.call c).state = .paging ∧ (s.position p).reach.getLsbD c = true then
                    ((Table.get 0#16 inputs (256 + 2 * q.pos + q.hs)).toInt * gainFactor (s.position p).applied.pageVolume + 2048) / 4096
                  else 0
                | none => 0).sum →
              Table.get 0#16 t.mx.out (320 + 2 * p + (if mix = .a then 0 else 1)) = toSample (saturate (
                (if (s.position p).dim = true then (sum * gainFactor (s.position p).applied.dimCode + 2048) / 4096 else sum) +
                (if mix = .a then pages else 0)))) ∧
            (∀ (p q : Party) (c : Nat), p.pos < 32 → p.hs < 2 → (s.handset p).current = [.intercom c] → (s.call c).state = .talking →
              (s.call c).caller = some p → (s.call c).answerer = some q →
              Table.get 0#16 t.mx.out (256 + p.place) = Table.get 0#16 inputs (256 + 2 * q.pos + q.hs)) ∧
            (∀ r < 128, ∀ q < 128, (s.channel r).state = .assigned q →
              Table.get 0#16 t.mx.out (384 + r) =
                if q % 4 < 2 then
                  toSample (saturate ((Table.get 0#16 inputs (256 + 2 * (q / 4) + q % 4)).toInt +
                    (Table.get 0#16 t.mx.out (256 + 2 * (q / 4) + q % 4)).toInt))
                else Table.get 0#16 t.mx.out (320 + 2 * (q / 4) + (q % 4 - 2)))))

/-- A start word that begins a load in WAITING, and the end of a restart drain, put the part in LOADING (R133, R171, R177). -/
def Obligations.LoadingIsEntered : Prop :=
  (∀ (data : Word) (be : ByteEnables) (s : State), s.su.part = .waiting → startsLoad (mergeBytes s.bi.startCopy data be) = true →
    Taken s 0 be →
    ∃ t, exec (.startWord data be) s = .next t ∧ EntersLoading s t ∧ t.bi.startCopy = mergeBytes s.bi.startCopy data be ∧
      Wrote s t 0 data be ∧ Leaves s t [.sram, .words, .bus, .take, .events, .alarms, .mx, .su]) ∧
  (∀ s : State, s.su.draining = true → drained s = true → s.bi.held = [] →
    ∃ t, exec .restartDrainEnd s = .next t ∧ EntersLoading s t ∧ Leaves s t [.bus, .take, .events, .alarms, .mx, .su])

/-- A descriptor whose words have been read and that passes every check is adopted and every index is 0; no call is left, the recording
state is discarded, circuits in IDLE are UNINSTALLED, and the applied entries that the load will read are kept till then, the others null.
One that fails a check raises CONFIG_LOAD for its first failing field, and the part is in WAITING with the mask FAULT alone (R52, R66, R112,
R115, R159, R165, R172 to R174, R178). What is kept of the applied entries, and which written copies are kept (those of single words) while
the others become 0, is the model's reading (log 24, log 25). -/
def Obligations.DescriptorIsChecked : Prop :=
  ∀ (s : State) (ws : List Word), s.su.load = some .descriptor → waits s .load = false → s.bi.held = [] →
    ws = (List.range 64).map (partRead s) →
    (descriptorFailure ws = none →
      ∃ t, exec .descriptorCheck s = .next t ∧
        t.su = { s.su with
          lineCount := field (wordOf ws 1) 15 0, positionCount := field (wordOf ws 2) 15 0, bridgeCount := field (wordOf ws 3) 15 0
          recorderCount := field (wordOf ws 4) 15 0, ringTimeout := max 10 (min 255 (field (wordOf ws 5) 15 0))
          load := some (.entries (.line 0)), wordsRead := 0 } ∧
        t.um.enable = bitAt (wordOf ws 7) 0 ∧ t.um.format = field (wordOf ws 7) 15 8 ∧ t.um.contexts = [] ∧ t.um.updates = [] ∧
        t.re = { head := 0, tail := 0, take := .idle } ∧
        t.eu = { s.eu with
          mask := BitVec.ofNat 5 (field (wordOf ws 6) 4 0), evtHead := 0, evtRead := 0, lost := 0, overflow := s.eu.overflow.cleared
          recorder := s.eu.recorder.cleared, attention := t.eu.attention } ∧
        (∀ n, t.line n = if n < t.su.lineCount then
          { LineRec.cold with applied := (s.line n).applied, configRejected := (s.line n).configRejected } else LineRec.cold) ∧
        (∀ p, t.position p = if p < t.su.positionCount then
          { PosRec.cold with applied := (s.position p).applied, configRejected := (s.position p).configRejected } else PosRec.cold) ∧
        (∀ b, t.bridge b = if b < t.su.bridgeCount then
          { BridgeRec.cold with applied := (s.bridge b).applied, configRejected := (s.bridge b).configRejected } else BridgeRec.cold) ∧
        (∀ k, t.key k = if k < 128 * t.su.positionCount then s.key k else .empty) ∧
        (∀ n, t.appEntries n = (s.appEntries n).filter fun e => decide (e.pos < t.su.positionCount)) ∧ t.lc.alerts = [] ∧
        t.hc.handsets = [] ∧ t.hc.calls = [] ∧ t.ra = { channels := [], ports := [], freeList := [], waitQueue := [], order := [] } ∧
        t.mx.speakers = [] ∧ (t.mx.snapshot, t.mx.out) = (s.mx.snapshot, s.mx.out) ∧ t.cc.paths = [] ∧
        (∀ c, t.circuit c = if (s.circuit c).state = .idle then { s.circuit c with state := .uninstalled } else s.circuit c) ∧
        latestWord t 0x100 = 0#32 ∧ latestWord t 0x101 = 0#32 ∧ (s.su.restartMark = false → latestWord t 0x102 = 0#32) ∧
        t.bi.startCopy = wordOf ws 0 ∧ (∀ o, copyAt t o = if isSingleWord o = true then copyAt s o else 0#32) ∧
        (t.bi.base, t.bi.latch, t.bi.held, t.bi.readData) = (s.bi.base, s.bi.latch, s.bi.held, s.bi.readData) ∧
        Leaves s t [.words, .bus, .ring, .take, .events, .alarms, .lc, .cc, .hc, .mx, .ra, .um, .meter, .su]) ∧
    (∀ subject table, descriptorFailure ws = some (subject, table) → s.su.part = .loading → s.eu.unreadFaults < 15 → s.eu.unread ≤ 254 →
      s.eu.evtHead < 256 →
      ∃ t, exec .descriptorCheck s = .next t ∧ t.su = { s.su with part := .waiting, load := none } ∧ t.eu.mask = 0b00100#5 ∧
        Logged s t { code := .configLoad, ext := false, table := table, subject := subject } false ∧ t.bi.startCopy = wordOf ws 0 ∧
        (t.bi.base, t.bi.copies, t.bi.latch, t.bi.held, t.bi.readData) = (s.bi.base, s.bi.copies, s.bi.latch, s.bi.held, s.bi.readData) ∧
        Leaves s t [.bus, .events, .alarms, .su])

/-- A load reads an entry's words into the written copy and goes on to the next entry. A valid line, position or bridge entry is applied, an
invalid one leaves the null entry with CONFIG_REJECTED and a counted CONFIG_REJECT; the circuits that a line entry names, or names no more,
follow; a key takes its word's value; a recorder entry is only read; the tables are read in the order lines, positions, keys, bridges,
recorders, each to its count (R2, R12, R28, R62, R87, R111, R112, R129, R131, R174). What the null entry holds, for a bridge K 1, T 0 and H 0,
is the model's reading (log 35). -/
def Obligations.LoadReadsEntries : Prop :=
  (∀ (su : SU) (i : Nat),
    nextItem su (.line i) = (if i + 1 < su.lineCount then some (.line (i + 1)) else some (.position 0)) ∧
    nextItem su (.position i) = (if i + 1 < su.positionCount then some (.position (i + 1)) else some (.key 0)) ∧
    nextItem su (.key i) =
      (if i + 1 < 128 * su.positionCount then some (.key (i + 1)) else if su.bridgeCount ≠ 0 then some (.bridge 0)
       else if su.recorderCount ≠ 0 then some (.recorder 0) else none) ∧
    nextItem su (.bridge i) =
      (if i + 1 < su.bridgeCount then some (.bridge (i + 1)) else if su.recorderCount ≠ 0 then some (.recorder 0) else none) ∧
    nextItem su (.recorder i) = (if i + 1 < su.recorderCount then some (.recorder (i + 1)) else none)) ∧
  ∀ (s : State) (ws : List Word) (next : LoadItem), s.bi.held = [] → waits s .load = false →
    (∀ n, s.su.load = some (.entries (.line n)) → nextItem s.su (.line n) = some next →
      ws = ((List.range 16).map fun i => partRead s (lineConfigOffset n + i)) →
      (∀ cfg, parseLine s.su.lineCount n ws = some cfg →
        ∃ t, exec .loadEntryRead s = .next t ∧ t.line n = { s.line n with applied := cfg, configRejected := false } ∧
          (∀ m, m ≠ n → t.line m = s.line m) ∧ t.su = { s.su with load := some (.entries next), wordsRead := 0 } ∧
          (∀ c, t.circuit c =
            if (c ∈ (s.line n).applied.call.path ∧ (s.circuit c).state = .idle) ∨
                (c ∈ cfg.call.path ∧ ((s.circuit c).state = .idle ∨ (s.circuit c).state = .uninstalled)) then
              { s.circuit c with state := if isNamed t c then .idle else .uninstalled }
            else s.circuit c) ∧
          t.cc.paths = s.cc.paths ∧ EntryRead s t (lineConfigOffset n) ws ∧ Leaves s t [.bus, .lc, .cc, .su]) ∧
      (parseLine s.su.lineCount n ws = none → s.su.part = .loading → s.eu.unread ≤ 254 → s.eu.evtHead < 256 →
        ∃ t, exec .loadEntryRead s = .next t ∧ t.line n = { s.line n with applied := .null, configRejected := true } ∧
          (∀ m, m ≠ n → t.line m = s.line m) ∧
          t.su = { s.su with load := some (.entries next), wordsRead := 0, rejects := s.su.rejects + 1 } ∧
          (∀ c, t.circuit c =
            if c ∈ (s.line n).applied.call.path ∧ (s.circuit c).state = .idle then
              { s.circuit c with state := if isNamed t c then .idle else .uninstalled }
            else s.circuit c) ∧
          t.cc.paths = s.cc.paths ∧ EntryRead s t (lineConfigOffset n) ws ∧ EventAt t s.eu.evtHead (.configReject (.line n)) s.frame ∧
          Leaves s t [.bus, .events, .lc, .cc, .su])) ∧
    (∀ p, s.su.load = some (.entries (.position p)) → nextItem s.su (.position p) = some next →
      ws = ((List.range 64).map fun i => partRead s (positionConfigOffset p + i)) →
      (∀ cfg, parsePosition s.su.positionCount s.su.lineCount s.su.bridgeCount p ws = some cfg →
        ∃ t, exec .loadEntryRead s = .next t ∧ t.position p = { s.position p with applied := cfg, configRejected := false } ∧
          (∀ q, q ≠ p → t.position q = s.position q) ∧ (t.hc.handsets, t.hc.calls) = (s.hc.handsets, s.hc.calls) ∧
          t.su = { s.su with load := some (.entries next), wordsRead := 0 } ∧ EntryRead s t (positionConfigOffset p) ws ∧
          Leaves s t [.bus, .hc, .su]) ∧
      (parsePosition s.su.positionCount s.su.lineCount s.su.bridgeCount p ws = none → s.su.part = .loading → s.eu.unread ≤ 254 →
        s.eu.evtHead < 256 →
        ∃ t, exec .loadEntryRead s = .next t ∧ t.position p = { s.position p with applied := .cold, configRejected := true } ∧
          (∀ q, q ≠ p → t.position q = s.position q) ∧ (t.hc.handsets, t.hc.calls) = (s.hc.handsets, s.hc.calls) ∧
          t.su = { s.su with load := some (.entries next), wordsRead := 0, rejects := s.su.rejects + 1 } ∧
          EntryRead s t (positionConfigOffset p) ws ∧ EventAt t s.eu.evtHead (.configReject (.position p)) s.frame ∧
          Leaves s t [.bus, .events, .hc, .su])) ∧
    (∀ k v rejected, s.su.load = some (.entries (.key k)) → nextItem s.su (.key k) = some next → s.su.part = .loading →
      s.eu.unread ≤ 254 → s.eu.evtHead < 256 → ws = [partRead s (appearanceOffset k)] →
      parseKey s.su.positionCount s.su.lineCount (k / 128) (wordOf ws 0) = (v, rejected) →
      ∃ t, exec .loadEntryRead s = .next t ∧ t.key k = v ∧ (∀ j, j ≠ k → t.key j = s.key j) ∧ t.lc.lines = s.lc.lines ∧
        t.su = { s.su with
          load := some (.entries next), wordsRead := 0, rejects := s.su.rejects + if rejected = true then 1 else 0 } ∧
        EntryRead s t (appearanceOffset k) ws ∧
        (rejected = true → EventAt t s.eu.evtHead (.configReject (.key (k / 128) (k % 128))) s.frame) ∧
        (rejected = false → t.eu.evtHead = s.eu.evtHead) ∧ Leaves s t [.bus, .events, .lc, .su]) ∧
    (∀ b, s.su.load = some (.entries (.bridge b)) → nextItem s.su (.bridge b) = some next →
      ws = ((List.range 64).map fun i => partRead s (bridgeConfigOffset b + i)) →
      (∀ cfg, validBridge (loadedBridges s b) b ws = some cfg →
        ∃ t, exec .loadEntryRead s = .next t ∧ t.bridge b = { BridgeRec.cold with applied := cfg } ∧
          (∀ c, c ≠ b → t.bridge c = s.bridge c) ∧
          (t.mx.speakers, t.mx.snapshot, t.mx.out) = (s.mx.speakers, s.mx.snapshot, s.mx.out) ∧
          t.su = { s.su with load := some (.entries next), wordsRead := 0 } ∧ EntryRead s t (bridgeConfigOffset b) ws ∧
          Leaves s t [.bus, .mx, .su]) ∧
      (validBridge (loadedBridges s b) b ws = none → s.su.part = .loading → s.eu.unread ≤ 254 → s.eu.evtHead < 256 →
        ∃ t, exec .loadEntryRead s = .next t ∧ t.bridge b = { BridgeRec.cold with configRejected := true } ∧
          (∀ c, c ≠ b → t.bridge c = s.bridge c) ∧
          (t.mx.speakers, t.mx.snapshot, t.mx.out) = (s.mx.speakers, s.mx.snapshot, s.mx.out) ∧
          t.su = { s.su with load := some (.entries next), wordsRead := 0, rejects := s.su.rejects + 1 } ∧
          EntryRead s t (bridgeConfigOffset b) ws ∧ EventAt t s.eu.evtHead (.configReject (.bridge b)) s.frame ∧
          Leaves s t [.bus, .events, .mx, .su])) ∧
    (∀ r, s.su.load = some (.entries (.recorder r)) → nextItem s.su (.recorder r) = some next → ws = [partRead s (recorderConfigOffset r)] →
      ∃ t, exec .loadEntryRead s = .next t ∧ t.su = { s.su with load := some (.entries next), wordsRead := 0 } ∧
        EntryRead s t (recorderConfigOffset r) ws ∧ Leaves s t [.bus, .su])

/-- After its last entry a load sets the derived state: every line is IDLE or OUT_OF_SERVICE, its masks follow its path group, the speaker
channels of an enabled position take its fields, the enabled recorder channels go to the WANTED speaker ports in ascending order and what is
left over stands on the free list or waits, and every mirror shows the state (R5, R6, R29, R82, R111, R112, R175). `s` is the state in which
the last entry, of a recorder, a bridge or a key, has been read as LoadReadsEntries says. That the mirrors show 0 in the bits of a vacant
place, and index 0 for a source NONE, is the model's choice (log 51) and reading (log 18). -/
def Obligations.LoadDerivesState : Prop :=
  ∀ (s₀ s : State) (item : LoadItem), s₀.su.load = some (.entries item) → nextItem s₀.su item = none → s₀.su.recorderCount ≤ 128 →
    s₀.bi.held = [] → waits s₀ .load = false → s = loadItem s₀ item →
    ∃ t, exec .loadEntryRead s₀ = .next t ∧ t.su = { s.su with load := some .ending, wordsRead := 0 } ∧
      (∀ r, item = .recorder r → r < 128 → s.su = s₀.su ∧ EntryRead s₀ t (recorderConfigOffset r) [partRead s₀ (recorderConfigOffset r)]) ∧
      (∀ n < 256, t.line n = { LineRec.cold with
        applied := (s.line n).applied, configRejected := (s.line n).configRejected
        state := if n < s.su.lineCount ∧ (s.line n).applied.enabled = true then .idle else .outOfService .admin
        lastChange := s.su.startFrame }) ∧
      (∀ n < 256, ∀ i < 4, (t.path n).installed.getLsbD i = decide (i < (s.line n).applied.call.path.length) ∧
        (t.path n).operational.getLsbD i = decide (i < (s.line n).applied.call.path.length) ∧
        (∀ c, (s.line n).applied.call.path[i]? = some c →
          (t.path n).available.getLsbD i = decide ((s.circuit c).state ≠ .down ∧ (s.circuit c).state ≠ .resetting))) ∧
      (∀ p < 32, if p < s.su.positionCount ∧ (s.position p).applied.enabled = true then
          (t.speaker p).ptt = none ∧
          ∀ i, Table.get ChanRun.cold (t.speaker p).channels i = runtimeOf (Table.get ChanConfig.cold (s.position p).applied.channels i)
        else t.speaker p = s.speaker p) ∧
      (∀ enabled wanted : List Nat,
        enabled = ((List.range 128).filter fun ch => decide (ch < s.su.recorderCount) && bitAt (copyAt t (recorderConfigOffset ch)) 0) →
        wanted = (allSpeakerPorts.filter fun q => decide (portLevel t q = .wanted)) →
        (∀ k q : Nat, wanted[k]? = some q → t.port q = { level := .wanted, channel := enabled[k]?, unrecorded := false }) ∧
        (∀ q, q ∉ wanted → t.port q = PortRec.cold) ∧
        (∀ k ch : Nat, enabled[k]? = some ch → t.channel ch = { ChannelRec.cold with
          state := match wanted[k]? with
            | some q => .assigned q
            | none => .free
          relFrame := s.su.startFrame
          allocFrame := if k < wanted.length then s.su.startFrame else ChannelRec.cold.allocFrame }) ∧
        (∀ ch, ch ∉ enabled → t.channel ch = ChannelRec.cold) ∧
        t.ra.freeList = enabled.drop wanted.length ∧ t.ra.waitQueue = wanted.drop enabled.length) ∧
      (t.lc.keys, t.lc.appIndex, t.lc.alerts) = (s.lc.keys, s.lc.appIndex, s.lc.alerts) ∧ t.cc.circuits = s.cc.circuits ∧
      (t.mx.bridges, t.mx.snapshot, t.mx.out) = (s.mx.bridges, s.mx.snapshot, s.mx.out) ∧ MirrorsShow t ∧
      t.bi.loadLeft = t.bi.waiting.length ∧ Leaves s t [.lc, .cc, .mx, .ra, .su]

/-- The end of a load puts the part in RUNNING, clears the lockdown cause and reports the load: the LINE_STATE events of its NAILED lines in
ascending order, then LOAD_COMPLETE, the last event, unless the ring was full and events were dropped (R155, R167, R176). -/
def Obligations.LoadEndsInRunning : Prop :=
  ∀ s : State, s.su.load = some .ending → s.bi.loadLeft = 0 → s.bi.held = [] → s.eu.evtHead < 256 →
    ∃ t, exec .loadEnd s = .next t ∧ t.su = { s.su with part := .running, load := none } ∧ t.eu.cause = none ∧ t.eu.unlogged = 0 ∧
      (nailedLines s = [] → s.eu.unread ≤ 254 →
        t.eu.evtHead = (s.eu.evtHead + 1) % 256 ∧
        EventAt t s.eu.evtHead (.loadComplete s.su.restartMark s.su.rejects) s.frame ∧ Leaves s t [.events, .alarms, .su]) ∧
      (s.eu.evtRead < 256 → s.eu.lost < 65535 → t.eu.lost = s.eu.lost →
        EventAt t ((t.eu.evtHead + 255) % 256) (.loadComplete s.su.restartMark s.su.rejects) s.frame) ∧
      (s.eu.evtRead < 256 → s.eu.unread + (nailedLines s).length ≤ 254 → (∀ n ∈ nailedLines s, (s.line n).state = .idle) →
        t.eu.evtHead = (s.eu.evtHead + (nailedLines s).length + 1) % 256 ∧ t.eu.lost = s.eu.lost ∧
        (∀ k n : Nat, (nailedLines s)[k]? = some n →
          EventAt t ((s.eu.evtHead + k) % 256) (.lineState n .idle (t.line n).state .load) s.frame ∧
          ((t.line n).state = .calling ∨ (t.line n).state = .outOfService .noPath))) ∧
      Leaves s t [.events, .alarms, .lc, .cc, .link, .hc, .ra, .um, .meter, .su]

/-! ## Processor accesses -/

/-- A commit of a line entry merges its word; a valid entry is applied at once, an invalid one sets CONFIG_REJECTED with a CONFIG_REJECT.
Where the line is neither forced off nor seized by the commit, the circuits of the old and the new path group follow their naming, its masks
follow the new group unless it has a call copy, and a changed record level gives the ports on the line their new level. A changed enabled
field takes the line out of service from IDLE and from cause NO_PATH, into IDLE from cause ADMIN, forces a line in a call off with a pending
cause, and sets and clears the pending cause of one in CLEARING. A rejected commit writes the line's status, changed or not, before the event
(R2 to R4, R24, R28, R29, R99, R130; for the frame of a change of cause alone log 15; that all eight words are written log 9). -/
def Obligations.LineCommitApplies : Prop :=
  ∀ (n : Fin 256) (data : Word) (be : ByteEnables) (s : State) (ws : List Word), s.su.part.copying = true →
    Taken s (lineConfigOffset n) be → s.eu.evtHead < 256 →
    ws = writtenCopy (mergeCopy s (lineConfigOffset n) data be) (lineConfigOffset n) 16 →
    (∀ cfg base, parseLine s.su.lineCount n ws = some cfg → base = { s.line n with applied := cfg, configRejected := false } →
      ∃ t, exec (.lineCommit n data be) s = .next t ∧ (t.line n).applied = cfg ∧ (t.line n).configRejected = false ∧
        (∀ m, m ≠ n.val → (t.line m).applied = (s.line m).applied) ∧
        (cfg.enabled = (s.line n).applied.enabled → t.line n = base) ∧
        (cfg.enabled = (s.line n).applied.enabled ∨ (s.line n).state = .clearing ∨
            ((s.line n).state.inCall = false ∧ (s.line n).callCopy = none ∧ (cfg.enabled = false ∨ cfg.call.kind ≠ .nailed)) →
          (∀ m, m ≠ n.val → t.line m = s.line m) ∧
          (∀ c, t.circuit c =
            if (c ∈ (s.line n).applied.call.path ∨ c ∈ cfg.call.path) ∧ ((s.circuit c).state = .idle ∨
            (s.circuit c).state = .uninstalled) then
              { s.circuit c with state := if isNamed t c then .idle else .uninstalled }
            else s.circuit c) ∧
          (∀ m, m ≠ n.val → t.path m = s.path m) ∧ (t.path n).lastUsed = (s.path n).lastUsed ∧
          ((s.line n).callCopy ≠ none → t.path n = s.path n) ∧
          ((s.line n).callCopy = none → ∀ i < 4,
            (t.path n).installed.getLsbD i = decide (i < cfg.call.path.length) ∧
            (t.path n).available.getLsbD i = (match cfg.call.path[i]? with
              | some c => decide ((s.circuit c).state ≠ .down ∧ (s.circuit c).state ≠ .resetting)
              | none => false) ∧
            (t.path n).operational.getLsbD i = (match cfg.call.path[i]? with
              | some c => if (s.line n).applied.call.path[i]? = some c then (s.path n).operational.getLsbD i else true
              | none => false)) ∧
          (if cfg.recordLevel = (s.line n).applied.recordLevel then t.ra = s.ra
           else ∀ q ∈ portsHolding s n, (t.port q).level = portLevel t q)) ∧
        ((s.line n).applied.enabled = true → cfg.enabled = false →
          ((s.line n).state = .outOfService .admin → t.line n = base) ∧
          ((s.line n).state = .idle ∨ (s.line n).state = .outOfService .noPath →
            t.line n = { base with state := .outOfService .admin, lastChange := s.frame, setter := none, callCopy := none } ∧
            (cfg.recordLevel = (s.line n).applied.recordLevel → s.eu.unread ≤ 254 →
              EventAt t s.eu.evtHead (.lineState n (s.line n).state (.outOfService .admin) .request) s.frame)) ∧
          ((s.line n).state.inCall = true →
            t.line n = { clearingAfter base (s.frame + 8000#48) s.frame with pendingAdmin := true } ∧ ForcedOff s t n)) ∧
        ((s.line n).state = .outOfService .admin → (s.line n).callCopy = none → (s.line n).applied.enabled = false →
          cfg.enabled = true → cfg.call.kind ≠ .nailed →
          t.line n = { base with state := .idle, lastChange := s.frame, setter := none } ∧
          (cfg.recordLevel = (s.line n).applied.recordLevel → s.eu.unread ≤ 254 →
            EventAt t s.eu.evtHead (.lineState n (.outOfService .admin) .idle .request) s.frame)) ∧
        ((s.line n).state = .clearing → cfg.enabled ≠ (s.line n).applied.enabled →
          t.line n = { base with pendingAdmin := decide (cfg.enabled = false) }) ∧
        Wrote s t (lineConfigOffset n) data be ∧ Copied s t (lineConfigOffset n) data be ∧
        Leaves s t [.sram, .words, .bus, .events, .alarms, .lc, .cc, .link, .hc, .ra, .um, .meter]) ∧
    (parseLine s.su.lineCount n ws = none → s.eu.unread ≤ 254 →
      ∃ t, exec (.lineCommit n data be) s = .next t ∧ t.line n = { s.line n with configRejected := true } ∧
        (∀ m, m ≠ n.val → t.line m = s.line m) ∧ EventAt t s.eu.evtHead (.configReject (.line n)) s.frame ∧
        StatusWrittenFirst s t (lineStatusOffset n) (lineStatusWords s n) (lineStatusWords t n) (.configReject (.line n)) ∧
        Wrote s t (lineConfigOffset n) data be ∧ Copied s t (lineConfigOffset n) data be ∧ Leaves s t [.sram, .words, .bus, .events, .lc])

/-- A commit of a position entry: a valid entry is applied at once; a position that becomes enabled takes its channels' fields as their
runtime state and its alert list from the rings, the earliest first; one that is disabled loses its alerts, its lines and calls, its sources
and its PTT; one that stays enabled drops the lines and calls of a handset that leaves its mask and replaces the channels of which a field
changes, PTT on them going off; a line that loses its last participant so is released; an invalid entry is rejected, the position's status
written, changed or not, before the event (R7, R16 to R18, R62 to R64, R96, R130; that all 64 words are written log 9). That the record of a
call so ended is empty in every field is the model's reading (log 38), and the order among rings by their age its choice (log 17). -/
def Obligations.PositionCommitApplies : Prop :=
  ∀ (p : Fin 32) (data : Word) (be : ByteEnables) (s : State) (ws : List Word), s.su.part.copying = true →
    Taken s (positionConfigOffset p) be → s.eu.evtHead < 256 →
    ws = writtenCopy (mergeCopy s (positionConfigOffset p) data be) (positionConfigOffset p) 64 →
    (∀ cfg, parsePosition s.su.positionCount s.su.lineCount s.su.bridgeCount p ws = some cfg →
      ∃ t, exec (.positionCommit p data be) s = .next t ∧ (t.position p).applied = cfg ∧ (t.position p).configRejected = false ∧
        (∀ q, q ≠ p.val → (t.position q).applied = (s.position q).applied) ∧
        ((s.position p).applied.enabled = false → cfg.enabled = true →
          (t.speaker p).ptt = none ∧
          (∀ i, Table.get ChanRun.cold (t.speaker p).channels i = runtimeOf (Table.get ChanConfig.cold cfg.channels i)) ∧
          (s.alertList p = [] → FilledAlerts t p) ∧ t.lc.lines = s.lc.lines) ∧
        (∀ q, q ≠ p.val → t.alertList q = s.alertList q) ∧
        ((s.position p).applied.enabled = true → cfg.enabled = false →
          (t.speaker p).ptt = none ∧ (∀ i, (Table.get ChanRun.cold (t.speaker p).channels i).source = .none) ∧ t.alertList p = [] ∧
          (∀ h < 2, (t.handset { pos := p, hs := h }).hold = [] ∧ ∀ n, CurEntry.line n ∉ (t.handset { pos := p, hs := h }).current) ∧
          HandsetsLeft s t [{ pos := p, hs := 0 }, { pos := p, hs := 1 }] ∧
          (∀ c < 16, (s.call c).state ≠ .free → concernsPosition p (s.call c) = true → t.call c = IcmRec.cold)) ∧
        ((s.position p).applied.enabled = true → cfg.enabled = true →
          (∀ h < 2, present (s.position p).applied h = true → present cfg h = false →
            (t.handset { pos := p, hs := h }).hold = [] ∧ (∀ n, CurEntry.line n ∉ (t.handset { pos := p, hs := h }).current) ∧
            ∀ c < 16, (s.call c).state ≠ .free → (s.call c).hasParty { pos := p, hs := h } = true → t.call c = IcmRec.cold) ∧
          HandsetsLeft s t (([0, 1].filter fun h => present (s.position p).applied h && !present cfg h).map fun h => { pos := p, hs := h }) ∧
          (∀ h < 2, ¬(present (s.position p).applied h = true ∧ present cfg h = false) →
            (∀ c, CurEntry.intercom c ∉ (s.handset { pos := p, hs := h }).current) →
            t.handset { pos := p, hs := h } = s.handset { pos := p, hs := h }) ∧
          (∀ i < 8, Table.get ChanRun.cold (t.speaker p).channels i =
            if Table.get ChanConfig.cold (s.position p).applied.channels i = Table.get ChanConfig.cold cfg.channels i then
              Table.get ChanRun.cold (s.speaker p).channels i
            else runtimeOf (Table.get ChanConfig.cold cfg.channels i)) ∧
          (t.speaker p).ptt = (s.speaker p).ptt.filter fun i =>
            decide (8 ≤ i ∨ Table.get ChanConfig.cold (s.position p).applied.channels i = Table.get ChanConfig.cold cfg.channels i)) ∧
        (∀ q, q ≠ p.val → t.speaker q = s.speaker q) ∧
        Wrote s t (positionConfigOffset p) data be ∧ Copied s t (positionConfigOffset p) data be ∧
        Leaves s t [.sram, .words, .bus, .events, .alarms, .lc, .cc, .link, .hc, .mx, .ra, .um, .meter]) ∧
    (parsePosition s.su.positionCount s.su.lineCount s.su.bridgeCount p ws = none → s.eu.unread ≤ 254 →
      ∃ t, exec (.positionCommit p data be) s = .next t ∧ t.position p = { s.position p with configRejected := true } ∧
        (∀ q, q ≠ p.val → t.position q = s.position q) ∧ EventAt t s.eu.evtHead (.configReject (.position p)) s.frame ∧
        StatusWrittenFirst s t (positionStatusOffset p) (positionStatusEntry s p) (positionStatusEntry t p) (.configReject (.position p)) ∧
        Wrote s t (positionConfigOffset p) data be ∧ Copied s t (positionConfigOffset p) data be ∧
        Leaves s t [.sram, .words, .bus, .events, .hc])

/-- A commit of a bridge entry: members that stay keep their energy and their place in the selected set, up to the new K, and no PTT
channel talks to a bridge that its position is no member of; an invalid entry is rejected, and the bridge's Live Window word shows the flag
(R87, R88, R92, R96, R130). -/
def Obligations.BridgeCommitApplies : Prop :=
  ∀ (b : Fin 24) (data : Word) (be : ByteEnables) (s : State) (ws : List Word), s.su.part.copying = true →
    Taken s (bridgeConfigOffset b) be → s.eu.evtHead < 256 →
    ws = writtenCopy (mergeCopy s (bridgeConfigOffset b) data be) (bridgeConfigOffset b) 64 →
    (∀ cfg, validBridge s b ws = some cfg →
      ∃ t, exec (.bridgeCommit b data be) s = .next t ∧ (t.bridge b).applied = cfg ∧ (t.bridge b).configRejected = false ∧
        (t.bridge b).selected = ((s.bridge b).selected.filter (keepsMember (s.bridge b).applied cfg)).take cfg.k ∧
        (∀ i < 16, Table.get 0 (t.bridge b).energy i =
          if keepsMember (s.bridge b).applied cfg i = true then Table.get 0 (s.bridge b).energy i else 0) ∧
        (∀ c, c ≠ b.val → t.bridge c = s.bridge c) ∧
        (∀ p, pttSource (t.speaker p) = .bridge b → serviceIndex cfg (.ptt p) ≠ none) ∧
        Wrote s t (bridgeConfigOffset b) data be ∧ Copied s t (bridgeConfigOffset b) data be ∧ Leaves s t [.sram, .words, .bus, .mx]) ∧
    (validBridge s b ws = none → s.eu.unread ≤ 254 →
      ∃ t, exec (.bridgeCommit b data be) s = .next t ∧ t.bridge b = { s.bridge b with configRejected := true } ∧
        (∀ c, c ≠ b.val → t.bridge c = s.bridge c) ∧ EventAt t s.eu.evtHead (.configReject (.bridge b)) s.frame ∧
        (liveWindowWord t (0x50 + b)).getLsbD 17 = true ∧
        writesOf t = writesOf s ++ writesAt (eventOffset s.eu.evtHead) ((Event.configReject (.bridge b)).words s.frame) ∧
        Wrote s t (bridgeConfigOffset b) data be ∧ Copied s t (bridgeConfigOffset b) data be ∧ Leaves s t [.sram, .words, .bus, .events, .mx])

/-- A write to words 1 onward of a multi-word entry merges into the part's copy and passes to the SRAM, and applies nothing (R126, R130). -/
def Obligations.ConfigWordWriteMergesOnly : Prop :=
  ∀ (off : Fin 65536) (data : Word) (be : ByteEnables) (s : State), s.su.part.copying = true → isLaterWord off = true →
    Taken s off be →
    ∃ t, exec (.configWordWrite off data be) s = .next t ∧
      (∀ o, copyAt t o = if o = off.val then mergeBytes (copyAt s off) data be else copyAt s o) ∧ Wrote s t off data be ∧
      Leaves s t [.sram, .words, .bus]

/-- A key write takes its merged word's value at once, or EMPTY with CONFIG_REJECT when it is out of range. A line that the key no longer
holds loses one from its entry for the position, which goes at zero; a line that it now holds gains one, in an entry in position order; the
AUDIBLE mark is that of the position's keys of the line. A ringing line's first AUDIBLE appearance puts it on the position's alert list at
its ring-start place; the loss of the last takes it off, and the list is backfilled by the earliest ring (R12 to R16, R131; for the order
among rings log 17). -/
def Obligations.KeyWriteApplies : Prop :=
  ∀ (p : Fin 32) (k : Fin 128) (data : Word) (be : ByteEnables) (s : State) (v : KeyVal) (rejected : Bool), s.su.part.copying = true →
    Taken s (appearanceOffset (128 * p + k)) be → s.eu.evtHead < 256 → s.eu.unread ≤ 254 →
    parseKey s.su.positionCount s.su.lineCount p (mergeBytes (copyAt s (appearanceOffset (128 * p + k))) data be) = (v, rejected) →
    ∃ t, exec (.appearanceWrite p k data be) s = .next t ∧ t.key (128 * p + k) = v ∧
      (∀ j, j ≠ 128 * p.val + k.val → t.key j = s.key j) ∧
      (rejected = true → EventAt t s.eu.evtHead (.configReject (.key p k)) s.frame) ∧
      (v = s.key (128 * p + k) → t.lc = s.lc) ∧
      (∀ n, (s.key (128 * p + k)).lineOf ≠ some n → v.lineOf ≠ some n → t.appEntries n = s.appEntries n) ∧
      (∀ n before after_, (s.key (128 * p + k)).lineOf ≠ some n → v.lineOf = some n → around p before after_ →
        (s.appEntries n = before ++ after_ →
          t.appEntries n = before ++ { pos := p, count := 1, audible := anyAudibleKey t n p } :: after_) ∧
        ∀ e, e.pos = p.val → s.appEntries n = before ++ e :: after_ →
          t.appEntries n = before ++ { e with count := e.count + 1, audible := anyAudibleKey t n p } :: after_) ∧
      (∀ n before after_ e, (s.key (128 * p + k)).lineOf = some n → around p before after_ → e.pos = p.val →
        s.appEntries n = before ++ e :: after_ →
        (v.lineOf ≠ some n → t.appEntries n = before ++
          (if e.count ≤ 1 then [] else [{ e with count := e.count - 1, audible := anyAudibleKey t n p }]) ++ after_) ∧
        (v.lineOf = some n → v ≠ s.key (128 * p + k) → 1 ≤ e.count →
          t.appEntries n = before ++ { e with audible := anyAudibleKey t n p } :: after_)) ∧
      (∀ q, q ≠ p.val → t.alertList q = s.alertList q) ∧
      ((∀ n, n ∈ (s.key (128 * p + k)).lineOf ∨ n ∈ v.lineOf → audibleAt t n p = audibleAt s n p) → t.alertList p = s.alertList p) ∧
      (∀ n, (∀ m, m ∈ (s.key (128 * p + k)).lineOf ∨ m ∈ v.lineOf → m = n ∨ audibleAt t m p = audibleAt s m p) →
        (audibleAt s n p = false → audibleAt t n p = true →
          if (s.line n).state = .ringingIn ∧ (s.position p).applied.enabled = true ∧ (s.alertList p).length < 8 ∧ n ∉ s.alertList p then
            insertedByRing s n (s.alertList p) (t.alertList p)
          else t.alertList p = s.alertList p) ∧
        (audibleAt s n p = true → audibleAt t n p = false →
          (n ∉ s.alertList p → t.alertList p = s.alertList p) ∧
          (n ∈ s.alertList p → (∀ x, ¬mayAlert s t p x) → t.alertList p = (s.alertList p).filter (· ≠ n)) ∧
          (∀ x, n ∈ s.alertList p → mayAlert s t p x → (∀ y, mayAlert s t p y → y ≠ x → ringsBefore s x y = true) →
            (s.position p).applied.enabled = true → (s.alertList p).length ≤ 8 →
            insertedByRing s x ((s.alertList p).filter (· ≠ n)) (t.alertList p)))) ∧
      t.lc.lines = s.lc.lines ∧ Wrote s t (appearanceOffset (128 * p + k)) data be ∧ Copied s t (appearanceOffset (128 * p + k)) data be ∧
      Leaves s t [.sram, .words, .bus, .events, .lc]

/-- Enabling a DISABLED recorder channel gives it to the head of the wait queue, ending its gap, or, with no port waiting, frees it at the
tail of the free list. Disabling a FREE one takes it off; disabling an ASSIGNED one takes it from its port, which is given a free channel, or
waits, or at level REQUIRED with no WANTED holder is UNRECORDED with REC_GAP and RECORDER (R97, R102, R104, R105, R108 to R110). That REC_GAP
names the line that joined the current set first before the other is the model's choice (log 53). -/
def Obligations.RecorderWriteEnablesChannel : Prop :=
  ∀ (ch : Fin 128) (data : Word) (be : ByteEnables) (s : State) (b : Bool), s.su.part.copying = true → Taken s (recorderConfigOffset ch) be →
    ch.val < s.su.recorderCount →
    bitAt (mergeBytes (copyAt s (recorderConfigOffset ch)) data be) 0 = b →
    ∃ t, exec (.recorderConfigWrite ch data be) s = .next t ∧
      Copied s t (recorderConfigOffset ch) data be ∧
      (b = true → (s.channel ch).state = .disabled → s.ra.waitQueue = [] →
        t.channel ch = { s.channel ch with state := .free, relFrame := s.frame, lastPort := none } ∧
        t.ra.freeList = s.ra.freeList ++ [ch.val] ∧ (∀ c, c ≠ ch.val → t.channel c = s.channel c) ∧ t.ra.ports = s.ra.ports ∧
        Wrote s t (recorderConfigOffset ch) data be ∧ Leaves s t [.sram, .words, .bus, .ra]) ∧
      (∀ q rest, b = true → (s.channel ch).state = .disabled → s.ra.waitQueue = q :: rest → s.ra.freeList = [] → q ∉ rest →
        (∀ p ∈ rest, (s.port p).level = .wanted) →
        s.eu.evtHead < 256 → s.eu.evtRead < 256 → s.eu.unread ≤ 253 →
        t.channel ch = { s.channel ch with state := .assigned q, relFrame := s.frame, allocFrame := s.frame, lastPort := none } ∧
        t.port q = { s.port q with channel := some ch.val, unrecorded := false } ∧ t.ra.waitQueue = rest ∧ t.ra.freeList = [] ∧
        EventAt t s.eu.evtHead (.recAlloc ch q none false s.frame) s.frame ∧
        ((s.port q).unrecorded = true → EventAt t ((s.eu.evtHead + 1) % 256) (.recRestored q (some ch.val)) s.frame) ∧
        (∀ c, c ≠ ch.val → t.channel c = s.channel c) ∧ (∀ p, p ≠ q → t.port p = s.port p) ∧
        Wrote s t (recorderConfigOffset ch) data be ∧ Leaves s t [.sram, .words, .bus, .events, .ra, .meter]) ∧
      (b = true → (s.channel ch).state ≠ .disabled → Wrote s t (recorderConfigOffset ch) data be ∧ Leaves s t [.sram, .words, .bus]) ∧
      (b = false → (s.channel ch).state = .disabled → Wrote s t (recorderConfigOffset ch) data be ∧ Leaves s t [.sram, .words, .bus]) ∧
      (b = false → (s.channel ch).state = .free →
        t.channel ch = { s.channel ch with state := .disabled } ∧ t.ra.freeList = s.ra.freeList.filter (· ≠ ch.val) ∧
        (∀ c, c ≠ ch.val → t.channel c = s.channel c) ∧ t.ra.ports = s.ra.ports ∧ Wrote s t (recorderConfigOffset ch) data be ∧
          Leaves s t [.sram, .words, .bus, .ra]) ∧
      (∀ q, b = false → (s.channel ch).state = .assigned q → portLevel s q = (s.port q).level → (s.port q).level ≠ .none →
        s.ra.waitQueue = [] →
        (∀ c rest, s.ra.freeList = c :: rest → c ≠ ch.val → (∀ x ∈ s.ra.freeList, x ≠ ch.val ∧ (s.channel x).lastPort ≠ some q) →
          s.eu.evtHead < 256 → s.eu.evtRead < 256 → s.eu.unread ≤ 253 →
          t.channel ch = { s.channel ch with state := .disabled, lastPort := some q } ∧
          t.channel c = { s.channel c with state := .assigned q, allocFrame := s.frame } ∧
          t.port q = { s.port q with channel := some c, unrecorded := false } ∧
          t.ra.freeList = rest ∧ t.ra.waitQueue = [] ∧ EventAt t s.eu.evtHead (.recAlloc c q none false s.frame) s.frame ∧
          (∀ x, x ≠ ch.val → x ≠ c → t.channel x = s.channel x) ∧ (∀ p, p ≠ q → t.port p = s.port p) ∧
          Wrote s t (recorderConfigOffset ch) data be ∧ Leaves s t [.sram, .words, .bus, .events, .ra, .meter]) ∧
        (s.ra.freeList = [] → (s.port q).level = .wanted →
          t.channel ch = { s.channel ch with state := .disabled, lastPort := some q } ∧ t.port q = { s.port q with channel := none } ∧
          t.ra.waitQueue = [q] ∧ t.ra.freeList = [] ∧ (∀ x, x ≠ ch.val → t.channel x = s.channel x) ∧
          (∀ p, p ≠ q → t.port p = s.port p) ∧ Wrote s t (recorderConfigOffset ch) data be ∧ Leaves s t [.sram, .words, .bus, .ra, .meter]) ∧
        (s.ra.freeList = [] → (s.port q).level = .required → (s.port q).unrecorded = false →
          (∀ x p, x ≠ ch.val → (s.channel x).state = .assigned p → (s.port p).level ≠ .wanted) →
          s.eu.evtHead < 256 → s.eu.evtRead < 256 → s.eu.unread ≤ 253 →
          t.channel ch = { s.channel ch with state := .disabled, lastPort := some q } ∧
          t.port q = { s.port q with channel := none, unrecorded := true } ∧ t.ra.waitQueue = [q] ∧ t.ra.freeList = [] ∧
          EventAt t s.eu.evtHead (.recGap q (requiredLines s q)[0]? (requiredLines s q)[1]?) s.frame ∧
          t.eu.recorder = s.eu.recorder.occur ∧ (∀ x, x ≠ ch.val → t.channel x = s.channel x) ∧ (∀ p, p ≠ q → t.port p = s.port p) ∧
          Wrote s t (recorderConfigOffset ch) data be ∧ Leaves s t [.sram, .words, .bus, .events, .alarms, .ra, .meter]))

/-- A write of REQ_TAIL, EVT_READ or FLT_READ passes to the SRAM. A merged value that is valid is the new index; one that is out of range
changes no index and raises INDEX_WRITE (R132, R144, R157, R163, R165). That the value is the whole word, so that a set upper bit puts it
out of range, is the model's choice (log 57). -/
def Obligations.IndexWritesAreHandedOnOrFault : Prop :=
  ∀ (data : Word) (be : ByteEnables) (s : State), s.su.part.copying = true →
    (Taken s 0x100 be → (mergeBytes (natWord s.re.tail) data be).toNat ≤ 63 →
      ∃ t, exec (.reqTail data be) s = .next t ∧ t.re.tail = (mergeBytes (natWord s.re.tail) data be).toNat ∧ t.re.head = s.re.head ∧
        Wrote s t 0x100 data be ∧ Leaves s t [.sram, .words, .ring]) ∧
    (Taken s 0x101 be → (mergeBytes (natWord s.eu.evtRead) data be).toNat ≤ 255 →
      ∃ t, exec (.evtRead data be) s = .next t ∧
        t.eu = { s.eu with evtRead := (mergeBytes (natWord s.eu.evtRead) data be).toNat, attention := t.eu.attention } ∧
        Wrote s t 0x101 data be ∧ Leaves s t [.sram, .words, .events]) ∧
    (Taken s 0x102 be → (mergeBytes (natWord s.eu.fltRead) data be).toNat ≤ 31 →
      (s.eu.fltHead + 32 - (mergeBytes (natWord s.eu.fltRead) data be).toNat) % 32 ≤ 16 →
      ∃ t, exec (.fltRead data be) s = .next t ∧
        t.eu = { s.eu with fltRead := (mergeBytes (natWord s.eu.fltRead) data be).toNat, attention := t.eu.attention } ∧
        Wrote s t 0x102 data be ∧ Leaves s t [.sram, .words, .alarms]) ∧
    (∀ (off : Nat) (i : Instr), s.su.part ≠ .lockdown → s.eu.unreadFaults < 15 → s.eu.unread ≤ 254 → s.eu.evtHead < 256 → Taken s off be →
      (off = 0x100 ∧ i = .reqTail data be ∧ 63 < (mergeBytes (natWord s.re.tail) data be).toNat) ∨
      (off = 0x101 ∧ i = .evtRead data be ∧ 255 < (mergeBytes (natWord s.eu.evtRead) data be).toNat) ∨
      (off = 0x102 ∧ i = .fltRead data be ∧ (31 < (mergeBytes (natWord s.eu.fltRead) data be).toNat ∨
        16 < (s.eu.fltHead + 32 - (mergeBytes (natWord s.eu.fltRead) data be).toNat) % 32)) →
      ∃ t, exec i s = .next t ∧ Logged s t { code := .indexWrite, ext := false, table := false, subject := off } false ∧
        (t.re.head, t.re.tail, t.eu.evtRead, t.eu.fltRead, t.eu.lost) = (s.re.head, s.re.tail, s.eu.evtRead, s.eu.fltRead, s.eu.lost) ∧
        Wrote s t off data be ∧ Leaves s t [.sram, .words, .events, .alarms])

/-- A write to an OWNED or OVERLAY word in RUNNING, QUIESCED or LOCKDOWN reaches neither SRAM nor part, and raises OWNED_WRITE, which is
logged, as a double record when it takes the last place; with 16 unread records it puts the part in LOCKDOWN; in LOCKDOWN it is counted. In
WAITING an OVERLAY write has no effect and an OWNED write passes to the SRAM, where it stands (R127, R134, R139, R165 to R167, R169). -/
def Obligations.ProtectedWriteIsRefused : Prop :=
  ∀ (off : Fin 65536) (data : Word) (be : ByteEnables) (s : State), isProtected off = true → Taken s off be →
    (s.su.part.serves = true → s.eu.unreadFaults ≤ 15 → s.eu.unread ≤ 254 → s.eu.evtHead < 256 →
      ∃ t, exec (.protectedWrite off data be) s = .next t ∧
        Logged s t { code := .ownedWrite, ext := false, table := false, subject := off } (decide (s.eu.unreadFaults = 15)) ∧
        Leaves s t [.events, .alarms]) ∧
    (s.su.part.serves = true → s.eu.unreadFaults = 16 → s.eu.unread ≤ 254 → s.eu.evtHead < 256 →
      ∃ t, exec (.protectedWrite off data be) s = .next t ∧ t.su = { s.su with part := .lockdown, load := none } ∧
        t.eu.cause = some .ownedWrite ∧ t.eu.unlogged = 1 ∧ t.eu.fltHead = s.eu.fltHead ∧ t.eu.fault = s.eu.fault ∧ t.re.take = .idle ∧
        EventAt t s.eu.evtHead (.partState .lockdown s.su.part .doubleFault) s.frame ∧ Leaves s t [.take, .events, .alarms, .su]) ∧
    (s.su.part = .lockdown →
      ∃ t, exec (.protectedWrite off data be) s = .next t ∧
        t.eu = { s.eu with unlogged := min (s.eu.unlogged + 1) 65535, attention := t.eu.attention } ∧ Leaves s t [.alarms]) ∧
    (s.su.part = .waiting →
      ∃ t, exec (.protectedWrite off data be) s = .next t ∧
        (if zoneKind (regionOf off) = .overlay then Leaves s t []
         else t.mem = writeWord s.mem (sramAddress s off) data be ∧
           latestWord t off = mergeBytes (wordAt s.mem (sramAddress s off)) data be ∧ Leaves s t [.sram]))

/-- A write to a word that is not copied, outside the aperture or in it, changes the enabled bytes of that word of the SRAM and nothing else
(R125, R126, R127). -/
def Obligations.MemoryWriteReachesSramAlone : Prop :=
  ∀ (addr : Nat) (data : Word) (be : ByteEnables) (s : State), be ≠ 0#4 → s.bi.held = [] → mustHold s (.write addr data be) = false →
    (∀ off, offsetOf s addr = some off → off ≠ 0 ∧ (zoneKind (regionOf off) = .plain ∨ zoneKind (regionOf off) = .shared)) →
    ∃ t, exec (.memoryWrite addr data be) s = .next t ∧
      (∀ a, byteAt t.mem a =
        if 4 * addr ≤ a ∧ a < 4 * addr + 4 ∧ be.getLsbD (a - 4 * addr) = true then byteOf data (a - 4 * addr) else byteAt s.mem a) ∧
      (∀ off, sramAddress s off ≠ addr → regionOf off ≠ .owned → latestWord t off = latestWord s off) ∧ Leaves s t [.sram, .words]

/-- A read of 0x42 captures the frame count, and a read of 0x43 returns the captured count's low half and ends the capture. A Summary read
returns the flags and arms those that read as set; a read of a flag's detail word returns its detail and clears the flag if it is armed and
nothing has occurred since, and the read of LOST_COUNT clears the count (R111, R126, R136, R158, R161, R162; lanes not enabled log 7). -/
def Obligations.LiveWindowReadsHaveTheirEffect : Prop :=
  ∀ (be : ByteEnables) (s : State), be ≠ 0#4 → s.bi.held = [] →
    (∃ t, exec (.frameCountHighRead be) s = .next t ∧ t.bi.readData = mergeBytes 0#32 (frameHigh (s.bi.latch.getD s.frame)) be ∧
      t.bi.latch = some (s.bi.latch.getD s.frame) ∧
      (t.bi.base, t.bi.copies, t.bi.startCopy, t.bi.held) = (s.bi.base, s.bi.copies, s.bi.startCopy, s.bi.held) ∧ Leaves s t [.bus]) ∧
    (∃ t, exec (.frameCountLowRead be) s = .next t ∧ t.bi.readData = mergeBytes 0#32 (frameLow (s.bi.latch.getD s.frame)) be ∧
      t.bi.latch = none ∧
      (t.bi.base, t.bi.copies, t.bi.startCopy, t.bi.held) = (s.bi.base, s.bi.copies, s.bi.startCopy, s.bi.held) ∧ Leaves s t [.bus]) ∧
    (∃ t, exec (.summaryRead be) s = .next t ∧ t.bi.readData = mergeBytes 0#32 ((summaryFlags s.eu s.su.part).setWidth 32) be ∧
      t.eu = { s.eu with
        overflow := { set := s.eu.overflow.set, armed := s.eu.overflow.set, occurred := false }
        fault := { set := s.eu.fault.set, armed := s.eu.fault.set, occurred := false }
        recorder := { set := s.eu.recorder.set, armed := s.eu.recorder.set, occurred := false }, attention := t.eu.attention } ∧
      t.bi.latch = s.bi.latch ∧ Leaves s t [.bus, .events, .alarms]) ∧
    (∃ t, exec (.fltHeadRead be) s = .next t ∧ t.bi.readData = mergeBytes 0#32 (natWord s.eu.fltHead) be ∧
      t.eu = { s.eu with fault := s.eu.fault.detailRead, attention := t.eu.attention } ∧ t.bi.latch = s.bi.latch ∧
      Leaves s t [.bus, .alarms]) ∧
    (∃ t, exec (.lostCountRead be) s = .next t ∧ t.bi.readData = mergeBytes 0#32 (natWord s.eu.lost) be ∧
      t.eu = { s.eu with overflow := s.eu.overflow.detailRead, lost := 0, attention := t.eu.attention } ∧ t.bi.latch = s.bi.latch ∧
      Leaves s t [.bus, .events]) ∧
    (∃ t, exec (.shortageRead be) s = .next t ∧
      t.bi.readData = mergeBytes 0#32 (packed [place 7 0 (shortage s).1, place 23 16 (shortage s).2]) be ∧
      t.eu = { s.eu with recorder := s.eu.recorder.detailRead, attention := t.eu.attention } ∧ t.bi.latch = s.bi.latch ∧
      Leaves s t [.bus, .alarms])

/-- A processor access that a rule holds, or that comes while another waits, waits behind it and changes nothing else. A read outside the
aperture is never held; a read inside it is held in LOADING, in a restart drain, in a measurement block under hold, behind a write of the part
to its word that waits for room, and, where no queued write answers it, in DRAIN; a Live Window read is not (R125, R126, R135, R137 to R141,
R177; log 7, log 8, log 39). An access that enables no byte does not exist (R126): the model stops with the fault of that name (log 26). -/
def Obligations.AccessesWaitOrAreAnswered : Prop :=
  (∀ (addr : Nat) (data : Word) (be : ByteEnables) (s : State), be ≠ 0#4 →
    s.bi.held ≠ [] ∨ mustHold s (.write addr data be) = true →
    exec (.memoryWrite addr data be) s = .next { s with bi := { s.bi with held := s.bi.held ++ [.write addr data be] } }) ∧
  (∀ (addr : Nat) (data : Word) (s : State), exec (.memoryWrite addr data 0#4) s = .fault .noByteEnabled) ∧
  (∀ (i : Instr) (off : Nat) (be : ByteEnables) (s : State),
    (i, off) ∈ [(Instr.frameCountHighRead be, 0x42), (.frameCountLowRead be, 0x43), (.fltHeadRead be, 0x46), (.summaryRead be, 0x47),
      (.lostCountRead be, 0x49), (.shortageRead be, 0x4A)] → be ≠ 0#4 → s.bi.held ≠ [] →
    exec i s = .next { s with bi := { s.bi with held := s.bi.held ++ [.read (sramAddress s off) be] } }) ∧
  (∀ (addr : Nat) (be : ByteEnables) (s : State), addr < sramAddress s 0 ∨ sramAddress s 0 + 0x10000 ≤ addr →
    processorRead s addr be = some (mergeBytes 0#32 (wordAt s.mem addr) be)) ∧
  (∀ (off : Nat) (be : ByteEnables) (s : State), 0x40 ≤ off → off < 0x80 →
    processorRead s (sramAddress s off) be = some (mergeBytes 0#32 (liveWindowWord s off) be)) ∧
  (∀ (off : Nat) (be : ByteEnables) (s : State), off < 0x10000 → off < 0x40 ∨ 0x80 ≤ off →
    (s.su.part = .loading ∨ s.su.draining = true ∨
        (∃ n, s.bi.measHold = some n ∧ measurementOffset n ≤ off ∧ off < measurementOffset n + 16) ∨ (∃ e ∈ s.bi.waiting, e.1 = off) ∨
        (s.bi.mode = .drain ∧ ∀ e ∈ s.bi.pwq, e.1 ≠ off) →
      processorRead s (sramAddress s off) be = none) ∧
    (s.su.part ≠ .loading → s.su.draining = false →
      (∀ n, s.bi.measHold = some n → off < measurementOffset n ∨ measurementOffset n + 16 ≤ off) → (∀ e ∈ s.bi.waiting, e.1 ≠ off) →
      (∀ before w later, s.bi.pwq = before ++ (off, w) :: later → (∀ e ∈ later, e.1 ≠ off) →
        processorRead s (sramAddress s off) be = some (mergeBytes 0#32 w be)) ∧
      ((∀ e ∈ s.bi.pwq, e.1 ≠ off) → s.bi.mode = .normal →
        processorRead s (sramAddress s off) be = some (mergeBytes 0#32 (wordAt s.mem (sramAddress s off)) be))))

/-! ## The memory port -/

/-- The port takes accesses in the order in which they were asked for. In its turn the oldest entry of the posted write queue reaches its
word of the SRAM and leaves, waiting writes join in order, the arbiter follows the depth, and no word that the processor can read changes;
before its turn the access asked for first is taken. With no command to take, the access asked for first is taken when it is a read. A
requester that makes the accesses it has left within a command makes them in its turns, and when an entry's leaving brings the arbiter back
to NORMAL, the processor's held access is taken before the part's next access (R137, R138, R147; log 3, log 8, log 31, log 43). -/
def Obligations.PortTakesAccessesInOrder : Prop :=
  (∀ (off : Nat) (w : Word) (rest : List (Nat × Word)) (s : State), s.bi.pwq = (off, w) :: rest → s.bi.held = [] →
    (askPort s).bi.asked.head? = some .queue →
    ∃ t, exec .pwqEntryWrite s = .next t ∧ t.mem = writeWord s.mem (sramAddress s off) w 0b1111#4 ∧
      t.bi.pwq = rest ++ s.bi.waiting.take (16 - rest.length) ∧ t.bi.waiting = s.bi.waiting.drop (16 - rest.length) ∧
      t.bi.mode = arbiterAt (arbiterAt s.bi.mode rest.length) t.bi.pwq.length ∧
      (∀ o, latestWord t o = latestWord s o) ∧ Leaves s t [.sram, .meter]) ∧
  (∀ (v : PortUser) (r : List PortUser) (s : State), s.bi.pwq ≠ [] → (askPort s).bi.asked = v :: r → v ≠ .queue → (v :: r).Nodup →
    exec .pwqEntryWrite s = exec .pwqEntryWrite (takeTurn (askPort s) v)) ∧
  (∀ (v : PortUser) (r : List PortUser) (s : State), s.pending = [] → (askPort s).bi.asked = v :: r → v ≠ .queue →
    ∃ t, step s = .next t ∧ accessesLeft t v + 1 = accessesLeft s v ∧ (∀ u, u ≠ v → accessesLeft t u = accessesLeft s u) ∧
      t.bi.asked = r.filter (waits t) ++ (if accessesLeft t v = 0 ∨ v ∈ r then [] else [v]) ∧
      (∀ ws, v = .fetch → s.re.take = .fetching ws →
        t.re.take = .fetching (ws ++ [partRead s (requestOffset s.re.head + ws.length)])) ∧
      Leaves s t (match v with
        | .queue => []
        | .fetch => [.take]
        | .meter => [.meter]
        | .load => [.su])) ∧
  (∀ (u : PortUser) (s : State), u ≠ .queue → s.bi.asked.Nodup → accessesLeft s u ≤ 64 → s.bi.held = [] →
    accessesLeft (finishReads s u) u = 0 ∧ (∀ o, latestWord (finishReads s u) o = latestWord s o) ∧
    Leaves s (finishReads s u) [.sram, .take, .meter, .su]) ∧
  (∀ (v : PortUser) (r : List PortUser) (s : State), (askPort s).bi.asked = v :: r → s.bi.asked.Nodup →
    (waits s .meter = true → accessesLeft s .meter ≤ 64 →
      exec .measurementReadDone s = exec .measurementReadDone (servedTurn (askPort s) v)) ∧
    (∀ (i : Instr) (code : Nat), (i, code) ∈ requestsByCode → waits s .fetch = true → fetchedCode s (· = code) = true →
      fetchedCode (servedTurn (askPort s) v) (· = code) = true → exec i s = exec i (servedTurn (askPort s) v))) ∧
  (∀ (off o : Nat) (w : Word) (rest : List (Nat × Word)) (s : State), s.bi.mode = .drain → s.bi.pwq = (off, w) :: rest →
    rest.length = 8 → s.bi.waiting = [] → o < 0x10000 → (∀ e ∈ rest, e.1 ≠ o) → holdsAll s = false → inMeasHold s o = false →
    (∀ (data : Word) (be : ByteEnables), s.bi.held = [.write (sramAddress s o) data be] → regionOf o = .plain →
      (servedTurn s .queue).mem =
        writeWord (writeWord s.mem (sramAddress s off) w 0b1111#4) (sramAddress s o) data be ∧
      (servedTurn s .queue).bi.held = [] ∧ (servedTurn s .queue).bi.pwq = rest ∧ (servedTurn s .queue).bi.mode = .normal ∧
      (∀ o', o' ≠ o → latestWord (servedTurn s .queue) o' = latestWord s o')) ∧
    (∀ be : ByteEnables, s.bi.held = [.read (sramAddress s o) be] → inLiveWindow o = false →
      (servedTurn s .queue).bi.readData =
        mergeBytes 0#32 (wordAt (writeWord s.mem (sramAddress s off) w 0b1111#4) (sramAddress s o)) be ∧
      (servedTurn s .queue).bi.held = [] ∧ (servedTurn s .queue).bi.pwq = rest ∧ (servedTurn s .queue).bi.mode = .normal ∧
      (∀ o', latestWord (servedTurn s .queue) o' = latestWord s o')))

/-- An update starts with the head of the update list and holds its block; its words are read in the meter's turns at the port, and then
each write-back is the word read plus the amount, or the value to write, and joins the tail of the queue. When the last of them has left the
queue the update is over and the hold is released, and not before (R122, R123, R138, R140). That words still unread are read by the command
that takes them is the model's choice (log 3). -/
def Obligations.MeasurementUpdateAddsToBlock : Prop :=
  (∀ (u : UpdateRec) (rest : List UpdateRec) (s : State), s.um.inProgress = none → s.um.updates = u :: rest →
    s.su.part.carries = true → s.bi.held = [] →
    ∃ t, exec .measurementUpdateStart s = .next t ∧ t.um.inProgress = some { record := u, reading := true, wordsRead := 0 } ∧
      UpdatesAre s t rest ∧ t.bi.measHold = some u.line ∧ Leaves s t [.um, .meter]) ∧
  (∀ s : State, waits (finishReads s .meter) .meter = false →
    exec .measurementReadDone s = exec .measurementReadDone (finishReads s .meter)) ∧
  (∀ (u : Updating) (s : State), s.um.inProgress = some u → u.reading = true → waits s .meter = false → s.bi.held = [] →
    u.record.line < 256 → (∀ e ∈ u.record.ops, e.1 < 16) →
    ∃ t, exec .measurementReadDone s = .next t ∧ writesOf t = writesOf s ++ writeBacks s u.record ∧
      (writeBacks s u.record ≠ [] → t.um.inProgress = some { u with reading := false } ∧ t.bi.measHold = s.bi.measHold) ∧
      (∀ e ∈ writeBacks s u.record, ∃ i op, (i, op) ∈ u.record.ops ∧ e.1 = measurementOffset u.record.line + i ∧
        ((∃ n, op = .add n ∧ e.2 = partRead s e.1 + BitVec.ofNat 32 n) ∨ op = .write e.2)) ∧
      (∀ i op, (i, op) ∈ u.record.ops → op ≠ .keep → ∃ e ∈ writeBacks s u.record, e.1 = measurementOffset u.record.line + i) ∧
      Leaves s t [.words, .meter]) ∧
  (∀ (u : Updating) (first : Nat × Word) (rest : List (Nat × Word)) (s : State), s.um.inProgress = some u → u.reading = false →
    s.bi.pwq = first :: rest → s.bi.held = [] → (askPort s).bi.asked.head? = some .queue →
    ∃ t, exec .pwqEntryWrite s = .next t ∧
      if ∃ e ∈ rest ++ s.bi.waiting, measurementOffset u.record.line ≤ e.1 ∧ e.1 < measurementOffset u.record.line + 16 then
        t.um.inProgress = some u ∧ t.bi.measHold = s.bi.measHold
      else t.um.inProgress = none ∧ t.bi.measHold = none)

/-- A call end measures the call's context with its open intervals closed: the duration is the connect frames in units of 1000, at most
65535; an enabled context forms an update of words 0 to 7, in format 1 of words 8 to 13 too; and the context is gone. A line's updates are
one record: a new record joins the tail of the list, and making a merged record does what making the two in turn does. A refusal with ACCESS
or PRIVATE adds one to word 14 in format 1, a rejected ring one to word 4 (R115 to R122). -/
def Obligations.UsageUpdatesAreFormed : Prop :=
  (∀ (s : State) (n : Nat) (c : MeasContext) (own : Nat → Nat), s.context n = some c →
    (∀ p, own p = Table.get 0 c.connFrames p + match c.segment with
      | some (f, q) => if p = q then since s f else 0
      | none => 0) →
    ∃ t ops, endMeasurement s n = (t, min ((own 0 + own 1 + own 2 + own 3) / 1000) 65535) ∧
      t.context n = none ∧ (∀ m, m ≠ n → t.context m = s.context m) ∧ t.um.inProgress = s.um.inProgress ∧ t.bi = s.bi ∧
      UpdatesAre s t (if c.enabled = true then (formUpdate s n ops).um.updates else s.um.updates) ∧ (Table.keys ops).Nodup ∧
      Table.get UpdOp.keep ops 0 = .add c.seizures ∧ Table.get UpdOp.keep ops 1 = .add c.answered ∧
      Table.get UpdOp.keep ops 2 = .add (own 0 + own 1 + own 2 + own 3) ∧
      Table.get UpdOp.keep ops 3 = .add (c.ringFrames + (c.ringOpen.map (since s)).getD 0) ∧
      Table.get UpdOp.keep ops 4 = .add c.unanswered ∧ Table.get UpdOp.keep ops 5 = .add c.switches ∧
      Table.get UpdOp.keep ops 6 = .write (frameLow s.frame) ∧
      Table.get UpdOp.keep ops 7 = .write (if c.format = 1 then 0x101#32 else 0x100#32) ∧
      (∀ p < 4, Table.get UpdOp.keep ops (8 + p) = if c.format = 1 then .add (own p) else .keep) ∧
      Table.get UpdOp.keep ops 12 =
        (if c.format = 1 then .add (c.unrecFrames + (c.unrecOpen.map (since s)).getD 0) else .keep) ∧
      Table.get UpdOp.keep ops 13 = (if c.format = 1 then .add c.barges else .keep) ∧
      ∀ i, 13 < i → Table.get UpdOp.keep ops i = .keep) ∧
  (∀ (s : State) (n : Nat), s.context n = none → endMeasurement s n = (s, 0)) ∧
  (∀ (s : State) (n : Nat) (ops : Table UpdOp),
    UpdatesAre s (formUpdate s n ops)
      (if ∃ u ∈ s.um.updates, u.line = n then
        s.um.updates.map fun u => if u.line = n then { u with ops := mergeOps u.ops ops } else u
      else s.um.updates ++ [{ line := n, ops := ops }])) ∧
  (∀ (old new : Table UpdOp) (i : Nat) (w : Word), (Table.keys new).Nodup →
    UpdOp.make (Table.get .keep (mergeOps old new) i) w = UpdOp.make (Table.get .keep new i) (UpdOp.make (Table.get .keep old i) w)) ∧
  (∀ (s : State) (n format : Nat) (enabled : Bool),
    (∀ c, s.context n = some c → enabled = c.enabled ∧ format = c.format) →
    (s.context n = none → enabled = (s.um.enable && (s.line n).applied.measureEnable) ∧ format = s.um.format) →
    countRefusal s n = (if enabled = true ∧ format = 1 then formUpdate s n [(14, .add 1)] else s) ∧
    countRejectedRing s n = if enabled = true then formUpdate s n [(4, .add 1)] else s)

/-! ## The signalling link -/

/-- A SEIZE_ACK for the seizure of a line in CALLING puts the circuit IN_USE: an AUTO_RINGDOWN line begins to ring with its cadence and
NO_ANSWER timers, any other becomes connected; a FAR_ANSWER, and a RING_DETECT that meets the seizure, connect every line. When the far end
of an AUTO_RINGDOWN line that rings it answers, by FAR_ANSWER or RING_DETECT, the line becomes connected (R8, R37, R38, R42, R43, R117). -/
def Obligations.AcknowledgementTakesTheSeizure : Prop :=
  ∀ (c : Fin 256) (n : Nat) (s : State), linkActive s = true → s.bi.held = [] → s.eu.evtHead < 256 → s.eu.unread ≤ 254 →
    (s.circuit c).owner = some n → (s.line n).state = .calling →
    ((s.circuit c).state = .seizing → seizeSent (s.circuit c) = true → (s.line n).eff.kind = .autoRingdown →
      ∃ t, exec (.seizeAck c) s = .next t ∧ t.circuit c = { s.circuit c with state := .inUse, desired := .seizedRinging } ∧
        t.line n = { s.line n with
          signalTimer := some (.cadenceOn, s.frame + 16000#48), stateTimer := some (.noAnswer, after s (ringFrames s)) } ∧
        (∀ m, m ≠ n → t.line m = s.line m) ∧ (∀ d, d ≠ c.val → t.circuit d = s.circuit d) ∧ Leaves s t [.lc, .cc, .link]) ∧
    (∀ i, ((s.circuit c).state = .seizing ∧
          ((i = Instr.seizeAck c ∧ seizeSent (s.circuit c) = true ∧ (s.line n).eff.kind ≠ .autoRingdown) ∨
           (i = Instr.farAnswer c ∧ seizeSent (s.circuit c) = true) ∨ i = Instr.ringDetect c)) ∨
        ((s.circuit c).state = .inUse ∧ (s.line n).eff.kind = .autoRingdown ∧ (i = Instr.farAnswer c ∨ i = Instr.ringDetect c)) →
      ∃ t, exec i s = .next t ∧ t.circuit c = { s.circuit c with state := .inUse, desired := .seized } ∧
        t.line n = { s.line n with
          state := connectedOrHeld (s.line n), lastChange := s.frame, stateTimer := none
          signalTimer :=
            if i = .ringDetect c ∨ (i = .farAnswer c ∧ (s.line n).eff.kind = .autoRingdown) then none else (s.line n).signalTimer } ∧
        (∀ x, s.context n = some x → ∃ y, t.context n = some y ∧ y.connectAt = some (x.connectAt.getD s.frame) ∧
          y.segment = some (s.frame, (s.path n).lastUsed)) ∧
        EventAt t s.eu.evtHead (.lineState n .calling (connectedOrHeld (s.line n)) .far) s.frame ∧
        (∀ m, m ≠ n → t.line m = s.line m) ∧ (∀ d, d ≠ c.val → t.circuit d = s.circuit d) ∧
        Leaves s t [.events, .lc, .cc, .link])

/-- A ring on an IDLE circuit is accepted when its target line is IDLE: the line is RINGING_IN on it, enters the alert lists of its AUDIBLE
appearances and is reported; else it is rejected: the circuit is RELEASING with a RELEASE due, no line changes, and the ring is counted
(R14, R41, R121). -/
def Obligations.RingsAreAcceptedOrRejected : Prop :=
  ∀ (c : Fin 256) (s : State), linkActive s = true → s.bi.held = [] → s.eu.evtHead < 256 → s.eu.evtRead < 256 → s.eu.unread ≤ 253 →
    (s.circuit c).state = .idle →
    (∀ n, ringTarget s c = some n → (s.line n).state = .idle →
      ∃ t, exec (.ringDetect c) s = .next t ∧ t.circuit c = { s.circuit c with owner := some n, state := .inUse, farHeld := true } ∧
        t.line n = { s.line n with
          callCopy := some (s.line n).applied.call, active := some c.val, ringStart := s.frame, state := .ringingIn
          lastChange := s.frame, stateTimer := some (.ringIn, after s (ringFrames s)) } ∧
        (∀ p, (∃ e ∈ s.appEntries n, e.pos = p ∧ e.audible = true) → (s.position p).applied.enabled = true →
          (s.alertList p).length < 8 → n ∈ t.alertList p) ∧
        (∀ p, (∀ e ∈ s.appEntries n, e.pos = p → e.audible = false) → t.alertList p = s.alertList p) ∧
        EventAt t s.eu.evtHead (.lineState n .idle .ringingIn .far) s.frame ∧
        EventAt t ((s.eu.evtHead + 1) % 256) (.ringAlert n c s.frame) s.frame ∧
        (∀ m, m ≠ n → t.line m = s.line m) ∧ (∀ d, d ≠ c.val → t.circuit d = s.circuit d) ∧
        Leaves s t [.events, .lc, .cc, .meter]) ∧
    (∀ target, ringTarget s c = target → (∀ n, target = some n → (s.line n).state ≠ .idle) →
      ∃ t, exec (.ringDetect c) s = .next t ∧
        t.circuit c = { s.circuit c with
          lastSent := .seized, desired := .idle, farHeld := false, state := .releasing, owner := none } ∧
        (inTransmission s c = false →
          c.val ∈ t.cc.pendingList ∨ t.cc.sending = some { circuit := c, msg := .release, wentDown := false }) ∧
        UpdatesAre s t (match target with
          | some n => (countRejectedRing s n).um.updates
          | none => s.um.updates) ∧
        EventAt t s.eu.evtHead (.ringRejected c target) s.frame ∧ (∀ d, d ≠ c.val → t.circuit d = s.circuit d) ∧
        Leaves s t [.events, .cc, .link, .um])

/-- A FAR_CLEAR ends the call of a line that is not NAILED: from RINGING_IN the line is IDLE, off every alert list, and its circuit free,
without any message where nothing has been sent on it; from CALLING, CONNECTED or HELD, its circuit IN_USE or SEIZING with the SEIZE sent,
every handset is dropped and the line is CLEARING for 8000 frames with its circuit RELEASING; the call is measured (R15, R18, R35, R44, R54,
R116, R119). -/
def Obligations.FarClearEndsTheCall : Prop :=
  ∀ (c : Fin 256) (n : Nat) (s : State), linkActive s = true → s.bi.held = [] → s.eu.evtHead < 256 → s.eu.evtRead < 256 →
    (s.circuit c).owner = some n →
    ((s.circuit c).state = .inUse → (s.line n).state = .ringingIn → s.eu.unread ≤ 253 →
      ∃ t, exec (.farClear c) s = .next t ∧ t.line n = idleAfter (s.line n) s.frame ∧ (t.circuit c).owner = none ∧
        (t.circuit c).farHeld = false ∧ (t.circuit c).desired = .idle ∧
        ((t.circuit c).state = .idle ∨ (t.circuit c).state = .uninstalled) ∧ (t.circuit c).lastSent = (s.circuit c).lastSent ∧
        ((s.circuit c).lastSent = .idle → inTransmission s c = false → c.val ∉ t.cc.pendingList ∧ inTransmission t c = false) ∧
        (∀ p, n ∉ t.alertList p) ∧
        (∃ duration, EventAt t s.eu.evtHead (.lineReleased n .far duration) s.frame) ∧
        EventAt t ((s.eu.evtHead + 1) % 256) (.lineState n .ringingIn .idle .far) s.frame ∧ t.context n = none ∧
        UpdatesAre s t (updatesAfter s n unansweredOf) ∧
        (∀ m, m ≠ n → t.line m = s.line m) ∧ Leaves s t [.events, .lc, .cc, .link, .um, .meter]) ∧
    ((s.circuit c).state = .inUse ∨ ((s.circuit c).state = .seizing ∧ seizeSent (s.circuit c) = true) →
      (s.line n).state = .calling ∨ (s.line n).state = .connected ∨ (s.line n).state = .held → (s.line n).eff.kind ≠ .nailed →
      (s.line n).active = some c.val →
      ∃ t, exec (.farClear c) s = .next t ∧ t.line n = clearingAfter (s.line n) (s.frame + 8000#48) s.frame ∧
        t.circuit c = { s.circuit c with desired := .idle, farHeld := false, state := .releasing, owner := some n } ∧
        (∀ e ∈ (s.line n).participants, CurEntry.line n ∉ (t.handset e.party).current ∧ n ∉ (t.handset e.party).hold) ∧
        OnlyHandsets s t ((s.line n).participants.map (·.party)) ∧
        t.context n = none ∧ UpdatesAre s t (updatesAfter s n id) ∧ (∀ m, m ≠ n → t.line m = s.line m) ∧ (∀ d, d ≠ c.val →
        t.circuit d = s.circuit d) ∧
        Leaves s t [.events, .alarms, .lc, .cc, .link, .hc, .ra, .um, .meter])

/-- A FAR_CLEAR on the circuit of a connected NAILED line with another selectable circuit begins a failover to the first of them upward from
the position after the failed one, wrapping, or goes on with the failover in progress, the call standing. A failover of a line in CONNECTED
or HELD is completed, with PATH_SWITCH, by the SEIZE_ACK or FAR_ANSWER of the circuit seized once its SEIZE is sent, and by a RING_DETECT on
it, sent or not (R31, R42 to R44, R48, R118). Which circuit switchFrom keeps, and so PATH_SWITCH names, is the model's reading (log 14). -/
def Obligations.FailoverMovesTheCall : Prop :=
  ∀ (c : Fin 256) (n : Nat) (s : State), linkActive s = true → s.bi.held = [] → s.eu.evtHead < 256 → s.eu.unread ≤ 254 →
    (s.circuit c).owner = some n → (s.line n).state = .connected ∨ (s.line n).state = .held →
    ((s.circuit c).state = .inUse ∨ ((s.circuit c).state = .seizing ∧ seizeSent (s.circuit c) = true) → (s.line n).eff.kind = .nailed →
      (s.line n).active = some c.val →
      ∀ j d, failoverPosition s n (pathPositionOf s n c) = some j → (s.line n).eff.path[j]? = some d →
      (∀ k < 4, k ≠ pathPositionOf s n c → (s.line n).eff.path[k]? ≠ some c.val) →
      ∃ t, exec (.farClear c) s = .next t ∧ (t.path n).lastUsed = j ∧
        t.line n = { s.line n with
          signalTimer := none, stateTimer := none, ringBurst := false, pathSwitching := true
          switchFrom := some ((s.line n).switchFrom.getD c), active := some d } ∧
        t.circuit d = { s.circuit d with owner := some n, state := .seizing, desired := .seized } ∧
        (t.circuit c).owner = none ∧ (t.circuit c).desired = .idle ∧ (t.circuit c).farHeld = false ∧
        (∀ e, e ≠ c.val → e ≠ d → t.circuit e = s.circuit e) ∧ (∀ m, m ≠ n → t.line m = s.line m) ∧ Leaves s t [.lc, .cc, .link]) ∧
    (∀ i, ((i = Instr.seizeAck c ∨ i = Instr.farAnswer c) ∧ seizeSent (s.circuit c) = true) ∨ i = Instr.ringDetect c →
      (s.circuit c).state = .seizing → (s.line n).pathSwitching = true →
      ∃ t, exec i s = .next t ∧ t.circuit c = { s.circuit c with state := .inUse } ∧
        t.line n = { s.line n with stateTimer := none, pathSwitching := false, switchFrom := none } ∧
        (∀ x, s.context n = some x → ∃ y, t.context n = some y ∧ y.switches = x.switches + 1 ∧
          y.segment = some (s.frame, (s.path n).lastUsed)) ∧
        EventAt t s.eu.evtHead (.pathSwitch n ((s.line n).switchFrom.getD c) c (s.path n).lastUsed) s.frame ∧
        (∀ m, m ≠ n → t.line m = s.line m) ∧ (∀ d, d ≠ c.val → t.circuit d = s.circuit d) ∧ Leaves s t [.events, .lc, .cc])

/-- A circuit that CIRCUIT_DOWN, CIRCUIT_RESET or, of a NAILED line, FAR_CLEAR takes from its line fails: a line in CALLING retries at its
lowest selectable position; the call of a line in CONNECTED or HELD fails over to the next one upward; with none the path is lost: every
handset is dropped, the call is measured, and the line is IDLE from CALLING, CLEARING after LINE_LOST from CONNECTED and HELD, and
OUT_OF_SERVICE with cause NO_PATH when it is NAILED; a line in RINGING_IN is IDLE, off every alert list, its ring counted unanswered; a line
in CLEARING loses its active circuit (R15, R30, R31, R44, R45, R48, R49, R51, R116, R119). Which circuit switchFrom keeps and which
LINE_LOST names is the model's reading (log 14). -/
def Obligations.FailedCircuitsRetryOrLoseTheLine : Prop :=
  ∀ (c : Fin 256) (n : Nat) (i : Instr) (r : CircuitRec) (own : List Block) (s : State), s.bi.held = [] → s.eu.evtHead < 256 →
    s.eu.evtRead < 256 → (s.circuit c).owner = some n → (s.line n).active = some c.val →
    (s.circuit c).state = .seizing ∨ (s.circuit c).state = .inUse ∨ (s.circuit c).state = .releasing →
    (i = .circuitDown c ∧ own = [] ∧
        r = { s.circuit c with state := .down, owner := none, desired := .idle, lastSent := .idle, farHeld := false }) ∨
      (i = .circuitReset ∧ own = [.ring, .take] ∧ (∃ ws, Ready s 0x21 ws 1 ∧ param ws 1 = c) ∧
        r = { s.circuit c with state := .resetting, owner := none, desired := .reset, farHeld := false }) ∨
      (i = .farClear c ∧ own = [] ∧ linkActive s = true ∧ (s.line n).eff.kind = .nailed ∧ quiet s c = false ∧
        ((s.circuit c).state = .inUse ∨ ((s.circuit c).state = .seizing ∧ seizeSent (s.circuit c) = true)) ∧
        ((s.line n).state = .calling ∨ (s.line n).state = .connected ∨ (s.line n).state = .held) ∧
        r = { s.circuit c with state := .releasing, owner := none, desired := .idle, farHeld := false }) →
    ∃ t, exec i s = .next t ∧ t.circuit c = r ∧ (∀ m, m ≠ n → t.line m = s.line m) ∧
      Leaves s t (own ++ [.events, .alarms, .lc, .cc, .link, .hc, .ra, .um, .meter]) ∧
      (∀ j d, (s.line n).state = .calling → newPosition s n = some j → (s.line n).eff.path[j]? = some d →
        t.line n = { s.line n with signalTimer := none, stateTimer := none, active := some d } ∧ (t.path n).lastUsed = j ∧
        t.circuit d = { s.circuit d with owner := some n, state := .seizing, desired := .seized } ∧
        (∀ e, e ≠ c.val → e ≠ d → t.circuit e = s.circuit e) ∧ UpdatesAre s t s.um.updates ∧
        Leaves s t (own ++ [.events, .lc, .cc, .link])) ∧
      (∀ j d, (s.line n).state = .connected ∨ (s.line n).state = .held → failoverPosition s n (pathPositionOf s n c) = some j →
        (s.line n).eff.path[j]? = some d →
        t.line n = { s.line n with
          signalTimer := none, stateTimer := none, ringBurst := false, pathSwitching := true
          switchFrom := some ((s.line n).switchFrom.getD c), active := some d } ∧ (t.path n).lastUsed = j ∧
        t.circuit d = { s.circuit d with owner := some n, state := .seizing, desired := .seized } ∧
        (∀ e, e ≠ c.val → e ≠ d → t.circuit e = s.circuit e) ∧ Leaves s t (own ++ [.events, .lc, .cc, .link])) ∧
      ((s.line n).state = .calling ∨ (s.line n).state = .connected ∨ (s.line n).state = .held → (∀ j < 4, selectable s n j = false) →
        (∀ e ∈ (s.line n).participants, CurEntry.line n ∉ (t.handset e.party).current ∧ n ∉ (t.handset e.party).hold) ∧
        OnlyHandsets s t ((s.line n).participants.map (·.party)) ∧ t.context n = none ∧ UpdatesAre s t (updatesAfter s n id) ∧
        ((s.line n).state ≠ .calling → s.eu.unread ≤ 254 → EventAt t s.eu.evtHead (.lineLost n c) s.frame) ∧
        t.line n =
          if (s.line n).eff.kind = .nailed then
            { idleAfter (s.line n) s.frame with participants := [], state := .outOfService .noPath }
          else if (s.line n).state = .calling then { idleAfter (s.line n) s.frame with participants := [] }
          else { clearingAfter (s.line n) (s.frame + 8000#48) s.frame with active := none, switchFrom := none }) ∧
      ((s.line n).state = .ringingIn →
        t.line n = idleAfter (s.line n) s.frame ∧ (∀ p, n ∉ t.alertList p) ∧ t.context n = none ∧
        UpdatesAre s t (updatesAfter s n unansweredOf) ∧ Leaves s t (own ++ [.events, .lc, .cc, .link, .um, .meter])) ∧
      ((s.line n).state = .clearing → t.line n = { s.line n with active := none } ∧ Leaves s t (own ++ [.events, .lc, .cc, .link])) ∧
      (∀ ws, i = .circuitReset → fetched s = some ws → Finished s t ws .ok)

/-- CIRCUIT_DOWN takes a circuit out of use: both link states are IDLE, nothing is pending on it, no line that names it finds it available,
and a line that it was ringing is IDLE (R29, R45, R48). -/
def Obligations.CircuitDownTakesItOut : Prop :=
  ∀ (c : Fin 256) (s : State), s.bi.held = [] → s.eu.evtHead < 256 → (s.circuit c).state ≠ .down →
    ((s.circuit c).state = .uninstalled → linkActive s = false) →
    ((s.circuit c).owner = none →
      ∃ t, exec (.circuitDown c) s = .next t ∧
        t.circuit c = { s.circuit c with state := .down, owner := none, desired := .idle, lastSent := .idle, farHeld := false } ∧
        c.val ∉ t.cc.pendingList ∧
        (∀ n i, i < 4 → positionIn (s.line n).eff.path c = some i → (t.path n).available.getLsbD i = false) ∧
        (∀ n, t.path n = { s.path n with available := (t.path n).available }) ∧ (∀ d, d ≠ c.val → t.circuit d = s.circuit d) ∧
        Leaves s t [.cc, .link]) ∧
    (∀ n, (s.circuit c).owner = some n → (s.line n).state = .ringingIn →
      ∃ t, exec (.circuitDown c) s = .next t ∧ (t.circuit c).state = .down ∧ (t.circuit c).owner = none ∧ c.val ∉ t.cc.pendingList ∧
        t.line n = idleAfter (s.line n) s.frame ∧ (∀ p, n ∉ t.alertList p) ∧ (∀ m, m ≠ n → t.line m = s.line m) ∧
        Leaves s t [.events, .lc, .cc, .link, .um, .meter])

/-- CIRCUIT_UP from DOWN, and RESET_DONE after a RESET was sent, return a circuit to use: IDLE or UNINSTALLED by its naming, available where
it is named, and operational again after CIRCUIT_UP (R28, R29, R46). -/
def Obligations.CircuitReturnsToUse : Prop :=
  ∀ (c : Fin 256) (s : State), s.bi.held = [] → linkActive s = false ∨ lostNailed s c = [] →
    ((s.circuit c).state = .down →
      ∃ t, exec (.circuitUp c) s = .next t ∧
        t.circuit c = { s.circuit c with state := if isNamed s c then .idle else .uninstalled } ∧
        (∀ n i, i < 4 → positionIn (s.line n).eff.path c = some i →
          (t.path n).available.getLsbD i = (s.path n).installed.getLsbD i ∧
          (t.path n).operational.getLsbD i = (s.path n).installed.getLsbD i) ∧
        (∀ d, d ≠ c.val → t.circuit d = s.circuit d) ∧ Leaves s t [.cc, .link]) ∧
    ((s.circuit c).state = .resetting → (s.circuit c).lastSent = .reset →
      ∃ t, exec (.resetDone c) s = .next t ∧
        t.circuit c = { s.circuit c with
          desired := .idle, lastSent := .idle, state := if isNamed s c then .idle else .uninstalled } ∧
        (∀ n i, i < 4 → positionIn (s.line n).eff.path c = some i →
          (t.path n).available.getLsbD i = (s.path n).installed.getLsbD i) ∧
        (∀ d, d ≠ c.val → t.circuit d = s.circuit d) ∧ Leaves s t [.cc, .link])

/-- A NAILED line is seized anew at its lowest selectable position: at the end of a load, by a commit that enables it, by LINE_SERVICE in, at
guard expiry, and when CIRCUIT_UP or RESET_DONE brings its circuit back; where it finds none it is OUT_OF_SERVICE with cause NO_PATH (R4, R18,
R26, R30, R46, R115, R176). That the frame of the last change moves with the cause alone, from ADMIN to NO_PATH, is the model's reading
(log 15). -/
def Obligations.NailedLinesAreSeized : Prop :=
  ∀ (s : State) (n : Nat), s.bi.held = [] → s.eu.evtHead < 256 → (s.line n).applied.call.kind = .nailed →
    (s.su.load = some .ending → s.bi.loadLeft = 0 → n < s.su.lineCount → (s.line n).applied.enabled = true → (s.line n).state = .idle →
      (∀ m ∈ nailedLines s, (s.line m).callCopy = none) →
      (∀ m ∈ nailedLines s, m ≠ n → ∀ c ∈ (s.line m).applied.call.path, c ∉ (s.line n).applied.call.path) →
      ∃ t, exec .loadEnd s = .next t ∧
        (∀ j d, newPosition s n = some j → (s.line n).applied.call.path[j]? = some d → SeizedAnew s t n j d) ∧
        (newPosition s n = none →
          t.line n = { s.line n with state := .outOfService .noPath, lastChange := s.frame, setter := none })) ∧
    (∀ ws, Ready s 0x14 ws 2 → param ws 1 = n → param ws 2 = 1 → n < s.su.lineCount → (s.line n).applied.enabled = true →
      (s.line n).callCopy = none → (s.line n).state = .outOfService .admin ∨ (s.line n).state = .outOfService .noPath →
      ∃ t, exec .lineService s = .next t ∧ (∀ m, m ≠ n → t.line m = s.line m) ∧
        Leaves s t [.ring, .take, .events, .lc, .cc, .link, .meter] ∧
        (∀ j d, newPosition s n = some j → (s.line n).applied.call.path[j]? = some d →
          SeizedAnew s t n j d ∧ EventAt t s.eu.evtHead (.lineState n (s.line n).state .calling .request) s.frame ∧
          (∀ e, e ≠ d → t.circuit e = s.circuit e) ∧ Completed s t ws .ok 0#32 0#32) ∧
        (newPosition s n = none →
          ((s.line n).state = .outOfService .admin →
            t.line n = { s.line n with state := .outOfService .noPath, lastChange := s.frame, setter := none }) ∧
          ((s.line n).state = .outOfService .noPath → t.line n = s.line n) ∧ (∀ e, t.circuit e = s.circuit e) ∧
          Completed s t ws .noPath 0#32 0#32)) ∧
    (∀ (k : Fin 256) (data : Word) (be : ByteEnables) (cfg : LineConfig) (base : State), n = k.val → s.su.part.copying = true →
      Taken s (lineConfigOffset n) be →
      parseLine s.su.lineCount n (writtenCopy (mergeCopy s (lineConfigOffset n) data be) (lineConfigOffset n) 16) = some cfg →
      cfg.call = (s.line n).applied.call → (s.line n).applied.enabled = false → cfg.enabled = true → (s.line n).callCopy = none →
      (s.line n).state = .outOfService .admin → masksFollow s n → (∀ c ∈ cfg.call.path, (s.circuit c).state ≠ .uninstalled) →
      base = modLine s n (fun l => { l with applied := cfg, configRejected := false }) →
      ∃ t, exec (.lineCommit k data be) s = .next t ∧ (∀ m, m ≠ n → t.line m = s.line m) ∧
        (∀ j d, newPosition s n = some j → cfg.call.path[j]? = some d → SeizedAnew base t n j d) ∧
        (newPosition s n = none →
          t.line n = { base.line n with state := .outOfService .noPath, lastChange := s.frame, setter := none })) ∧
    (∀ (k : Fin 256) (c : Nat), n = k.val → stateDue s n .guard = true → (s.line n).state = .clearing → (s.line n).pendingAdmin = false →
      (s.line n).active = some c → (s.line n).callCopy = some (s.line n).applied.call → masksFollow s n →
      n < s.su.lineCount → (∀ e ∈ (s.line n).applied.call.path, (s.circuit e).state ≠ .uninstalled) →
      ∃ t, exec (.guard k) s = .next t ∧ (∀ m, m ≠ n → t.line m = s.line m) ∧ Leaves s t [.events, .lc, .cc, .link, .meter] ∧
        (∀ j d, newPosition s n = some j → j < pathPositionOf s n c → (s.line n).applied.call.path[j]? = some d → d ≠ c →
          SeizedAnew s t n j d ∧ (t.circuit c).owner = none) ∧
        (newPosition s n = none → quiet s c = false →
          t.line n = { s.line n with
            state := .outOfService .noPath, lastChange := s.frame, setter := none, callCopy := none, active := none, stateTimer := none })) ∧
    (∀ (c : Fin 256) (i : Instr) (j : Nat) (base : State), linkActive s = true → lostNailed s c = [n] → isNamed s c = true →
      (s.line n).callCopy = none → positionIn (s.line n).applied.call.path c = some j → (s.path n).installed.getLsbD j = true →
      newPosition s n = none →
      (i = .circuitUp c ∧ (s.circuit c).state = .down ∧ base = modCircuit s c (fun r => { r with state := .idle })) ∨
        (i = .resetDone c ∧ (s.circuit c).state = .resetting ∧ (s.circuit c).lastSent = .reset ∧ (s.path n).operational.getLsbD j = true ∧
          base = modCircuit s c (fun r => { r with state := .idle, desired := .idle, lastSent := .idle })) →
      ∃ t, exec i s = .next t ∧ SeizedAnew base t n j c ∧ (∀ m, m ≠ n → t.line m = s.line m) ∧
        (s.eu.unread ≤ 254 → EventAt t s.eu.evtHead (.lineState n (.outOfService .noPath) .calling .far) s.frame) ∧
        Leaves s t [.events, .lc, .cc, .link, .meter])

/-- The end of a transmission moves the last-sent state as R33's table says, the acknowledgement wait of a seizing line begins, a circuit on
which nothing is left to send is free, and the next message toward the desired state follows (R33, R34, R35, R36). -/
def Obligations.EndOfSendMovesLastSent : Prop :=
  ∀ (x : Sending) (s : State), s.cc.sending = some x → s.bi.held = [] →
    (x.wentDown = false →
      ∃ t, exec (endOfSend x.msg) s = .next t ∧ (t.circuit x.circuit).lastSent = x.msg.sent ∧ (t.circuit x.circuit).farHeld = false ∧
        (t.circuit x.circuit).desired = (s.circuit x.circuit).desired ∧ (t.circuit x.circuit).owner = (s.circuit x.circuit).owner ∧
        (t.circuit x.circuit).state =
          (if (s.circuit x.circuit).state = .releasing ∧ (s.circuit x.circuit).owner = none ∧ x.msg = .release then
            (if isNamed s x.circuit then .idle else .uninstalled) else (s.circuit x.circuit).state) ∧
        (∀ n, t.line n =
          if x.msg = .seize ∧ (s.circuit x.circuit).state = .seizing ∧ (s.circuit x.circuit).owner = some n then
            { s.line n with stateTimer := some (.ackWait, s.frame + 2000#48) } else s.line n) ∧
        (s.cc.pendingList = [] → (s.circuit x.circuit).desired = x.msg.sent → t.cc.sending = none) ∧
        (∀ m, s.cc.pendingList = [] → messageFor x.msg.sent (s.circuit x.circuit).desired = some m →
          t.cc.sending = some { circuit := x.circuit, msg := m, wentDown := false }) ∧
        (∀ d, d ≠ x.circuit → t.circuit d = s.circuit d) ∧ Leaves s t [.lc, .cc, .link]) ∧
    (x.wentDown = true → (s.circuit x.circuit).state = .down →
      ∃ t, exec (endOfSend x.msg) s = .next t ∧ (∀ d, t.circuit d = s.circuit d) ∧ Leaves s t [.cc, .link])

/-- Cadence expiries turn the ringing off for 32000 frames and on for 16000, by the desired state of the line's circuit; the expiry of BURST
ends the burst (R33, R37, R50). -/
def Obligations.SignalExpiriesDriveRinging : Prop :=
  ∀ (n : Fin 256) (c : Nat) (s : State), s.bi.held = [] → (s.line n).active = some c →
    (signalDue s n .cadenceOn = true →
      ∃ t, exec (.cadenceOn n) s = .next t ∧ t.line n = { s.line n with signalTimer := some (.cadenceOff, s.frame + 32000#48) } ∧
        t.circuit c = { s.circuit c with desired := .seized } ∧ (∀ m, m ≠ n.val → t.line m = s.line m) ∧
        (∀ d, d ≠ c → t.circuit d = s.circuit d) ∧ Leaves s t [.lc, .cc, .link]) ∧
    (signalDue s n .cadenceOff = true →
      ∃ t, exec (.cadenceOff n) s = .next t ∧ t.line n = { s.line n with signalTimer := some (.cadenceOn, s.frame + 16000#48) } ∧
        t.circuit c = { s.circuit c with desired := .seizedRinging } ∧ (∀ m, m ≠ n.val → t.line m = s.line m) ∧
        (∀ d, d ≠ c → t.circuit d = s.circuit d) ∧ Leaves s t [.lc, .cc, .link]) ∧
    (signalDue s n .burst = true →
      ∃ t, exec (.burst n) s = .next t ∧ t.line n = { s.line n with signalTimer := none, ringBurst := false } ∧
        t.circuit c = { s.circuit c with desired := .seized } ∧ (∀ m, m ≠ n.val → t.line m = s.line m) ∧
        (∀ d, d ≠ c → t.circuit d = s.circuit d) ∧ Leaves s t [.lc, .cc, .link])

/-- The expiry of ACK_WAIT marks the path position not operational and gives the circuit up. A line in CALLING seizes its lowest selectable
position; a failover of a line in CONNECTED or HELD goes on to the next one upward. With none the path is lost: every handset is dropped and
the call is measured; a NAILED line is OUT_OF_SERVICE with cause NO_PATH, any other IDLE from CALLING and CLEARING from CONNECTED and HELD,
these after LINE_LOST (R30, R31, R39, R48, R49, R119). Which circuit switchFrom keeps and which LINE_LOST names is the model's reading (log
14). -/
def Obligations.AckWaitRetriesOrLosesThePath : Prop :=
  ∀ (n : Fin 256) (c : Nat) (s : State), s.bi.held = [] → s.eu.evtHead < 256 → s.eu.evtRead < 256 →
    stateDue s n .ackWait = true → (s.line n).active = some c →
    (∀ k < 4, k ≠ pathPositionOf s n c → (s.line n).eff.path[k]? ≠ some c) →
    (∀ j d, (s.circuit c).state ≠ .idle → (s.line n).eff.path[j]? = some d →
      ((s.line n).state = .calling ∧ newPosition s n = some j ∧ j ≠ pathPositionOf s n c) ∨
        (((s.line n).state = .connected ∨ (s.line n).state = .held) ∧ failoverPosition s n (pathPositionOf s n c) = some j) →
      ∃ t, exec (.ackWait n) s = .next t ∧ (t.path n).operational.getLsbD (pathPositionOf s n c) = false ∧ (t.path n).lastUsed = j ∧
        t.line n =
          (if (s.line n).state = .calling then { s.line n with signalTimer := none, stateTimer := none, active := some d }
           else { s.line n with
            signalTimer := none, stateTimer := none, ringBurst := false, pathSwitching := true
            switchFrom := some ((s.line n).switchFrom.getD c), active := some d }) ∧
        t.circuit d = { s.circuit d with owner := some n.val, state := .seizing, desired := .seized } ∧
        (t.circuit c).owner = none ∧ (t.circuit c).desired = .idle ∧ (∀ e, e ≠ c → e ≠ d → t.circuit e = s.circuit e) ∧
        (∀ m, m ≠ n.val → t.line m = s.line m) ∧ Leaves s t [.lc, .cc, .link]) ∧
    ((∀ j < 4, selectable s n j = false) → (s.line n).state = .calling ∨ (s.line n).state = .connected ∨ (s.line n).state = .held →
      ∃ t, exec (.ackWait n) s = .next t ∧
        (∀ e ∈ (s.line n).participants, CurEntry.line n ∉ (t.handset e.party).current ∧ n.val ∉ (t.handset e.party).hold) ∧
        OnlyHandsets s t ((s.line n).participants.map (·.party)) ∧ (t.circuit c).owner = none ∧ t.context n = none ∧
        UpdatesAre s t (updatesAfter s n id) ∧
        ((s.line n).state ≠ .calling → s.eu.unread ≤ 254 → EventAt t s.eu.evtHead (.lineLost n c) s.frame) ∧
        t.line n =
          (if (s.line n).eff.kind = .nailed then
            { idleAfter (s.line n) s.frame with participants := [], state := .outOfService .noPath }
           else if (s.line n).state = .calling then { idleAfter (s.line n) s.frame with participants := [] }
           else { clearingAfter (s.line n) (s.frame + 8000#48) s.frame with active := none }) ∧
        (∀ m, m ≠ n.val → t.line m = s.line m) ∧
        Leaves s t [.events, .alarms, .lc, .cc, .link, .hc, .ra, .um, .meter])

/-- The expiry of NO_ANSWER in CALLING drops every handset, and the expiry of RING_IN ends the ring: the line is IDLE and its circuit is
given up (R15, R35, R37, R41, R116, R119). -/
def Obligations.UnansweredCallsEnd : Prop :=
  ∀ (n : Fin 256) (c : Nat) (s : State), s.bi.held = [] → s.eu.evtHead < 256 → (s.line n).active = some c →
    (stateDue s n .noAnswer = true → (s.line n).state = .calling →
      ∃ t, exec (.noAnswer n) s = .next t ∧ t.line n = { idleAfter (s.line n) s.frame with participants := [] } ∧
        (∀ e ∈ (s.line n).participants,
          CurEntry.line n ∉ (t.handset e.party).current ∧ n.val ∉ (t.handset e.party).hold) ∧
        OnlyHandsets s t ((s.line n).participants.map (·.party)) ∧ (t.circuit c).owner = none ∧ (t.circuit c).farHeld = false ∧
        (t.circuit c).desired = .idle ∧ t.context n = none ∧
        UpdatesAre s t (updatesAfter s n unansweredOf) ∧
        (∀ m, m ≠ n.val → t.line m = s.line m) ∧ Leaves s t [.events, .alarms, .lc, .cc, .link, .hc, .ra, .um, .meter]) ∧
    (stateDue s n .ringIn = true → (s.line n).state = .ringingIn →
      ∃ t, exec (.ringIn n) s = .next t ∧ t.line n = idleAfter (s.line n) s.frame ∧ (∀ p, n.val ∉ t.alertList p) ∧
        (t.circuit c).owner = none ∧ (t.circuit c).farHeld = false ∧ (t.circuit c).desired = .idle ∧ t.context n = none ∧
        UpdatesAre s t (updatesAfter s n unansweredOf) ∧
        (∀ m, m ≠ n.val → t.line m = s.line m) ∧ Leaves s t [.events, .lc, .cc, .link, .um, .meter])

/-- At guard expiry the circuit has no owner, and the line is OUT_OF_SERVICE when service was asked out of it, else IDLE unless it is NAILED
(R18, R25, R35; for the kind at that moment log 33). -/
def Obligations.GuardExpiryFreesTheLine : Prop :=
  ∀ (n : Fin 256) (c : Nat) (s : State), s.bi.held = [] → s.eu.evtHead < 256 → s.eu.unread ≤ 254 → stateDue s n .guard = true →
    (s.line n).state = .clearing → (s.line n).active = some c →
    (s.line n).pendingAdmin = true ∨ (s.line n).applied.call.kind ≠ .nailed →
    ∃ t new, new = (if (s.line n).pendingAdmin = true then LineState.outOfService .admin else .idle) ∧ exec (.guard n) s = .next t ∧
      t.line n = { s.line n with
        state := new, lastChange := s.frame, setter := none, callCopy := none, active := none, stateTimer := none
        pendingAdmin := false } ∧
      (t.circuit c).owner = none ∧ EventAt t s.eu.evtHead (.lineState n .clearing new .timer) s.frame ∧
      (∀ m, m ≠ n.val → t.line m = s.line m) ∧ Leaves s t [.events, .lc, .cc]

/-- The expiry of an intercom call's timer frees its record and takes the call out of its handsets; held lines stay held (R66, R71, R72). -/
def Obligations.IntercomTimerEndsTheCall : Prop :=
  ∀ (c : Fin 16) (s : State), s.bi.held = [] → s.eu.evtHead < 256 → callDue s c = true →
    ∃ t, exec (.intercomTimer c) s = .next t ∧ t.call c = IcmRec.cold ∧ (∀ d, d ≠ c.val → t.call d = s.call d) ∧
      (∀ p : Party, (s.call c).caller = some p ∨ (s.call c).answerer = some p →
        t.handset p = { s.handset p with current := (s.handset p).current.filter (· ≠ .intercom c) }) ∧
      (∀ p : Party, (∀ q, (s.call c).caller = some q ∨ (s.call c).answerer = some q → p.place ≠ q.place) → t.handset p = s.handset p) ∧
      (∀ q < 32, (t.position q).reach.getLsbD c = false) ∧ Leaves s t [.events, .alarms, .hc, .ra]

/-- A message for a circuit in UNINSTALLED raises SIGNAL_UNKNOWN, and one that its circuit's state does not allow raises SIGNAL_STATE;
neither has another effect: the fault is logged, as a double record when it takes the last place; with 16 unread records it puts the part in
LOCKDOWN; in LOCKDOWN it is counted. A message that is ignored changes nothing (R40, R42 to R47, R165 to R167, R177). -/
def Obligations.LinkMessagesFaultOrAreIgnored : Prop :=
  ∀ (c : Fin 256) (i : Instr) (s : State), s.bi.held = [] →
    (∀ code, (code = FaultCode.signalUnknown ∧ (s.circuit c).state = .uninstalled ∧
          i ∈ [Instr.seizeAck c, .ringDetect c, .farAnswer c, .farClear c, .circuitDown c, .circuitUp c, .resetDone c]) ∨
        (code = .signalState ∧ wrongState s c i) → linkActive s = true → s.eu.evtHead < 256 → s.eu.unread ≤ 254 →
      (s.su.part ≠ .lockdown → s.eu.unreadFaults ≤ 15 →
        ∃ t, exec i s = .next t ∧
          Logged s t { code := code, ext := true, table := false, subject := c } (decide (s.eu.unreadFaults = 15)) ∧
          Leaves s t [.events, .alarms]) ∧
      (s.su.part ≠ .lockdown → s.eu.unreadFaults = 16 →
        ∃ t, exec i s = .next t ∧ t.su = { s.su with part := .lockdown, load := none } ∧ t.eu.cause = some code ∧
          t.eu.unlogged = 1 ∧ t.eu.fltHead = s.eu.fltHead ∧ t.eu.fault = s.eu.fault ∧ t.re.take = .idle ∧
          EventAt t s.eu.evtHead (.partState .lockdown s.su.part .doubleFault) s.frame ∧ Leaves s t [.take, .events, .alarms, .su]) ∧
      (s.su.part = .lockdown →
        ∃ t, exec i s = .next t ∧ t.eu = { s.eu with unlogged := min (s.eu.unlogged + 1) 65535, attention := t.eu.attention } ∧
          Leaves s t [.alarms])) ∧
    (ignoredMessage s c i → ∃ t, exec i s = .next t ∧ Leaves s t [])

/-! ## Requests -/

/-- An idle engine begins to take the request at the head of the ring, or waits when 8 or fewer event entries are free; the words it takes
are the sixteen of the slot; a fetch in flight reads the words it has left in its turns; a request whose code names none
completes with BAD_CODE, and one that names a position or a handset is refused, with no effect, by the first check that fails (R145 to R147,
R149; for the moment at which the words are read log 3). -/
def Obligations.RequestsAreFetched : Prop :=
  (∀ s : State, s.re.take = .idle → s.bi.held = [] →
    ∃ t, exec .requestFetch s = .next t ∧
      t.re = { s.re with
        take := if servesRing s = true ∧ s.re.pendingCount ≠ 0 then (if 8 < s.eu.free then .fetching [] else .waitingForRoom) else .idle } ∧
      (servesRing s = true → s.re.pendingCount ≠ 0 → 8 < s.eu.free →
        fetched t = some ((List.range 16).map fun i => partRead t (requestOffset s.re.head + i))) ∧
      Leaves s t [.take]) ∧
  (∀ (s : State) (ws : List Word), Ready s (requestCode ws) ws 1 → requestCodes.contains (requestCode ws) = false →
    ∃ t, exec .badCode s = .next t ∧ Completed s t ws .badCode 0#32 0#32 ∧ Leaves s t [.ring, .take, .events]) ∧
  (∀ (i : Instr) (code : Nat) (s : State), (i, code) ∈ requestsByCode → fetchedCode s (· = code) = true →
    accessesLeft (finishReads s .fetch) .fetch = 0 → exec i s = exec i (finishReads s .fetch)) ∧
  (∀ (i : Instr) (code : Nat) (s : State) (ws : List Word) (r : Result), (i, code) ∈ handsetRequests ++ positionRequests →
    Ready s code ws 1 →
    (r = .badPosition ∧ s.su.positionCount ≤ requestPosition ws) ∨
      (r = .positionOff ∧ requestPosition ws < s.su.positionCount ∧ (s.position (requestPosition ws)).applied.enabled = false) ∨
      (r = .badHandset ∧ (i, code) ∈ handsetRequests ∧ requestPosition ws < s.su.positionCount ∧
        (s.position (requestPosition ws)).applied.enabled = true ∧
        (if requestHandset ws = 0 then (s.position (requestPosition ws)).applied.present0
         else (s.position (requestPosition ws)).applied.present1) = false) →
    ∃ t, exec i s = .next t ∧ Completed s t ws r 0#32 0#32 ∧ Leaves s t [.ring, .take, .events])

/-- NOP changes nothing; its REQ_DONE carries OK and the number of requests pending behind it (R153). That the count
stands in the first detail word, and 0 in the second, is the model's reading (log 16). -/
def Obligations.NopReportsPendingCount : Prop :=
  ∀ (s : State) (ws : List Word), Ready s 0x00 ws 1 →
    ∃ t, exec .nop s = .next t ∧ Completed s t ws .ok (natWord ((s.re.tail + 64 - s.re.head - 1) % 64)) 0#32 ∧
      Leaves s t [.ring, .take, .events]

/-- RESUME in RUNNING gives NO_CHANGE; in QUIESCED the part enters RUNNING, PART_STATE stands before REQ_DONE, and the result is OK; nothing
else changes (R180). -/
def Obligations.ResumeEntersRunning : Prop :=
  ∀ (s : State) (ws : List Word), Ready s 0x71 ws 2 →
    (s.su.part = .running → ∃ t, exec .resume s = .next t ∧ Completed s t ws .noChange 0#32 0#32 ∧ Leaves s t [.ring, .take, .events]) ∧
    (s.su.part = .quiesced →
      ∃ t, exec .resume s = .next t ∧ t.su = { s.su with part := .running } ∧
        EventAt t s.eu.evtHead (.partState .running .quiesced .resume) s.frame ∧ Completed s t ws .ok 0#32 0#32 ∧
        Leaves s t [.ring, .take, .events, .su])

/-- QUIESCE enters QUIESCED with PART_STATE; MEASURE_MODE takes the global mode and reports it; SET_ATTENTION takes the five mask flags
(R114, R160, R179; for the place of the reported mode log 16). -/
def Obligations.ModeRequestsTakeEffect : Prop :=
  ∀ (s : State) (ws : List Word),
    (Ready s 0x70 ws 2 → s.su.part = .running →
      ∃ t, exec .quiesce s = .next t ∧ t.su = { s.su with part := .quiesced } ∧
        EventAt t s.eu.evtHead (.partState .quiesced .running .quiesce) s.frame ∧ Completed s t ws .ok 0#32 0#32 ∧
        Leaves s t [.ring, .take, .events, .su]) ∧
    (Ready s 0x70 ws 2 → s.su.part = .quiesced →
      ∃ t, exec .quiesce s = .next t ∧ Completed s t ws .noChange 0#32 0#32 ∧ Leaves s t [.ring, .take, .events]) ∧
    (∀ enable, Ready s 0x50 ws 1 → onOff (param ws 1) = some enable → param ws 2 ≤ 1 →
      ∃ t, exec .measureMode s = .next t ∧ t.um.enable = enable ∧ t.um.format = param ws 2 ∧ t.um.updates = s.um.updates ∧
        Completed s t ws (if s.um.enable = enable ∧ s.um.format = param ws 2 then .noChange else .ok) (flagWord enable)
          (natWord (param ws 2)) ∧ Leaves s t [.ring, .take, .events, .um]) ∧
    (Ready s 0x50 ws 1 → 1 < param ws 1 ∨ 1 < param ws 2 →
      ∃ t, exec .measureMode s = .next t ∧ Completed s t ws .badParam (flagWord s.um.enable) (natWord s.um.format) ∧
        Leaves s t [.ring, .take, .events]) ∧
    (Ready s 0x60 ws 1 →
      ∃ t, exec .setAttention s = .next t ∧
        t.eu = { s.eu with
          mask := (wordOf ws 1).setWidth 5, evtHead := (s.eu.evtHead + 1) % 256, attention := attentionOf t.eu s.su.part } ∧
        Completed s t ws (if s.eu.mask = (wordOf ws 1).setWidth 5 then .noChange else .ok) 0#32 0#32 ∧
        Leaves s t [.ring, .take, .events, .alarms])

/-- SPEAKER_SET tunes a channel to a source its position may hear, and ends PTT on it; the other results leave the mixer as it was.
SPEAKER_VOLUME sets a channel's volume code, at most 15; PTT turns a channel's talk on where the configuration allows it and its source can be
talked to, and off. A channel above 7, a source kind, mix or direction out of range, and PTT on where it is not allowed, where there is no
source or where its bridge has no such member in service, give BAD_PARAM (R93 to R96). -/
def Obligations.SpeakerRequestsTakeEffect : Prop :=
  (∀ (s : State) (ws : List Word) (p i : Nat) (src : Source) (m : Mix) (c : ChanRun), Ready s 0x40 ws 1 → FromPosition s ws p →
      param ws 1 = i → i < 8 → sourceOf (param ws 2) (param ws 3) = some src → mixOf (param ws 4) = some m →
      c = Table.get ChanRun.cold (s.speaker p).channels i →
      (tunable s src = true → mayHear s p src = true → ¬(c.source = src ∧ c.mix = m ∧ (s.speaker p).ptt ≠ some i) →
        ∃ t, exec .speakerSet s = .next t ∧
          t.speaker p = {
            channels := Table.put ChanRun.cold (s.speaker p).channels i { c with source := src, mix := m }
            ptt := if (s.speaker p).ptt = some i then none else (s.speaker p).ptt } ∧
          (∀ q, q ≠ p → t.speaker q = s.speaker q) ∧ (t.mx.bridges, t.mx.snapshot, t.mx.out) = (s.mx.bridges, s.mx.snapshot, s.mx.out) ∧
          Finished s t ws .ok ∧ Leaves s t [.ring, .take, .events, .alarms, .mx, .ra]) ∧
      (tunable s src = false ∨ mayHear s p src = false ∨ (c.source = src ∧ c.mix = m ∧ (s.speaker p).ptt ≠ some i) →
        ∃ t, exec .speakerSet s = .next t ∧
          Completed s t ws (if tunable s src = false then .badParam else if mayHear s p src = false then .access else .noChange) 0#32 0#32 ∧
          Leaves s t [.ring, .take, .events])) ∧
  (∀ (i : Instr) (s : State) (ws : List Word) (p : Nat), FromPosition s ws p →
      (i = .speakerSet ∧ Ready s 0x40 ws 1 ∧ (8 ≤ param ws 1 ∨ 3 ≤ param ws 2 ∨ 2 ≤ param ws 4)) ∨
      (i = .speakerVolume ∧ Ready s 0x41 ws 1 ∧ 8 ≤ param ws 1) ∨
      (i = .ptt ∧ Ready s 0x42 ws 1 ∧ (8 ≤ param ws 1 ∨ 2 ≤ param ws 2 ∨
        (param ws 2 = 1 ∧ ((Table.get ChanConfig.cold (s.position p).applied.channels (param ws 1)).pttAllowed = false ∨
          (Table.get ChanRun.cold (s.speaker p).channels (param ws 1)).source = .none ∨
          mayTalk s p (Table.get ChanRun.cold (s.speaker p).channels (param ws 1)).source = false)))) →
      ∃ t, exec i s = .next t ∧ Completed s t ws .badParam 0#32 0#32 ∧ Leaves s t [.ring, .take, .events]) ∧
  (∀ (s : State) (ws : List Word) (p i : Nat) (c : ChanRun), FromPosition s ws p → param ws 1 = i → i < 8 →
      c = Table.get ChanRun.cold (s.speaker p).channels i →
      (Ready s 0x41 ws 1 → c.volume ≠ min (param ws 2) 15 →
        ∃ t, exec .speakerVolume s = .next t ∧
          t.speaker p = { s.speaker p with
            channels := Table.put ChanRun.cold (s.speaker p).channels i { c with volume := min (param ws 2) 15 } } ∧
          (∀ q, q ≠ p → t.speaker q = s.speaker q) ∧ (t.mx.bridges, t.mx.snapshot, t.mx.out) = (s.mx.bridges, s.mx.snapshot, s.mx.out) ∧
          Finished s t ws .ok ∧ Leaves s t [.ring, .take, .events, .alarms, .mx, .ra]) ∧
      (Ready s 0x41 ws 1 → c.volume = min (param ws 2) 15 →
        ∃ t, exec .speakerVolume s = .next t ∧ Completed s t ws .noChange 0#32 0#32 ∧ Leaves s t [.ring, .take, .events]) ∧
      (Ready s 0x42 ws 1 → param ws 2 = 1 → (Table.get ChanConfig.cold (s.position p).applied.channels i).pttAllowed = true →
        c.source ≠ .none → mayTalk s p c.source = true →
        ∃ t, exec .ptt s = .next t ∧ t.speaker p = { s.speaker p with ptt := some i } ∧ (∀ q, q ≠ p → t.speaker q = s.speaker q) ∧
          (t.mx.bridges, t.mx.snapshot, t.mx.out) = (s.mx.bridges, s.mx.snapshot, s.mx.out) ∧
          Completed s t ws (if (s.speaker p).ptt = some i then .noChange else .ok) 0#32 0#32 ∧
          Leaves s t [.ring, .take, .events, .mx]) ∧
      (Ready s 0x42 ws 1 → param ws 2 = 0 →
        ∃ t, exec .ptt s = .next t ∧
          t.speaker p = { s.speaker p with ptt := if (s.speaker p).ptt = some i then none else (s.speaker p).ptt } ∧
          (∀ q, q ≠ p → t.speaker q = s.speaker q) ∧
          (t.mx.bridges, t.mx.snapshot, t.mx.out) = (s.mx.bridges, s.mx.snapshot, s.mx.out) ∧
          Completed s t ws (if (s.speaker p).ptt = some i then .ok else .noChange) 0#32 0#32 ∧
          Leaves s t [.ring, .take, .events, .mx]))

/-- PRIVACY sets or clears a line's setter, or is refused, as its checks say (R23). -/
def Obligations.PrivacySetsOrClearsTheSetter : Prop :=
  ∀ (s : State) (ws : List Word) (p : Party) (n : Nat), Ready s 0x12 ws 1 → FromHandset s ws p → param ws 1 = n →
    (n < s.su.lineCount → param ws 2 ≤ 1 →
      ∃ t, exec .privacy s = .next t ∧
        t.line n = { s.line n with
          setter :=
            if param ws 2 = 1 ∧ isActive (s.line n) p = true ∧ (s.line n).setter = none then some p
            else if param ws 2 = 0 ∧ (s.line n).setter = some p then none else (s.line n).setter } ∧
        (∀ m, m ≠ n → t.line m = s.line m) ∧
        Completed s t ws
          (if param ws 2 = 1 then
            (if isActive (s.line n) p = false then .badParam else if (s.line n).setter = none then .ok
             else if (s.line n).setter = some p then .noChange else .privateLine)
           else if (s.line n).setter = none then .noChange else if (s.line n).setter = some p then .ok else .privateLine) 0#32 0#32 ∧
        Leaves s t [.ring, .take, .events, .lc]) ∧
    (s.su.lineCount ≤ n ∨ 1 < param ws 2 →
      ∃ t, exec .privacy s = .next t ∧ Completed s t ws .badParam 0#32 0#32 ∧ Leaves s t [.ring, .take, .events])

/-- FORCE_RELEASE, and LINE_SERVICE out, of a line in a call force it off: every handset is dropped and the line is CLEARING, after
LINE_SERVICE with pending cause ADMIN. LINE_SERVICE takes an IDLE line, and one with cause NO_PATH, out of service and brings a line that is
not NAILED back from cause ADMIN; in CLEARING it sets and clears what guard expiry will do; elsewhere it is NO_CHANGE, as FORCE_RELEASE is
of a line in no call, and BAD_PARAM of an unconfigured line (R18, R24 to R26, R54, R116, R119; for the frame of a change of cause alone log
15). -/
def Obligations.ForceReleaseAndLineService : Prop :=
  ∀ (s : State) (ws : List Word) (n : Nat), param ws 1 = n →
  (∀ i pend, n < s.su.lineCount → (s.line n).state.inCall = true →
      (i = .forceRelease ∧ Ready s 0x13 ws 1 ∧ pend = (s.line n).pendingAdmin) ∨
        (i = .lineService ∧ Ready s 0x14 ws 1 ∧ param ws 2 = 0 ∧ pend = true) →
      ∃ t, exec i s = .next t ∧
        t.line n = { clearingAfter (s.line n) (s.frame + 8000#48) s.frame with pendingAdmin := pend } ∧ ForcedOff s t n ∧
        Finished s t ws .ok ∧ Leaves s t [.ring, .take, .events, .alarms, .lc, .cc, .link, .hc, .ra, .um, .meter]) ∧
  (Ready s 0x13 ws 1 → s.su.lineCount ≤ n ∨ (s.line n).state.inCall = false →
      ∃ t, exec .forceRelease s = .next t ∧ Completed s t ws (if s.su.lineCount ≤ n then .badParam else .noChange) 0#32 0#32 ∧
        Leaves s t [.ring, .take, .events]) ∧
  (Ready s 0x14 ws 2 → n < s.su.lineCount →
      (param ws 2 = 0 → (s.line n).state = .idle ∨ (s.line n).state = .outOfService .noPath →
        ∃ t, exec .lineService s = .next t ∧
          t.line n = { s.line n with state := .outOfService .admin, lastChange := s.frame, setter := none, callCopy := none } ∧
          EventAt t s.eu.evtHead (.lineState n (s.line n).state (.outOfService .admin) .request) s.frame ∧
          Completed s t ws .ok 0#32 0#32 ∧
          (∀ m, m ≠ n → t.line m = s.line m) ∧ Leaves s t [.ring, .take, .events, .lc, .cc]) ∧
      (param ws 2 = 1 → (s.line n).applied.enabled = true → (s.line n).state = .outOfService .admin → (s.line n).eff.kind ≠ .nailed →
        ∃ t, exec .lineService s = .next t ∧
          t.line n = { s.line n with state := .idle, lastChange := s.frame, setter := none, callCopy := none } ∧
          EventAt t s.eu.evtHead (.lineState n (.outOfService .admin) .idle .request) s.frame ∧ Completed s t ws .ok 0#32 0#32 ∧
          (∀ m, m ≠ n → t.line m = s.line m) ∧ Leaves s t [.ring, .take, .events, .lc, .cc]) ∧
      ((s.line n).state = .clearing → param ws 2 ≤ 1 → (param ws 2 = 1 → (s.line n).applied.enabled = true) →
        ∃ t, exec .lineService s = .next t ∧ t.line n = { s.line n with pendingAdmin := decide (param ws 2 = 0) } ∧
          Completed s t ws (if (s.line n).pendingAdmin = decide (param ws 2 = 0) then .noChange else .ok) 0#32 0#32 ∧
          (∀ m, m ≠ n → t.line m = s.line m) ∧ Leaves s t [.ring, .take, .events, .lc])) ∧
  (∀ r, Ready s 0x14 ws 1 →
      (r = .badParam ∧ (s.su.lineCount ≤ n ∨ 1 < param ws 2 ∨ (param ws 2 = 1 ∧ (s.line n).applied.enabled = false))) ∨
        (r = .noChange ∧ n < s.su.lineCount ∧
          ((param ws 2 = 0 ∧ (s.line n).state = .outOfService .admin) ∨
           (param ws 2 = 1 ∧ (s.line n).applied.enabled = true ∧
            ((s.line n).state = .idle ∨ (s.line n).state.inCall = true ∨
             ((s.line n).state = .outOfService .noPath ∧ (s.line n).eff.kind ≠ .nailed))))) →
      ∃ t, exec .lineService s = .next t ∧ Completed s t ws r 0#32 0#32 ∧ Leaves s t [.ring, .take, .events])

/-- SIGNAL rings a connected MANUAL_RINGDOWN line for a burst of 8000 frames; CIRCUIT_RESET of a circuit without owner puts it in RESETTING
and wants it RESET (R29, R50, R51). -/
def Obligations.SignalAndCircuitReset : Prop :=
  ∀ (s : State) (ws : List Word) (n c : Nat),
    (Ready s 0x20 ws 1 → param ws 1 = n → n < s.su.lineCount → maySignal (s.line n) = true → (s.line n).ringBurst = false →
      (s.line n).active = some c →
      ∃ t, exec .signal s = .next t ∧
        t.line n = { s.line n with ringBurst := true, signalTimer := some (.burst, s.frame + 8000#48) } ∧
        t.circuit c = { s.circuit c with desired := .seizedRinging } ∧ (∀ m, m ≠ n → t.line m = s.line m) ∧
        (∀ d, d ≠ c → t.circuit d = s.circuit d) ∧ Completed s t ws .ok 0#32 0#32 ∧
        Leaves s t [.ring, .take, .events, .lc, .cc, .link]) ∧
    (Ready s 0x20 ws 1 → param ws 1 = n → s.su.lineCount ≤ n ∨ maySignal (s.line n) = false ∨ (s.line n).ringBurst = true →
      ∃ t, exec .signal s = .next t ∧
        Completed s t ws (if s.su.lineCount ≤ n ∨ maySignal (s.line n) = false then .badParam else .noChange) 0#32 0#32 ∧
        Leaves s t [.ring, .take, .events]) ∧
    (Ready s 0x21 ws 1 → param ws 1 = c → c < 256 → (s.circuit c).owner = none → (s.circuit c).state ≠ .uninstalled →
      (s.circuit c).state ≠ .resetting →
      ∃ t, exec .circuitReset s = .next t ∧
        t.circuit c = { s.circuit c with owner := none, state := .resetting, desired := .reset, farHeld := false } ∧
        (∀ m i, i < 4 → positionIn (s.line m).eff.path c = some i → (t.path m).available.getLsbD i = false) ∧
        (∀ d, d ≠ c → t.circuit d = s.circuit d) ∧ Completed s t ws .ok 0#32 0#32 ∧
        Leaves s t [.ring, .take, .events, .cc, .link]) ∧
    (Ready s 0x21 ws 1 → param ws 1 = c → 255 < c ∨ (s.circuit c).state = .uninstalled ∨ (s.circuit c).state = .resetting →
      ∃ t, exec .circuitReset s = .next t ∧
        Completed s t ws (if 255 < c ∨ (s.circuit c).state = .uninstalled then .badParam else .noChange) 0#32 0#32 ∧
        Leaves s t [.ring, .take, .events])

/-- SELECT of a key whose line is IDLE seizes the lowest selectable position: the handset is on the line, the line is CALLING. On a line in
use the handset joins, over a setter with BARGE. The lines of the handset's current set are pushed. A key number above 127 and an empty key
are refused, and then the first check that fails refuses, with no effect but a counted ACCESS or PRIVATE (R7, R9, R11, R20, R21, R30, R53,
R116, R121). A key of a line in RINGING_IN, and a handset in an intercom call, are in AnswerTakesTheOldestRing. -/
def Obligations.SelectTakesOrIsRefusedTheLine : Prop :=
  ∀ (s : State) (ws : List Word) (p : Party), Ready s 0x10 ws 1 → FromHandset s ws p →
    (∀ n j d ns, param ws 1 ≤ 127 → (s.key (128 * p.pos + param ws 1)).lineOf = some n → (s.line n).applied.enabled = true →
      (s.line n).state = .idle → (s.line n).callCopy = none → (s.line n).setter = none →
      positionClass s p.pos ≤ (s.line n).eff.accessClass → (s.handset p).current = ns.map .line → n ∉ ns → n ∉ (s.handset p).hold →
      ns.length + (s.handset p).hold.length ≤ 4 → s.su.part = .running → newPosition s n = some j → (s.line n).eff.path[j]? = some d →
      noRecorder s p n = false →
      ∃ t, exec .select s = .next t ∧ t.handset p = { current := [.line n], hold := (s.handset p).hold ++ ns } ∧ OnlyHandsets s t [p] ∧
        LinesPushed s t p ns ∧
        t.line n = { s.line n with
          participants := (s.line n).participants ++ [{ party := p, mode := .active }]
          setter := if (s.line n).participants = [] ∧ (s.line n).applied.call.privacyDefault = true then some p else none
          callCopy := some (s.line n).applied.call, active := some d, state := .calling, lastChange := s.frame } ∧
        t.circuit d = { s.circuit d with owner := some n, state := .seizing, desired := .seized } ∧ (t.path n).lastUsed = j ∧
        (∀ m, m ≠ n → m ∉ ns → t.line m = s.line m) ∧ (∀ c, c ≠ d → t.circuit c = s.circuit c) ∧ Finished s t ws .ok ∧
        Leaves s t [.ring, .take, .events, .alarms, .lc, .cc, .link, .hc, .ra, .meter]) ∧
    (∀ n ns, param ws 1 ≤ 127 → (s.key (128 * p.pos + param ws 1)).lineOf = some n → MayTake s p n → (s.handset p).current = ns.map .line →
      (s.line n).state = .calling ∨ (s.line n).state = .connected ∨ (s.line n).state = .held →
      (s.line n).participants.length < (if (s.line n).eff.shared = true then 4 else 1) →
      (∀ st ∈ (s.line n).setter, overrides s n p.pos st) → needsChannel s p n = false → s.eu.unread ≤ 253 →
      ∃ t, exec .select s = .next t ∧ t.handset p = { current := [.line n], hold := (s.handset p).hold ++ ns } ∧ OnlyHandsets s t [p] ∧
        LinesPushed s t p ns ∧
        t.line n = { s.line n with
          participants := (s.line n).participants ++ [{ party := p, mode := .active }]
          setter := if (s.line n).participants = [] ∧ (s.line n).eff.privacyDefault = true then some p else (s.line n).setter
          state := if (s.line n).state = .held then .connected else (s.line n).state
          lastChange := if (s.line n).state = .held then s.frame else (s.line n).lastChange } ∧
        (∀ st ∈ (s.line n).setter, (ns = [] → EventAt t s.eu.evtHead (.barge n p st) s.frame) ∧
          ∀ x, s.context n = some x → ∃ y, t.context n = some y ∧ y.barges = x.barges + 1) ∧
        (∀ m, m ≠ n → m ∉ ns → t.line m = s.line m) ∧ Finished s t ws .ok ∧
        Leaves s t [.ring, .take, .events, .alarms, .lc, .hc, .ra, .meter]) ∧
    (∀ n r, param ws 1 ≤ 127 → (s.key (128 * p.pos + param ws 1)).lineOf = some n → selectRefused s p n r →
      ∃ t, exec .select s = .next t ∧ Completed s t ws r 0#32 0#32 ∧
        (if r = .access ∨ r = .privateLine then UpdatesAre s t (countRefusal s n).um.updates else UpdatesAre s t s.um.updates) ∧
        Leaves s t [.ring, .take, .events, .um]) ∧
    (127 < param ws 1 ∨ (param ws 1 ≤ 127 ∧ s.key (128 * p.pos + param ws 1) = .empty) →
      ∃ t, exec .select s = .next t ∧ Completed s t ws (if 127 < param ws 1 then .badParam else .emptyKey) 0#32 0#32 ∧
        Leaves s t [.ring, .take, .events])

/-- ANSWER takes the line at the head of the position's alert list, and SELECT the ringing line of its key: the ring ends everywhere, the
handset is on the line, the lines of its current set are pushed, and the line is CONNECTED with its circuit wanted SEIZED; an empty list gives
NOT_ALERTING. A handset in an intercom call that takes a line by either request leaves the call, which ends with cause LEFT (R15, R20 to R22,
R36, R53, R66, R72; for the fields of the freed record log 38). -/
def Obligations.AnswerTakesTheOldestRing : Prop :=
  ∀ (s : State) (ws : List Word) (p : Party) (i : Instr), FromHandset s ws p →
    (∀ n ns c, (i = .answer ∧ Ready s 0x11 ws 1 ∧ (s.alertList p.pos).head? = some n) ∨
        (i = .select ∧ Ready s 0x10 ws 1 ∧ param ws 1 ≤ 127 ∧ (s.key (128 * p.pos + param ws 1)).lineOf = some n) →
      (s.line n).applied.enabled = true → (s.line n).state = .ringingIn →
      (s.line n).setter = none → (s.line n).active = some c → positionClass s p.pos ≤ (s.line n).eff.accessClass →
      (s.handset p).current = ns.map .line → n ∉ ns → n ∉ (s.handset p).hold → ns.length + (s.handset p).hold.length ≤ 4 →
      noRecorder s p n = false →
      ∃ t, exec i s = .next t ∧ t.handset p = { current := [.line n], hold := (s.handset p).hold ++ ns } ∧ OnlyHandsets s t [p] ∧
        LinesPushed s t p ns ∧
        t.line n = { s.line n with
          participants := (s.line n).participants ++ [{ party := p, mode := .active }]
          setter := if (s.line n).participants = [] ∧ (s.line n).eff.privacyDefault = true then some p else none
          state := .connected, lastChange := s.frame, stateTimer := none } ∧
        t.circuit c = { s.circuit c with desired := .seized } ∧ (∀ q, n ∉ t.alertList q) ∧
        (∀ m, m ≠ n → m ∉ ns → t.line m = s.line m) ∧ (∀ d, d ≠ c → t.circuit d = s.circuit d) ∧ Finished s t ws .ok ∧
        Leaves s t [.ring, .take, .events, .alarms, .lc, .cc, .link, .hc, .ra]) ∧
    (∀ n x, (i = .answer ∧ Ready s 0x11 ws 1 ∧ (s.alertList p.pos).head? = some n) ∨
        (i = .select ∧ Ready s 0x10 ws 1 ∧ param ws 1 ≤ 127 ∧ (s.key (128 * p.pos + param ws 1)).lineOf = some n) →
      MayTake s p n → takeable s n p.pos → (s.handset p).current = [.intercom x] → needsChannel s p n = false → s.eu.unread ≤ 253 →
      ∃ t, exec i s = .next t ∧ t.handset p = { s.handset p with current := [.line n] } ∧ CallLeft s t x p ∧
        EventAt t s.eu.evtHead (.icmEnd x (.left p) (s.call x).state) s.frame ∧
        { party := p, mode := .active } ∈ (t.line n).participants ∧ (∀ m, m ≠ n → t.line m = s.line m) ∧ Finished s t ws .ok ∧
        Leaves s t [.ring, .take, .events, .alarms, .lc, .cc, .link, .hc, .ra, .meter]) ∧
    (i = .answer → Ready s 0x11 ws 1 → s.alertList p.pos = [] →
      ∃ t, exec .answer s = .next t ∧ Completed s t ws .notAlerting 0#32 0#32 ∧ Leaves s t [.ring, .take, .events])

/-- A request that needs a recorder channel which cannot be obtained is refused with NO_RECORDER and a RECORDER occurrence. Otherwise the
port takes the channel that served it last while that lingers, else the head of the free list; with none free it takes the channel of the
most recent WANTED holder, a speaker port first, which waits (R101 to R103, R105, R106). -/
def Obligations.RequestsObtainRecorderChannels : Prop :=
  ∀ (s : State) (ws : List Word) (p : Party) (n q : Nat), FromHandset s ws p → q = handsetPort p →
    (∀ i, (i = .select ∧ Ready s 0x10 ws 1 ∧ param ws 1 ≤ 127 ∧ (s.key (128 * p.pos + param ws 1)).lineOf = some n ∧ MayTake s p n ∧
          takeable s n p.pos) ∨
        (i = .answer ∧ Ready s 0x11 ws 1 ∧ (s.alertList p.pos).head? = some n ∧ MayTake s p n ∧ takeable s n p.pos) ∨
        (i = .retrieve ∧ Ready s 0x32 ws 1 ∧ param ws 1 = n ∧ n < s.su.lineCount ∧ n ∈ (s.handset p).hold ∧
          (s.handset p).hold.length - 1 + (currentLines (s.handset p).current).length ≤ 4) ∨
        (i = .join ∧ Ready s 0x33 ws 1 ∧ (∃ m, (s.handset p).current = [.line m]) ∧ (s.handset p).hold.getLast? = some n) →
      (s.line n).applied.recordLevel = .required → (s.port q).channel = none → s.ra.freeList = [] →
      (∀ ch ∈ s.ra.order, ∀ v, (s.channel ch).state = .assigned v → (s.port v).level ≠ .wanted) →
      ∃ t, exec i s = .next t ∧ Completed s t ws .noRecorder 0#32 0#32 ∧
        t.eu = { s.eu with
          evtHead := (s.eu.evtHead + 1) % 256, recorder := s.eu.recorder.occur, attention := attentionOf t.eu s.su.part } ∧
        Leaves s t [.ring, .take, .events, .alarms]) ∧
    (Ready s 0x10 ws 1 → param ws 1 ≤ 127 → (s.key (128 * p.pos + param ws 1)).lineOf = some n → MayTake s p n →
      (s.line n).state = .idle → takeable s n p.pos → (s.handset p).current = [] → (s.line n).applied.recordLevel = .required →
      s.port q = PortRec.cold → s.ra.waitQueue = [] → p.pos < 32 → p.hs < 2 →
      (∀ ch linger, s.ra.freeList.Nodup →
        ((linger = true ∧ lingerChannel s q = some ch) ∨ (linger = false ∧ lingerChannel s q = none ∧ s.ra.freeList.head? = some ch)) →
        ∃ t, exec .select s = .next t ∧ t.port q = { level := .required, channel := some ch, unrecorded := false } ∧
          t.channel ch = { s.channel ch with state := .assigned q, allocFrame := s.frame } ∧
          t.ra.freeList = s.ra.freeList.filter (· ≠ ch) ∧ t.ra.waitQueue = [] ∧
          EventAt t s.eu.evtHead (.recAlloc ch q none linger s.frame) s.frame ∧
          (∀ d, d ≠ ch → t.channel d = s.channel d) ∧ (∀ v, v ≠ q → t.port v = s.port v) ∧ Finished s t ws .ok) ∧
      (∀ v ch, s.ra.freeList = [] → findVictim s = some v → (s.port v).channel = some ch →
        ∃ t, exec .select s = .next t ∧ t.port q = { level := .required, channel := some ch, unrecorded := false } ∧
          t.channel ch = { s.channel ch with state := .assigned q, allocFrame := s.frame, lastPort := some v } ∧
          t.port v = { s.port v with channel := none } ∧ t.ra.waitQueue = [v] ∧ t.ra.freeList = [] ∧
          EventAt t s.eu.evtHead (.recAlloc ch q (some v) false s.frame) s.frame ∧
          (∀ d, d ≠ ch → t.channel d = s.channel d) ∧ (∀ x, x ≠ q → x ≠ v → t.port x = s.port x) ∧ Finished s t ws .ok)) ∧
    (∀ ns : List Nat, ns = s.ra.order.reverse.filterMap (fun ch => match (s.channel ch).state with
        | .assigned v => if (s.port v).level = .wanted then some v else none
        | _ => none) →
      findVictim s = match ns.find? (fun v => decide (v % 4 = 2 ∨ v % 4 = 3)) with
        | some v => some v
        | none => ns.head?) ∧
    lingerChannel s q = (s.ra.freeList.filter fun ch =>
      decide ((s.channel ch).lastPort = some q ∧ since s (s.channel ch).relFrame ≤ 16000)).getLast?

/-- RELEASE takes the handset off its current line, or off both when two are joined, and resumes the top of its hold stack; a line that is
not NAILED and loses its last handset is CLEARING from CONNECTED or HELD, and from CALLING IDLE at once with its seizure cancelled. RELEASE
of an intercom call ends it, with cause LEFT, and resumes too. With an empty current set the result is NO_CURRENT (R7, R8, R17, R18, R35,
R56, R57, R66, R72, R119; for the fields of the freed record log 38). -/
def Obligations.ReleaseResumesTheTop : Prop :=
  ∀ (s : State) (ws : List Word) (p : Party), Ready s 0x30 ws 1 → FromHandset s ws p →
    (∀ ns : List Nat, ns ≠ [] → ns.Nodup → (s.handset p).current = ns.map .line → (∀ n ∈ ns, n ∉ (s.handset p).hold) →
      ∃ t, exec .release s = .next t ∧ OnlyHandsets s t [p] ∧ TopResumed s t p ∧
        (∀ n ∈ ns,
          (t.line n).participants = (s.line n).participants.filter (fun e => decide (e.party ≠ p)) ∧
          ((∃ e ∈ (s.line n).participants, e.party ≠ p) → (s.line n).state = .connected → (s.line n).eff.kind ≠ .nailed →
            (∃ e ∈ (s.line n).participants, e.party = p) → (∀ e ∈ (s.line n).participants, e.party ≠ p → e.mode = .hold) →
            (t.line n).state = .held) ∧
          ((s.line n).participants = [{ party := p, mode := .active }] → (s.line n).eff.kind ≠ .nailed →
            (s.line n).state = .calling ∨ (s.line n).state = .connected ∨ (s.line n).state = .held →
            t.context n = none ∧ (ns = [n] → UpdatesAre s t (updatesAfter s n id)) ∧
            t.line n =
              (if (s.line n).state = .calling then { idleAfter (s.line n) s.frame with participants := [] }
               else clearingAfter (s.line n) (s.frame + 8000#48) s.frame) ∧
            ∀ c, (s.line n).active = some c → (∀ m ∈ ns, m ≠ n → (s.line m).active ≠ some c) →
              (t.circuit c).desired = .idle ∧ (t.circuit c).farHeld = false ∧
              ((s.line n).state ≠ .calling → (t.circuit c).owner = some n ∧ (t.circuit c).state = .releasing) ∧
              ((s.line n).state = .calling → (t.circuit c).owner = none ∧
                (quiet s c = true → (s.circuit c).farHeld = false →
                  c ∉ t.cc.pendingList ∧ ((t.circuit c).state = .idle ∨ (t.circuit c).state = .uninstalled))))) ∧
        ((∀ n ∈ ns, ∃ e ∈ (s.line n).participants, e.party ≠ p) → UpdatesAre s t s.um.updates) ∧
        (∀ m, m ∉ ns → (s.handset p).hold.getLast? ≠ some m → t.line m = s.line m) ∧ Finished s t ws .ok ∧
        Leaves s t [.ring, .take, .events, .alarms, .lc, .cc, .link, .hc, .ra, .um, .meter]) ∧
    (∀ x, (s.handset p).current = [.intercom x] →
      ∃ t, exec .release s = .next t ∧ CallLeft s t x p ∧ TopResumed s t p ∧
        EventAt t s.eu.evtHead (.icmEnd x (.left p) (s.call x).state) s.frame ∧
        (∀ m, (s.handset p).hold.getLast? ≠ some m → t.line m = s.line m) ∧ Finished s t ws .ok ∧
        Leaves s t [.ring, .take, .events, .alarms, .lc, .hc, .ra]) ∧
    ((s.handset p).current = [] →
      ∃ t, exec .release s = .next t ∧ Completed s t ws .noCurrent 0#32 0#32 ∧ Leaves s t [.ring, .take, .events])

/-- HOLD pushes every current line on the hold stack, the first joined lowest, and each participation is on hold; the refusals of R58 leave
everything. RETRIEVE, or SELECT of a line that the handset holds, takes the line out of the hold stack and pushes the current lines, or ends
the intercom call that is current with cause LEFT; JOIN adds the top held line to one current line; a line in HELD is CONNECTED again. The
first check that fails refuses, with no effect (R8, R20, R53, R58 to R61, R66, R72; for the fields of the freed record log 38). -/
def Obligations.HoldStackRequestsMoveLines : Prop :=
  (∀ (s : State) (ws : List Word) (p : Party), Ready s 0x31 ws 1 → FromHandset s ws p →
      (∀ ns : List Nat, ns ≠ [] → (s.handset p).current = ns.map .line → ns.length + (s.handset p).hold.length ≤ 4 →
        ∃ t, exec .hold s = .next t ∧ t.handset p = { current := [], hold := (s.handset p).hold ++ ns } ∧ OnlyHandsets s t [p] ∧
          (∀ n, (t.line n).participants =
            if n ∈ ns then (s.line n).participants.map fun e => if e.party = p then { e with mode := .hold } else e
            else (s.line n).participants) ∧
          (∀ n ∈ ns, (s.line n).state = .connected → (s.line n).eff.kind ≠ .nailed → (s.line n).participants ≠ [] →
            (∀ e ∈ (s.line n).participants, e.party ≠ p → e.mode = .hold) → (t.line n).state = .held) ∧
          (∀ n, n ∉ ns → t.line n = s.line n) ∧ (t.port (handsetPort p)).level = .none ∧ Finished s t ws .ok ∧
          Leaves s t [.ring, .take, .events, .alarms, .lc, .hc, .ra]) ∧
      ((s.handset p).current = [] ∨ hasIntercom (s.handset p).current = true ∨
          4 < (currentLines (s.handset p).current).length + (s.handset p).hold.length →
        ∃ t, exec .hold s = .next t ∧
          Completed s t ws
            (if (s.handset p).current = [] then .noCurrent
             else if hasIntercom (s.handset p).current = true then .notHoldable else .stackFull) 0#32 0#32 ∧
          Leaves s t [.ring, .take, .events])) ∧
  (∀ (s : State) (ws : List Word) (p : Party) (n : Nat), FromHandset s ws p → noRecorder s p n = false →
      (∀ (i : Instr) (ns : List Nat),
        (i = .retrieve ∧ Ready s 0x32 ws 1 ∧ param ws 1 = n ∧ n < s.su.lineCount) ∨
          (i = .select ∧ Ready s 0x10 ws 1 ∧ param ws 1 ≤ 127 ∧ (s.key (128 * p.pos + param ws 1)).lineOf = some n ∧
            inServiceLine (s.line n)) →
        n ∈ (s.handset p).hold → n ∉ ns →
        (s.handset p).current = ns.map .line → (s.handset p).hold.length - 1 + ns.length ≤ 4 →
        ∃ t, exec i s = .next t ∧ OnlyHandsets s t [p] ∧
          t.handset p = { current := [.line n], hold := (s.handset p).hold.filter (· ≠ n) ++ ns } ∧
          ((s.line n).state = .held → { party := p, mode := .hold } ∈ (s.line n).participants → (t.line n).state = .connected) ∧
          (∀ m, m ≠ n → m ∉ ns → t.line m = s.line m) ∧ Finished s t ws .ok ∧
          Leaves s t [.ring, .take, .events, .alarms, .lc, .hc, .ra]) ∧
      (∀ (i : Instr) (x : Nat),
        (i = .retrieve ∧ Ready s 0x32 ws 1 ∧ param ws 1 = n ∧ n < s.su.lineCount) ∨
          (i = .select ∧ Ready s 0x10 ws 1 ∧ param ws 1 ≤ 127 ∧ (s.key (128 * p.pos + param ws 1)).lineOf = some n ∧
            inServiceLine (s.line n)) →
        n ∈ (s.handset p).hold → (s.handset p).current = [.intercom x] → (s.handset p).hold.length ≤ 5 →
        ∃ t, exec i s = .next t ∧ t.handset p = { current := [.line n], hold := (s.handset p).hold.filter (· ≠ n) } ∧ CallLeft s t x p ∧
          (needsChannel s p n = false → EventAt t s.eu.evtHead (.icmEnd x (.left p) (s.call x).state) s.frame) ∧
          ((s.line n).state = .held → { party := p, mode := .hold } ∈ (s.line n).participants → (t.line n).state = .connected) ∧
          (∀ m, m ≠ n → t.line m = s.line m) ∧ Finished s t ws .ok ∧ Leaves s t [.ring, .take, .events, .alarms, .lc, .hc, .ra]) ∧
      (∀ m, Ready s 0x33 ws 1 → (s.handset p).current = [.line m] → (s.handset p).hold.getLast? = some n →
        ∃ t, exec .join s = .next t ∧ OnlyHandsets s t [p] ∧
          t.handset p = { current := [.line m, .line n], hold := (s.handset p).hold.filter (· ≠ n) } ∧
          ((s.line n).state = .held → { party := p, mode := .hold } ∈ (s.line n).participants → (t.line n).state = .connected) ∧
          (∀ k, k ≠ n → t.line k = s.line k) ∧ Finished s t ws .ok ∧ Leaves s t [.ring, .take, .events, .alarms, .lc, .hc, .ra])) ∧
  (∀ (s : State) (ws : List Word) (p : Party) (i : Instr) (r : Result), FromHandset s ws p →
      (i = .retrieve ∧ Ready s 0x32 ws 1 ∧
          ((r = .badParam ∧ s.su.lineCount ≤ param ws 1) ∨
           (r = .notHeld ∧ param ws 1 < s.su.lineCount ∧ param ws 1 ∉ (s.handset p).hold) ∨
           (r = .stackFull ∧ param ws 1 < s.su.lineCount ∧ param ws 1 ∈ (s.handset p).hold ∧
            4 < (s.handset p).hold.length - 1 + (currentLines (s.handset p).current).length))) ∨
        (i = .join ∧ Ready s 0x33 ws 1 ∧
          ((r = .noCurrent ∧ (s.handset p).current = []) ∨
           (r = .badParam ∧ ((∃ x, (s.handset p).current = [.intercom x]) ∨ 1 < (s.handset p).current.length)) ∨
           (r = .notHeld ∧ (∃ m, (s.handset p).current = [.line m]) ∧ (s.handset p).hold = []))) →
      ∃ t, exec i s = .next t ∧ Completed s t ws r 0#32 0#32 ∧ Leaves s t [.ring, .take, .events])

/-- INTERCOM_CALL to an enabled position, or a page to a group with an enabled member, opens the lowest free record: it reaches the target
alone, or the group's enabled positions but the caller's, and is the handset's current entry. INTERCOM_ANSWER of a call that reaches the
position talks. Current lines are pushed. The first check that fails refuses, with no effect (R53, R66 to R70). -/
def Obligations.IntercomCallsAreMadeAndAnswered : Prop :=
  ∀ (s : State) (ws : List Word) (p : Party) (c : Nat), FromHandset s ws p →
    (∀ ns, (s.handset p).current = ns.map .line → ns.length + (s.handset p).hold.length ≤ 4 →
      (Ready s 0x34 ws 1 → (∃ q, wouldReach s p.pos (param ws 1) (param ws 2) q) → freeCall s = some c → s.su.part = .running →
        ∃ t target, exec .intercomCall s = .next t ∧
          target = (if param ws 1 = 0 then IcmTarget.position (param ws 2) else .group (param ws 2)) ∧
          t.call c = {
            state := if param ws 1 = 0 then .alerting else .paging, caller := some p, target := some target, answerer := none
            start := s.frame, timer := some (s.frame + 240000#48) } ∧
          (∀ d, d ≠ c → t.call d = s.call d) ∧ t.handset p = { current := [.intercom c], hold := (s.handset p).hold ++ ns } ∧
          LinesPushed s t p ns ∧ (∀ r : Party, r.place ≠ p.place → t.handset r = s.handset r) ∧
          (∀ q < 32, (t.position q).reach.getLsbD c = true ↔ wouldReach s p.pos (param ws 1) (param ws 2) q) ∧
          (ns = [] → s.eu.unread ≤ 253 → EventAt t s.eu.evtHead (.icmAlert c p target s.frame) s.frame) ∧
          (∀ m, m ∉ ns → t.line m = s.line m) ∧ Finished s t ws .ok ∧
          Leaves s t [.ring, .take, .events, .alarms, .lc, .hc, .ra]) ∧
      (Ready s 0x35 ws 1 → param ws 1 = c → c < 16 → (s.position p.pos).reach.getLsbD c = true →
        frameLow (s.call c).start = wordOf ws 2 →
        ∃ t, exec .intercomAnswer s = .next t ∧
          t.call c = { s.call c with state := .talking, answerer := some p, timer := none } ∧ (∀ d, d ≠ c → t.call d = s.call d) ∧
          t.handset p = { current := [.intercom c], hold := (s.handset p).hold ++ ns } ∧ LinesPushed s t p ns ∧
          (∀ r : Party, r.place ≠ p.place → t.handset r = s.handset r) ∧ (∀ q < 32, (t.position q).reach.getLsbD c = false) ∧
          (ns = [] → s.eu.unread ≤ 253 → EventAt t s.eu.evtHead (.icmAnswered c (s.call c).caller p) s.frame) ∧
          (∀ m, m ∉ ns → t.line m = s.line m) ∧ Finished s t ws .ok ∧
          Leaves s t [.ring, .take, .events, .alarms, .lc, .hc, .ra])) ∧
    (∀ r, Ready s 0x34 ws 1 → callRefused s p (param ws 1) (param ws 2) r →
      ∃ t, exec .intercomCall s = .next t ∧ Completed s t ws r 0#32 0#32 ∧ Leaves s t [.ring, .take, .events]) ∧
    (∀ r, Ready s 0x35 ws 1 → param ws 1 = c → answerRefused s p c (wordOf ws 2) r →
      ∃ t, exec .intercomAnswer s = .next t ∧ Completed s t ws r 0#32 0#32 ∧ Leaves s t [.ring, .take, .events])

/-! ## Rules of the whole part -/

/-- No request, message, expiry, frame, restart teardown or memory-port step changes an applied configuration, a key, the appearance index or
the part's copies of configuration words; only start-up, loads and processor writes may (R2, R12, R62, R87, R126, R177). -/
def Obligations.OnlyWritesAndLoadsConfigure : Prop :=
  ∀ (i : Instr) (s t : State), mayConfigure i = false → s.bi.held = [] → exec i s = .next t →
    (∀ n, (t.line n).applied = (s.line n).applied) ∧ (∀ p, (t.position p).applied = (s.position p).applied) ∧
    (∀ b, (t.bridge b).applied = (s.bridge b).applied) ∧ t.lc.keys = s.lc.keys ∧ t.lc.appIndex = s.lc.appIndex ∧
    t.bi.copies = s.bi.copies

/-- An event takes the entry at the head while 254 or fewer are unread, its eight words joining the part's writes in order; with 255 unread
it is dropped, counted and marked, and nothing is written (R155). -/
def Obligations.EventsTakeEntriesOrAreDropped : Prop :=
  ∀ (s : State) (e : Event), s.eu.evtHead < 256 → s.eu.evtRead < 256 →
    (s.eu.unread ≤ 254 →
      (issue s e).eu = { s.eu with evtHead := (s.eu.evtHead + 1) % 256 } ∧ (issue s e).eu.unread = s.eu.unread + 1 ∧
      writesOf (issue s e) = writesOf s ++ writesAt (eventOffset s.eu.evtHead) (e.words s.frame) ∧
      EventAt (issue s e) s.eu.evtHead e s.frame) ∧
    (s.eu.unread = 255 →
      issue s e = { s with eu := { s.eu with lost := min (s.eu.lost + 1) 65535, overflow := s.eu.overflow.occur } })
end

