-- ==== Sys2Proof/Laws/Table.lean ====
section
/-!
SUPPORT. The laws of tables: a read after a write, and that every write keeps the canonical form.
-/

namespace Sys2Proof.Table

variable {α : Type}

/-! ## Reading after a write -/

theorem get_insert (d : α) (t : Table α) (i : Nat) (v : α) (j : Nat) : get d (insert t i v) j = if j = i then v else get d t j := by
  induction t with
  | nil => simp [insert, get]
  | cons e t ih =>
    obtain ⟨k, w⟩ := e
    unfold insert
    split
    · simp [get]
    · split
      · subst_vars
        simp only [get]
        split <;> simp_all
      · simp only [get, ih]
        split <;> split <;> simp_all

theorem get_erase (d : α) (t : Table α) (i j : Nat) : get d (erase t i) j = if j = i then d else get d t j := by
  induction t with
  | nil => simp [erase, get]
  | cons e t ih =>
    obtain ⟨k, w⟩ := e
    simp only [erase]
    split
    · simp only [ih, get]
      by_cases hj : j = i <;> simp_all
    · simp only [get, ih]
      split <;> split <;> simp_all

@[simp] theorem get_put [DecidableEq α] (d : α) (t : Table α) (i : Nat) (v : α) (j : Nat) :
    get d (put d t i v) j = if j = i then v else get d t j := by
  unfold put
  split
  · next h => rw [h]; exact get_erase d t i j
  · exact get_insert d t i v j

/-- A number that is not listed holds the default. -/
theorem get_eq_default_of_notMem (d : α) (t : Table α) (i : Nat) (h : i ∉ keys t) : get d t i = d := by
  induction t with
  | nil => rfl
  | cons e t ih =>
    simp only [keys, List.map_cons, List.mem_cons, not_or] at h
    simp only [get, if_neg h.1]
    exact ih h.2

/-- A number that does not hold the default is listed. -/
theorem mem_keys_of_get_ne {d : α} {t : Table α} {i : Nat} (h : get d t i ≠ d) : i ∈ keys t := by
  by_contra hn
  exact h (get_eq_default_of_notMem d t i hn)

/-! ## The canonical form -/

theorem risingFrom_mono {a b : Nat} (h : a ≤ b) (t : Table α) (hb : risingFrom b t = true) : risingFrom a t = true := by
  cases t with
  | nil => rfl
  | cons e t =>
    simp only [risingFrom, Bool.and_eq_true, decide_eq_true_eq] at *
    exact ⟨by omega, hb.2⟩

theorem risingFrom_erase (t : Table α) (i : Nat) : ∀ lo, risingFrom lo t = true → risingFrom lo (erase t i) = true := by
  induction t with
  | nil => intro _ _; rfl
  | cons e t ih =>
    intro lo h
    simp only [risingFrom, Bool.and_eq_true, decide_eq_true_eq] at h
    simp only [erase]
    split
    · exact risingFrom_mono (by omega) _ (ih _ h.2)
    · simp only [risingFrom, Bool.and_eq_true, decide_eq_true_eq]
      exact ⟨h.1, ih _ h.2⟩

theorem risingFrom_insert (t : Table α) (i : Nat) (v : α) :
    ∀ lo, lo ≤ i → risingFrom lo t = true → risingFrom lo (insert t i v) = true := by
  induction t with
  | nil => intro lo hi _; simp [insert, risingFrom, hi]
  | cons e t ih =>
    intro lo hi h
    simp only [risingFrom, Bool.and_eq_true, decide_eq_true_eq] at h
    unfold insert
    split
    · simp only [risingFrom, Bool.and_eq_true, decide_eq_true_eq]
      exact ⟨hi, by omega, h.2⟩
    · split
      · simp only [risingFrom, Bool.and_eq_true, decide_eq_true_eq]
        subst_vars
        exact ⟨hi, h.2⟩
      · simp only [risingFrom, Bool.and_eq_true, decide_eq_true_eq]
        exact ⟨h.1, ih _ (by omega) h.2⟩

theorem mem_erase {t : Table α} {i : Nat} {e : Nat × α} (h : e ∈ erase t i) : e ∈ t := by
  induction t with
  | nil => exact h
  | cons x t ih =>
    simp only [erase] at h
    split at h
    · exact List.mem_cons_of_mem _ (ih h)
    · rcases List.mem_cons.mp h with rfl | h
      · exact List.mem_cons_self
      · exact List.mem_cons_of_mem _ (ih h)

theorem mem_insert {t : Table α} {i : Nat} {v : α} {e : Nat × α} (h : e ∈ insert t i v) : e = (i, v) ∨ e ∈ t := by
  induction t with
  | nil => exact .inl (by simpa [insert] using h)
  | cons x t ih =>
    unfold insert at h
    split at h
    · exact (List.mem_cons.mp h)
    · split at h
      · rcases List.mem_cons.mp h with h | h
        · exact .inl h
        · exact .inr (List.mem_cons_of_mem _ h)
      · rcases List.mem_cons.mp h with rfl | h
        · exact .inr List.mem_cons_self
        · exact (ih h).imp id (List.mem_cons_of_mem _)

/-- Every write keeps the canonical form. -/
theorem wf_put [DecidableEq α] (d : α) (t : Table α) (i : Nat) (v : α) (h : wf d t = true) : wf d (put d t i v) = true := by
  simp only [wf, Bool.and_eq_true, List.all_eq_true, decide_eq_true_eq] at *
  unfold put
  split
  · exact ⟨risingFrom_erase t i 0 h.1, fun e he => h.2 e (mem_erase he)⟩
  · refine ⟨risingFrom_insert t i v 0 (Nat.zero_le _) h.1, fun e he => ?_⟩
    rcases mem_insert he with rfl | he
    · assumption
    · exact h.2 e he

/-! ## Tables made of others -/

/-- Dropping the defaults changes no record, when no number is listed twice. -/
theorem get_filter [DecidableEq α] (d : α) (t : Table α) (hn : (keys t).Nodup) (i : Nat) :
    get d (t.filter fun e => decide (e.2 ≠ d)) i = get d t i := by
  induction t with
  | nil => rfl
  | cons e t ih =>
    obtain ⟨k, v⟩ := e
    simp only [keys, List.map_cons, List.nodup_cons] at hn
    by_cases hv : v = d
    · simp only [List.filter_cons, hv, ne_eq, not_true_eq_false, decide_false, Bool.false_eq_true, if_false]
      rw [ih hn.2, get]
      split
      · next h => subst h; exact get_eq_default_of_notMem d t _ hn.1
      · rfl
    · simp only [List.filter_cons, ne_eq, hv, not_false_eq_true, decide_true, if_true, get, ih hn.2]

theorem get_map (d : α) (is : List Nat) (f : Nat → α) (i : Nat) (h : i ∈ is) : get d (is.map fun i => (i, f i)) i = f i := by
  induction is with
  | nil => cases h
  | cons j is ih =>
    simp only [List.map_cons, get]
    split
    · next h => rw [h]
    · next hn => exact ih ((List.mem_cons.mp h).resolve_left hn)

/-- A table of a function's values reads as the function. -/
theorem get_ofFun [DecidableEq α] (d : α) (n : Nat) (f : Nat → α) (i : Nat) (h : i < n) : get d (ofFun d (List.range n) f) i = f i := by
  unfold ofFun
  rw [get_filter _ _ (by rw [keys, List.map_map]; exact (List.map_id _).symm ▸ List.nodup_range)]
  exact get_map d _ f i (List.mem_range.mpr h)

/-- What holds of the default and of every listed record holds of every record. -/
theorem get_all (d : α) (t : Table α) (P : Nat → α → Prop) (hd : ∀ i, P i d) (ht : ∀ e ∈ t, P e.1 e.2) (i : Nat) : P i (get d t i) := by
  induction t with
  | nil => exact hd i
  | cons e t ih =>
    obtain ⟨k, v⟩ := e
    simp only [get]
    split
    · next h => exact h ▸ ht _ List.mem_cons_self
    · exact ih fun e he => ht e (List.mem_cons_of_mem _ he)

/-- What relates the defaults, and every record to its image, relates every record to the record of the images' table. -/
theorem get_mapVals {β : Type} [DecidableEq β] (a : α) (d : β) (f : Nat → α → β) (t : Table α) (R : Nat → α → β → Prop)
    (hd : ∀ i, R i a d) (hf : ∀ i v, R i v (f i v)) (i : Nat) : R i (get a t i) (get d (mapVals d f t) i) := by
  induction t with
  | nil => exact hd i
  | cons e t ih =>
    obtain ⟨k, v⟩ := e
    by_cases hk : i = k
    · subst hk
      rw [get, if_pos rfl]
      unfold mapVals
      split
      · next h => rw [get_erase, if_pos rfl, ← h]; exact hf _ _
      · rw [get, if_pos rfl]; exact hf _ _
    · rw [get, if_neg hk]
      unfold mapVals
      split
      · rw [get_erase, if_neg hk]; exact ih
      · rw [get, if_neg hk, get_erase, if_neg hk]; exact ih

/-- What holds of every image holds of every record of the images' table. -/
theorem get_mapVals_all {β : Type} [DecidableEq β] (d : β) (f : Nat → α → β) (t : Table α) (P : Nat → β → Prop) (hd : ∀ i, P i d)
    (hf : ∀ i v, P i (f i v)) (i : Nat) : P i (get d (mapVals d f t) i) := by
  cases t with
  | nil => exact hd i
  | cons e t => exact get_mapVals e.2 d f (e :: t) (fun i _ b => P i b) hd hf i

end Sys2Proof.Table
end

