-- ==== Sys2Proof/Laws/State.lean ====
section
/-!
SUPPORT. The laws of the record updates: what each leaves as it was, and what a record reads as after it.
-/

namespace Sys2Proof.Machine

variable (s : State)

/-! ## setLine -/

@[simp] theorem State.setLine_pending (n : Nat) (r : LineRec) : (s.setLine n r).pending = s.pending := rfl
@[simp] theorem State.setLine_mem (n : Nat) (r : LineRec) : (s.setLine n r).mem = s.mem := rfl
@[simp] theorem State.setLine_frame (n : Nat) (r : LineRec) : (s.setLine n r).frame = s.frame := rfl
@[simp] theorem State.setLine_bi (n : Nat) (r : LineRec) : (s.setLine n r).bi = s.bi := rfl
@[simp] theorem State.setLine_re (n : Nat) (r : LineRec) : (s.setLine n r).re = s.re := rfl
@[simp] theorem State.setLine_eu (n : Nat) (r : LineRec) : (s.setLine n r).eu = s.eu := rfl
@[simp] theorem State.setLine_cc (n : Nat) (r : LineRec) : (s.setLine n r).cc = s.cc := rfl
@[simp] theorem State.setLine_hc (n : Nat) (r : LineRec) : (s.setLine n r).hc = s.hc := rfl
@[simp] theorem State.setLine_mx (n : Nat) (r : LineRec) : (s.setLine n r).mx = s.mx := rfl
@[simp] theorem State.setLine_ra (n : Nat) (r : LineRec) : (s.setLine n r).ra = s.ra := rfl
@[simp] theorem State.setLine_um (n : Nat) (r : LineRec) : (s.setLine n r).um = s.um := rfl
@[simp] theorem State.setLine_su (n : Nat) (r : LineRec) : (s.setLine n r).su = s.su := rfl
@[simp] theorem State.setLine_lc_keys (n : Nat) (r : LineRec) : (s.setLine n r).lc.keys = s.lc.keys := rfl
@[simp] theorem State.setLine_lc_appIndex (n : Nat) (r : LineRec) : (s.setLine n r).lc.appIndex = s.lc.appIndex := rfl
@[simp] theorem State.setLine_lc_alerts (n : Nat) (r : LineRec) : (s.setLine n r).lc.alerts = s.lc.alerts := rfl
@[simp] theorem State.setLine_line (n : Nat) (r : LineRec) (m : Nat) :
    (s.setLine n r).line m = if m = n then r else s.line m := by
  simp [State.setLine, State.line]
@[simp] theorem State.setLine_key (n : Nat) (r : LineRec) (m : Nat) : (s.setLine n r).key m = s.key m := rfl
@[simp] theorem State.setLine_appEntries (n : Nat) (r : LineRec) (m : Nat) : (s.setLine n r).appEntries m = s.appEntries m := rfl
@[simp] theorem State.setLine_alertList (n : Nat) (r : LineRec) (m : Nat) : (s.setLine n r).alertList m = s.alertList m := rfl
@[simp] theorem State.setLine_circuit (n : Nat) (r : LineRec) (m : Nat) : (s.setLine n r).circuit m = s.circuit m := rfl
@[simp] theorem State.setLine_path (n : Nat) (r : LineRec) (m : Nat) : (s.setLine n r).path m = s.path m := rfl
@[simp] theorem State.setLine_handset (n : Nat) (r : LineRec) (m : Party) : (s.setLine n r).handset m = s.handset m := rfl
@[simp] theorem State.setLine_call (n : Nat) (r : LineRec) (m : Nat) : (s.setLine n r).call m = s.call m := rfl
@[simp] theorem State.setLine_position (n : Nat) (r : LineRec) (m : Nat) : (s.setLine n r).position m = s.position m := rfl
@[simp] theorem State.setLine_speaker (n : Nat) (r : LineRec) (m : Nat) : (s.setLine n r).speaker m = s.speaker m := rfl
@[simp] theorem State.setLine_bridge (n : Nat) (r : LineRec) (m : Nat) : (s.setLine n r).bridge m = s.bridge m := rfl
@[simp] theorem State.setLine_channel (n : Nat) (r : LineRec) (m : Nat) : (s.setLine n r).channel m = s.channel m := rfl
@[simp] theorem State.setLine_port (n : Nat) (r : LineRec) (m : Nat) : (s.setLine n r).port m = s.port m := rfl
@[simp] theorem State.setLine_context (n : Nat) (r : LineRec) (m : Nat) : (s.setLine n r).context m = s.context m := rfl

/-! ## setKeyVal -/

@[simp] theorem State.setKeyVal_pending (n : Nat) (r : KeyVal) : (s.setKeyVal n r).pending = s.pending := rfl
@[simp] theorem State.setKeyVal_mem (n : Nat) (r : KeyVal) : (s.setKeyVal n r).mem = s.mem := rfl
@[simp] theorem State.setKeyVal_frame (n : Nat) (r : KeyVal) : (s.setKeyVal n r).frame = s.frame := rfl
@[simp] theorem State.setKeyVal_bi (n : Nat) (r : KeyVal) : (s.setKeyVal n r).bi = s.bi := rfl
@[simp] theorem State.setKeyVal_re (n : Nat) (r : KeyVal) : (s.setKeyVal n r).re = s.re := rfl
@[simp] theorem State.setKeyVal_eu (n : Nat) (r : KeyVal) : (s.setKeyVal n r).eu = s.eu := rfl
@[simp] theorem State.setKeyVal_cc (n : Nat) (r : KeyVal) : (s.setKeyVal n r).cc = s.cc := rfl
@[simp] theorem State.setKeyVal_hc (n : Nat) (r : KeyVal) : (s.setKeyVal n r).hc = s.hc := rfl
@[simp] theorem State.setKeyVal_mx (n : Nat) (r : KeyVal) : (s.setKeyVal n r).mx = s.mx := rfl
@[simp] theorem State.setKeyVal_ra (n : Nat) (r : KeyVal) : (s.setKeyVal n r).ra = s.ra := rfl
@[simp] theorem State.setKeyVal_um (n : Nat) (r : KeyVal) : (s.setKeyVal n r).um = s.um := rfl
@[simp] theorem State.setKeyVal_su (n : Nat) (r : KeyVal) : (s.setKeyVal n r).su = s.su := rfl
@[simp] theorem State.setKeyVal_lc_lines (n : Nat) (r : KeyVal) : (s.setKeyVal n r).lc.lines = s.lc.lines := rfl
@[simp] theorem State.setKeyVal_lc_appIndex (n : Nat) (r : KeyVal) : (s.setKeyVal n r).lc.appIndex = s.lc.appIndex := rfl
@[simp] theorem State.setKeyVal_lc_alerts (n : Nat) (r : KeyVal) : (s.setKeyVal n r).lc.alerts = s.lc.alerts := rfl
@[simp] theorem State.setKeyVal_line (n : Nat) (r : KeyVal) (m : Nat) : (s.setKeyVal n r).line m = s.line m := rfl
@[simp] theorem State.setKeyVal_key (n : Nat) (r : KeyVal) (m : Nat) :
    (s.setKeyVal n r).key m = if m = n then r else s.key m := by
  simp [State.setKeyVal, State.key]
@[simp] theorem State.setKeyVal_appEntries (n : Nat) (r : KeyVal) (m : Nat) : (s.setKeyVal n r).appEntries m = s.appEntries m := rfl
@[simp] theorem State.setKeyVal_alertList (n : Nat) (r : KeyVal) (m : Nat) : (s.setKeyVal n r).alertList m = s.alertList m := rfl
@[simp] theorem State.setKeyVal_circuit (n : Nat) (r : KeyVal) (m : Nat) : (s.setKeyVal n r).circuit m = s.circuit m := rfl
@[simp] theorem State.setKeyVal_path (n : Nat) (r : KeyVal) (m : Nat) : (s.setKeyVal n r).path m = s.path m := rfl
@[simp] theorem State.setKeyVal_handset (n : Nat) (r : KeyVal) (m : Party) : (s.setKeyVal n r).handset m = s.handset m := rfl
@[simp] theorem State.setKeyVal_call (n : Nat) (r : KeyVal) (m : Nat) : (s.setKeyVal n r).call m = s.call m := rfl
@[simp] theorem State.setKeyVal_position (n : Nat) (r : KeyVal) (m : Nat) : (s.setKeyVal n r).position m = s.position m := rfl
@[simp] theorem State.setKeyVal_speaker (n : Nat) (r : KeyVal) (m : Nat) : (s.setKeyVal n r).speaker m = s.speaker m := rfl
@[simp] theorem State.setKeyVal_bridge (n : Nat) (r : KeyVal) (m : Nat) : (s.setKeyVal n r).bridge m = s.bridge m := rfl
@[simp] theorem State.setKeyVal_channel (n : Nat) (r : KeyVal) (m : Nat) : (s.setKeyVal n r).channel m = s.channel m := rfl
@[simp] theorem State.setKeyVal_port (n : Nat) (r : KeyVal) (m : Nat) : (s.setKeyVal n r).port m = s.port m := rfl
@[simp] theorem State.setKeyVal_context (n : Nat) (r : KeyVal) (m : Nat) : (s.setKeyVal n r).context m = s.context m := rfl

/-! ## setAppEntries -/

@[simp] theorem State.setAppEntries_pending (n : Nat) (r : List AppEntry) : (s.setAppEntries n r).pending = s.pending := rfl
@[simp] theorem State.setAppEntries_mem (n : Nat) (r : List AppEntry) : (s.setAppEntries n r).mem = s.mem := rfl
@[simp] theorem State.setAppEntries_frame (n : Nat) (r : List AppEntry) : (s.setAppEntries n r).frame = s.frame := rfl
@[simp] theorem State.setAppEntries_bi (n : Nat) (r : List AppEntry) : (s.setAppEntries n r).bi = s.bi := rfl
@[simp] theorem State.setAppEntries_re (n : Nat) (r : List AppEntry) : (s.setAppEntries n r).re = s.re := rfl
@[simp] theorem State.setAppEntries_eu (n : Nat) (r : List AppEntry) : (s.setAppEntries n r).eu = s.eu := rfl
@[simp] theorem State.setAppEntries_cc (n : Nat) (r : List AppEntry) : (s.setAppEntries n r).cc = s.cc := rfl
@[simp] theorem State.setAppEntries_hc (n : Nat) (r : List AppEntry) : (s.setAppEntries n r).hc = s.hc := rfl
@[simp] theorem State.setAppEntries_mx (n : Nat) (r : List AppEntry) : (s.setAppEntries n r).mx = s.mx := rfl
@[simp] theorem State.setAppEntries_ra (n : Nat) (r : List AppEntry) : (s.setAppEntries n r).ra = s.ra := rfl
@[simp] theorem State.setAppEntries_um (n : Nat) (r : List AppEntry) : (s.setAppEntries n r).um = s.um := rfl
@[simp] theorem State.setAppEntries_su (n : Nat) (r : List AppEntry) : (s.setAppEntries n r).su = s.su := rfl
@[simp] theorem State.setAppEntries_lc_lines (n : Nat) (r : List AppEntry) : (s.setAppEntries n r).lc.lines = s.lc.lines := rfl
@[simp] theorem State.setAppEntries_lc_keys (n : Nat) (r : List AppEntry) : (s.setAppEntries n r).lc.keys = s.lc.keys := rfl
@[simp] theorem State.setAppEntries_lc_alerts (n : Nat) (r : List AppEntry) : (s.setAppEntries n r).lc.alerts = s.lc.alerts := rfl
@[simp] theorem State.setAppEntries_line (n : Nat) (r : List AppEntry) (m : Nat) : (s.setAppEntries n r).line m = s.line m := rfl
@[simp] theorem State.setAppEntries_key (n : Nat) (r : List AppEntry) (m : Nat) : (s.setAppEntries n r).key m = s.key m := rfl
@[simp] theorem State.setAppEntries_appEntries (n : Nat) (r : List AppEntry) (m : Nat) :
    (s.setAppEntries n r).appEntries m = if m = n then r else s.appEntries m := by
  simp [State.setAppEntries, State.appEntries]
@[simp] theorem State.setAppEntries_alertList (n : Nat) (r : List AppEntry) (m : Nat) : (s.setAppEntries n r).alertList m = s.alertList m := rfl
@[simp] theorem State.setAppEntries_circuit (n : Nat) (r : List AppEntry) (m : Nat) : (s.setAppEntries n r).circuit m = s.circuit m := rfl
@[simp] theorem State.setAppEntries_path (n : Nat) (r : List AppEntry) (m : Nat) : (s.setAppEntries n r).path m = s.path m := rfl
@[simp] theorem State.setAppEntries_handset (n : Nat) (r : List AppEntry) (m : Party) : (s.setAppEntries n r).handset m = s.handset m := rfl
@[simp] theorem State.setAppEntries_call (n : Nat) (r : List AppEntry) (m : Nat) : (s.setAppEntries n r).call m = s.call m := rfl
@[simp] theorem State.setAppEntries_position (n : Nat) (r : List AppEntry) (m : Nat) : (s.setAppEntries n r).position m = s.position m := rfl
@[simp] theorem State.setAppEntries_speaker (n : Nat) (r : List AppEntry) (m : Nat) : (s.setAppEntries n r).speaker m = s.speaker m := rfl
@[simp] theorem State.setAppEntries_bridge (n : Nat) (r : List AppEntry) (m : Nat) : (s.setAppEntries n r).bridge m = s.bridge m := rfl
@[simp] theorem State.setAppEntries_channel (n : Nat) (r : List AppEntry) (m : Nat) : (s.setAppEntries n r).channel m = s.channel m := rfl
@[simp] theorem State.setAppEntries_port (n : Nat) (r : List AppEntry) (m : Nat) : (s.setAppEntries n r).port m = s.port m := rfl
@[simp] theorem State.setAppEntries_context (n : Nat) (r : List AppEntry) (m : Nat) : (s.setAppEntries n r).context m = s.context m := rfl

/-! ## setAlertList -/

@[simp] theorem State.setAlertList_pending (n : Nat) (r : List Nat) : (s.setAlertList n r).pending = s.pending := rfl
@[simp] theorem State.setAlertList_mem (n : Nat) (r : List Nat) : (s.setAlertList n r).mem = s.mem := rfl
@[simp] theorem State.setAlertList_frame (n : Nat) (r : List Nat) : (s.setAlertList n r).frame = s.frame := rfl
@[simp] theorem State.setAlertList_bi (n : Nat) (r : List Nat) : (s.setAlertList n r).bi = s.bi := rfl
@[simp] theorem State.setAlertList_re (n : Nat) (r : List Nat) : (s.setAlertList n r).re = s.re := rfl
@[simp] theorem State.setAlertList_eu (n : Nat) (r : List Nat) : (s.setAlertList n r).eu = s.eu := rfl
@[simp] theorem State.setAlertList_cc (n : Nat) (r : List Nat) : (s.setAlertList n r).cc = s.cc := rfl
@[simp] theorem State.setAlertList_hc (n : Nat) (r : List Nat) : (s.setAlertList n r).hc = s.hc := rfl
@[simp] theorem State.setAlertList_mx (n : Nat) (r : List Nat) : (s.setAlertList n r).mx = s.mx := rfl
@[simp] theorem State.setAlertList_ra (n : Nat) (r : List Nat) : (s.setAlertList n r).ra = s.ra := rfl
@[simp] theorem State.setAlertList_um (n : Nat) (r : List Nat) : (s.setAlertList n r).um = s.um := rfl
@[simp] theorem State.setAlertList_su (n : Nat) (r : List Nat) : (s.setAlertList n r).su = s.su := rfl
@[simp] theorem State.setAlertList_lc_lines (n : Nat) (r : List Nat) : (s.setAlertList n r).lc.lines = s.lc.lines := rfl
@[simp] theorem State.setAlertList_lc_keys (n : Nat) (r : List Nat) : (s.setAlertList n r).lc.keys = s.lc.keys := rfl
@[simp] theorem State.setAlertList_lc_appIndex (n : Nat) (r : List Nat) : (s.setAlertList n r).lc.appIndex = s.lc.appIndex := rfl
@[simp] theorem State.setAlertList_line (n : Nat) (r : List Nat) (m : Nat) : (s.setAlertList n r).line m = s.line m := rfl
@[simp] theorem State.setAlertList_key (n : Nat) (r : List Nat) (m : Nat) : (s.setAlertList n r).key m = s.key m := rfl
@[simp] theorem State.setAlertList_appEntries (n : Nat) (r : List Nat) (m : Nat) : (s.setAlertList n r).appEntries m = s.appEntries m := rfl
@[simp] theorem State.setAlertList_alertList (n : Nat) (r : List Nat) (m : Nat) :
    (s.setAlertList n r).alertList m = if m = n then r else s.alertList m := by
  simp [State.setAlertList, State.alertList]
@[simp] theorem State.setAlertList_circuit (n : Nat) (r : List Nat) (m : Nat) : (s.setAlertList n r).circuit m = s.circuit m := rfl
@[simp] theorem State.setAlertList_path (n : Nat) (r : List Nat) (m : Nat) : (s.setAlertList n r).path m = s.path m := rfl
@[simp] theorem State.setAlertList_handset (n : Nat) (r : List Nat) (m : Party) : (s.setAlertList n r).handset m = s.handset m := rfl
@[simp] theorem State.setAlertList_call (n : Nat) (r : List Nat) (m : Nat) : (s.setAlertList n r).call m = s.call m := rfl
@[simp] theorem State.setAlertList_position (n : Nat) (r : List Nat) (m : Nat) : (s.setAlertList n r).position m = s.position m := rfl
@[simp] theorem State.setAlertList_speaker (n : Nat) (r : List Nat) (m : Nat) : (s.setAlertList n r).speaker m = s.speaker m := rfl
@[simp] theorem State.setAlertList_bridge (n : Nat) (r : List Nat) (m : Nat) : (s.setAlertList n r).bridge m = s.bridge m := rfl
@[simp] theorem State.setAlertList_channel (n : Nat) (r : List Nat) (m : Nat) : (s.setAlertList n r).channel m = s.channel m := rfl
@[simp] theorem State.setAlertList_port (n : Nat) (r : List Nat) (m : Nat) : (s.setAlertList n r).port m = s.port m := rfl
@[simp] theorem State.setAlertList_context (n : Nat) (r : List Nat) (m : Nat) : (s.setAlertList n r).context m = s.context m := rfl

/-! ## setCircuit -/

@[simp] theorem State.setCircuit_pending (n : Nat) (r : CircuitRec) : (s.setCircuit n r).pending = s.pending := rfl
@[simp] theorem State.setCircuit_mem (n : Nat) (r : CircuitRec) : (s.setCircuit n r).mem = s.mem := rfl
@[simp] theorem State.setCircuit_frame (n : Nat) (r : CircuitRec) : (s.setCircuit n r).frame = s.frame := rfl
@[simp] theorem State.setCircuit_bi (n : Nat) (r : CircuitRec) : (s.setCircuit n r).bi = s.bi := rfl
@[simp] theorem State.setCircuit_re (n : Nat) (r : CircuitRec) : (s.setCircuit n r).re = s.re := rfl
@[simp] theorem State.setCircuit_eu (n : Nat) (r : CircuitRec) : (s.setCircuit n r).eu = s.eu := rfl
@[simp] theorem State.setCircuit_lc (n : Nat) (r : CircuitRec) : (s.setCircuit n r).lc = s.lc := rfl
@[simp] theorem State.setCircuit_hc (n : Nat) (r : CircuitRec) : (s.setCircuit n r).hc = s.hc := rfl
@[simp] theorem State.setCircuit_mx (n : Nat) (r : CircuitRec) : (s.setCircuit n r).mx = s.mx := rfl
@[simp] theorem State.setCircuit_ra (n : Nat) (r : CircuitRec) : (s.setCircuit n r).ra = s.ra := rfl
@[simp] theorem State.setCircuit_um (n : Nat) (r : CircuitRec) : (s.setCircuit n r).um = s.um := rfl
@[simp] theorem State.setCircuit_su (n : Nat) (r : CircuitRec) : (s.setCircuit n r).su = s.su := rfl
@[simp] theorem State.setCircuit_cc_paths (n : Nat) (r : CircuitRec) : (s.setCircuit n r).cc.paths = s.cc.paths := rfl
@[simp] theorem State.setCircuit_cc_pendingList (n : Nat) (r : CircuitRec) : (s.setCircuit n r).cc.pendingList = s.cc.pendingList := rfl
@[simp] theorem State.setCircuit_cc_sending (n : Nat) (r : CircuitRec) : (s.setCircuit n r).cc.sending = s.cc.sending := rfl
@[simp] theorem State.setCircuit_line (n : Nat) (r : CircuitRec) (m : Nat) : (s.setCircuit n r).line m = s.line m := rfl
@[simp] theorem State.setCircuit_key (n : Nat) (r : CircuitRec) (m : Nat) : (s.setCircuit n r).key m = s.key m := rfl
@[simp] theorem State.setCircuit_appEntries (n : Nat) (r : CircuitRec) (m : Nat) : (s.setCircuit n r).appEntries m = s.appEntries m := rfl
@[simp] theorem State.setCircuit_alertList (n : Nat) (r : CircuitRec) (m : Nat) : (s.setCircuit n r).alertList m = s.alertList m := rfl
@[simp] theorem State.setCircuit_circuit (n : Nat) (r : CircuitRec) (m : Nat) :
    (s.setCircuit n r).circuit m = if m = n then r else s.circuit m := by
  simp [State.setCircuit, State.circuit]
@[simp] theorem State.setCircuit_path (n : Nat) (r : CircuitRec) (m : Nat) : (s.setCircuit n r).path m = s.path m := rfl
@[simp] theorem State.setCircuit_handset (n : Nat) (r : CircuitRec) (m : Party) : (s.setCircuit n r).handset m = s.handset m := rfl
@[simp] theorem State.setCircuit_call (n : Nat) (r : CircuitRec) (m : Nat) : (s.setCircuit n r).call m = s.call m := rfl
@[simp] theorem State.setCircuit_position (n : Nat) (r : CircuitRec) (m : Nat) : (s.setCircuit n r).position m = s.position m := rfl
@[simp] theorem State.setCircuit_speaker (n : Nat) (r : CircuitRec) (m : Nat) : (s.setCircuit n r).speaker m = s.speaker m := rfl
@[simp] theorem State.setCircuit_bridge (n : Nat) (r : CircuitRec) (m : Nat) : (s.setCircuit n r).bridge m = s.bridge m := rfl
@[simp] theorem State.setCircuit_channel (n : Nat) (r : CircuitRec) (m : Nat) : (s.setCircuit n r).channel m = s.channel m := rfl
@[simp] theorem State.setCircuit_port (n : Nat) (r : CircuitRec) (m : Nat) : (s.setCircuit n r).port m = s.port m := rfl
@[simp] theorem State.setCircuit_context (n : Nat) (r : CircuitRec) (m : Nat) : (s.setCircuit n r).context m = s.context m := rfl

/-! ## setPath -/

@[simp] theorem State.setPath_pending (n : Nat) (r : PathRec) : (s.setPath n r).pending = s.pending := rfl
@[simp] theorem State.setPath_mem (n : Nat) (r : PathRec) : (s.setPath n r).mem = s.mem := rfl
@[simp] theorem State.setPath_frame (n : Nat) (r : PathRec) : (s.setPath n r).frame = s.frame := rfl
@[simp] theorem State.setPath_bi (n : Nat) (r : PathRec) : (s.setPath n r).bi = s.bi := rfl
@[simp] theorem State.setPath_re (n : Nat) (r : PathRec) : (s.setPath n r).re = s.re := rfl
@[simp] theorem State.setPath_eu (n : Nat) (r : PathRec) : (s.setPath n r).eu = s.eu := rfl
@[simp] theorem State.setPath_lc (n : Nat) (r : PathRec) : (s.setPath n r).lc = s.lc := rfl
@[simp] theorem State.setPath_hc (n : Nat) (r : PathRec) : (s.setPath n r).hc = s.hc := rfl
@[simp] theorem State.setPath_mx (n : Nat) (r : PathRec) : (s.setPath n r).mx = s.mx := rfl
@[simp] theorem State.setPath_ra (n : Nat) (r : PathRec) : (s.setPath n r).ra = s.ra := rfl
@[simp] theorem State.setPath_um (n : Nat) (r : PathRec) : (s.setPath n r).um = s.um := rfl
@[simp] theorem State.setPath_su (n : Nat) (r : PathRec) : (s.setPath n r).su = s.su := rfl
@[simp] theorem State.setPath_cc_circuits (n : Nat) (r : PathRec) : (s.setPath n r).cc.circuits = s.cc.circuits := rfl
@[simp] theorem State.setPath_cc_pendingList (n : Nat) (r : PathRec) : (s.setPath n r).cc.pendingList = s.cc.pendingList := rfl
@[simp] theorem State.setPath_cc_sending (n : Nat) (r : PathRec) : (s.setPath n r).cc.sending = s.cc.sending := rfl
@[simp] theorem State.setPath_line (n : Nat) (r : PathRec) (m : Nat) : (s.setPath n r).line m = s.line m := rfl
@[simp] theorem State.setPath_key (n : Nat) (r : PathRec) (m : Nat) : (s.setPath n r).key m = s.key m := rfl
@[simp] theorem State.setPath_appEntries (n : Nat) (r : PathRec) (m : Nat) : (s.setPath n r).appEntries m = s.appEntries m := rfl
@[simp] theorem State.setPath_alertList (n : Nat) (r : PathRec) (m : Nat) : (s.setPath n r).alertList m = s.alertList m := rfl
@[simp] theorem State.setPath_circuit (n : Nat) (r : PathRec) (m : Nat) : (s.setPath n r).circuit m = s.circuit m := rfl
@[simp] theorem State.setPath_path (n : Nat) (r : PathRec) (m : Nat) :
    (s.setPath n r).path m = if m = n then r else s.path m := by
  simp [State.setPath, State.path]
@[simp] theorem State.setPath_handset (n : Nat) (r : PathRec) (m : Party) : (s.setPath n r).handset m = s.handset m := rfl
@[simp] theorem State.setPath_call (n : Nat) (r : PathRec) (m : Nat) : (s.setPath n r).call m = s.call m := rfl
@[simp] theorem State.setPath_position (n : Nat) (r : PathRec) (m : Nat) : (s.setPath n r).position m = s.position m := rfl
@[simp] theorem State.setPath_speaker (n : Nat) (r : PathRec) (m : Nat) : (s.setPath n r).speaker m = s.speaker m := rfl
@[simp] theorem State.setPath_bridge (n : Nat) (r : PathRec) (m : Nat) : (s.setPath n r).bridge m = s.bridge m := rfl
@[simp] theorem State.setPath_channel (n : Nat) (r : PathRec) (m : Nat) : (s.setPath n r).channel m = s.channel m := rfl
@[simp] theorem State.setPath_port (n : Nat) (r : PathRec) (m : Nat) : (s.setPath n r).port m = s.port m := rfl
@[simp] theorem State.setPath_context (n : Nat) (r : PathRec) (m : Nat) : (s.setPath n r).context m = s.context m := rfl

/-! ## setPendingList -/

@[simp] theorem State.setPendingList_pending (r : List Nat) : (s.setPendingList r).pending = s.pending := rfl
@[simp] theorem State.setPendingList_mem (r : List Nat) : (s.setPendingList r).mem = s.mem := rfl
@[simp] theorem State.setPendingList_frame (r : List Nat) : (s.setPendingList r).frame = s.frame := rfl
@[simp] theorem State.setPendingList_bi (r : List Nat) : (s.setPendingList r).bi = s.bi := rfl
@[simp] theorem State.setPendingList_re (r : List Nat) : (s.setPendingList r).re = s.re := rfl
@[simp] theorem State.setPendingList_eu (r : List Nat) : (s.setPendingList r).eu = s.eu := rfl
@[simp] theorem State.setPendingList_lc (r : List Nat) : (s.setPendingList r).lc = s.lc := rfl
@[simp] theorem State.setPendingList_hc (r : List Nat) : (s.setPendingList r).hc = s.hc := rfl
@[simp] theorem State.setPendingList_mx (r : List Nat) : (s.setPendingList r).mx = s.mx := rfl
@[simp] theorem State.setPendingList_ra (r : List Nat) : (s.setPendingList r).ra = s.ra := rfl
@[simp] theorem State.setPendingList_um (r : List Nat) : (s.setPendingList r).um = s.um := rfl
@[simp] theorem State.setPendingList_su (r : List Nat) : (s.setPendingList r).su = s.su := rfl
@[simp] theorem State.setPendingList_cc_circuits (r : List Nat) : (s.setPendingList r).cc.circuits = s.cc.circuits := rfl
@[simp] theorem State.setPendingList_cc_paths (r : List Nat) : (s.setPendingList r).cc.paths = s.cc.paths := rfl
@[simp] theorem State.setPendingList_cc_sending (r : List Nat) : (s.setPendingList r).cc.sending = s.cc.sending := rfl
@[simp] theorem State.setPendingList_cc_pendingList (r : List Nat) : (s.setPendingList r).cc.pendingList = r := rfl
@[simp] theorem State.setPendingList_line (r : List Nat) (m : Nat) : (s.setPendingList r).line m = s.line m := rfl
@[simp] theorem State.setPendingList_key (r : List Nat) (m : Nat) : (s.setPendingList r).key m = s.key m := rfl
@[simp] theorem State.setPendingList_appEntries (r : List Nat) (m : Nat) : (s.setPendingList r).appEntries m = s.appEntries m := rfl
@[simp] theorem State.setPendingList_alertList (r : List Nat) (m : Nat) : (s.setPendingList r).alertList m = s.alertList m := rfl
@[simp] theorem State.setPendingList_circuit (r : List Nat) (m : Nat) : (s.setPendingList r).circuit m = s.circuit m := rfl
@[simp] theorem State.setPendingList_path (r : List Nat) (m : Nat) : (s.setPendingList r).path m = s.path m := rfl
@[simp] theorem State.setPendingList_handset (r : List Nat) (m : Party) : (s.setPendingList r).handset m = s.handset m := rfl
@[simp] theorem State.setPendingList_call (r : List Nat) (m : Nat) : (s.setPendingList r).call m = s.call m := rfl
@[simp] theorem State.setPendingList_position (r : List Nat) (m : Nat) : (s.setPendingList r).position m = s.position m := rfl
@[simp] theorem State.setPendingList_speaker (r : List Nat) (m : Nat) : (s.setPendingList r).speaker m = s.speaker m := rfl
@[simp] theorem State.setPendingList_bridge (r : List Nat) (m : Nat) : (s.setPendingList r).bridge m = s.bridge m := rfl
@[simp] theorem State.setPendingList_channel (r : List Nat) (m : Nat) : (s.setPendingList r).channel m = s.channel m := rfl
@[simp] theorem State.setPendingList_port (r : List Nat) (m : Nat) : (s.setPendingList r).port m = s.port m := rfl
@[simp] theorem State.setPendingList_context (r : List Nat) (m : Nat) : (s.setPendingList r).context m = s.context m := rfl

/-! ## setSending -/

@[simp] theorem State.setSending_pending (r : Option Sending) : (s.setSending r).pending = s.pending := rfl
@[simp] theorem State.setSending_mem (r : Option Sending) : (s.setSending r).mem = s.mem := rfl
@[simp] theorem State.setSending_frame (r : Option Sending) : (s.setSending r).frame = s.frame := rfl
@[simp] theorem State.setSending_bi (r : Option Sending) : (s.setSending r).bi = s.bi := rfl
@[simp] theorem State.setSending_re (r : Option Sending) : (s.setSending r).re = s.re := rfl
@[simp] theorem State.setSending_eu (r : Option Sending) : (s.setSending r).eu = s.eu := rfl
@[simp] theorem State.setSending_lc (r : Option Sending) : (s.setSending r).lc = s.lc := rfl
@[simp] theorem State.setSending_hc (r : Option Sending) : (s.setSending r).hc = s.hc := rfl
@[simp] theorem State.setSending_mx (r : Option Sending) : (s.setSending r).mx = s.mx := rfl
@[simp] theorem State.setSending_ra (r : Option Sending) : (s.setSending r).ra = s.ra := rfl
@[simp] theorem State.setSending_um (r : Option Sending) : (s.setSending r).um = s.um := rfl
@[simp] theorem State.setSending_su (r : Option Sending) : (s.setSending r).su = s.su := rfl
@[simp] theorem State.setSending_cc_circuits (r : Option Sending) : (s.setSending r).cc.circuits = s.cc.circuits := rfl
@[simp] theorem State.setSending_cc_paths (r : Option Sending) : (s.setSending r).cc.paths = s.cc.paths := rfl
@[simp] theorem State.setSending_cc_pendingList (r : Option Sending) : (s.setSending r).cc.pendingList = s.cc.pendingList := rfl
@[simp] theorem State.setSending_cc_sending (r : Option Sending) : (s.setSending r).cc.sending = r := rfl
@[simp] theorem State.setSending_line (r : Option Sending) (m : Nat) : (s.setSending r).line m = s.line m := rfl
@[simp] theorem State.setSending_key (r : Option Sending) (m : Nat) : (s.setSending r).key m = s.key m := rfl
@[simp] theorem State.setSending_appEntries (r : Option Sending) (m : Nat) : (s.setSending r).appEntries m = s.appEntries m := rfl
@[simp] theorem State.setSending_alertList (r : Option Sending) (m : Nat) : (s.setSending r).alertList m = s.alertList m := rfl
@[simp] theorem State.setSending_circuit (r : Option Sending) (m : Nat) : (s.setSending r).circuit m = s.circuit m := rfl
@[simp] theorem State.setSending_path (r : Option Sending) (m : Nat) : (s.setSending r).path m = s.path m := rfl
@[simp] theorem State.setSending_handset (r : Option Sending) (m : Party) : (s.setSending r).handset m = s.handset m := rfl
@[simp] theorem State.setSending_call (r : Option Sending) (m : Nat) : (s.setSending r).call m = s.call m := rfl
@[simp] theorem State.setSending_position (r : Option Sending) (m : Nat) : (s.setSending r).position m = s.position m := rfl
@[simp] theorem State.setSending_speaker (r : Option Sending) (m : Nat) : (s.setSending r).speaker m = s.speaker m := rfl
@[simp] theorem State.setSending_bridge (r : Option Sending) (m : Nat) : (s.setSending r).bridge m = s.bridge m := rfl
@[simp] theorem State.setSending_channel (r : Option Sending) (m : Nat) : (s.setSending r).channel m = s.channel m := rfl
@[simp] theorem State.setSending_port (r : Option Sending) (m : Nat) : (s.setSending r).port m = s.port m := rfl
@[simp] theorem State.setSending_context (r : Option Sending) (m : Nat) : (s.setSending r).context m = s.context m := rfl

/-! ## setHandset -/

@[simp] theorem State.setHandset_pending (n : Party) (r : HandsetRec) : (s.setHandset n r).pending = s.pending := rfl
@[simp] theorem State.setHandset_mem (n : Party) (r : HandsetRec) : (s.setHandset n r).mem = s.mem := rfl
@[simp] theorem State.setHandset_frame (n : Party) (r : HandsetRec) : (s.setHandset n r).frame = s.frame := rfl
@[simp] theorem State.setHandset_bi (n : Party) (r : HandsetRec) : (s.setHandset n r).bi = s.bi := rfl
@[simp] theorem State.setHandset_re (n : Party) (r : HandsetRec) : (s.setHandset n r).re = s.re := rfl
@[simp] theorem State.setHandset_eu (n : Party) (r : HandsetRec) : (s.setHandset n r).eu = s.eu := rfl
@[simp] theorem State.setHandset_lc (n : Party) (r : HandsetRec) : (s.setHandset n r).lc = s.lc := rfl
@[simp] theorem State.setHandset_cc (n : Party) (r : HandsetRec) : (s.setHandset n r).cc = s.cc := rfl
@[simp] theorem State.setHandset_mx (n : Party) (r : HandsetRec) : (s.setHandset n r).mx = s.mx := rfl
@[simp] theorem State.setHandset_ra (n : Party) (r : HandsetRec) : (s.setHandset n r).ra = s.ra := rfl
@[simp] theorem State.setHandset_um (n : Party) (r : HandsetRec) : (s.setHandset n r).um = s.um := rfl
@[simp] theorem State.setHandset_su (n : Party) (r : HandsetRec) : (s.setHandset n r).su = s.su := rfl
@[simp] theorem State.setHandset_hc_calls (n : Party) (r : HandsetRec) : (s.setHandset n r).hc.calls = s.hc.calls := rfl
@[simp] theorem State.setHandset_hc_positions (n : Party) (r : HandsetRec) : (s.setHandset n r).hc.positions = s.hc.positions := rfl
@[simp] theorem State.setHandset_line (n : Party) (r : HandsetRec) (m : Nat) : (s.setHandset n r).line m = s.line m := rfl
@[simp] theorem State.setHandset_key (n : Party) (r : HandsetRec) (m : Nat) : (s.setHandset n r).key m = s.key m := rfl
@[simp] theorem State.setHandset_appEntries (n : Party) (r : HandsetRec) (m : Nat) : (s.setHandset n r).appEntries m = s.appEntries m := rfl
@[simp] theorem State.setHandset_alertList (n : Party) (r : HandsetRec) (m : Nat) : (s.setHandset n r).alertList m = s.alertList m := rfl
@[simp] theorem State.setHandset_circuit (n : Party) (r : HandsetRec) (m : Nat) : (s.setHandset n r).circuit m = s.circuit m := rfl
@[simp] theorem State.setHandset_path (n : Party) (r : HandsetRec) (m : Nat) : (s.setHandset n r).path m = s.path m := rfl
theorem State.setHandset_handset (n : Party) (r : HandsetRec) (m : Party) :
    (s.setHandset n r).handset m = if 2 * m.pos + m.hs = 2 * n.pos + n.hs then r else s.handset m := by
  simp [State.setHandset, State.handset]
@[simp] theorem State.setHandset_handset_self (n : Party) (r : HandsetRec) : (s.setHandset n r).handset n = r := by simp [State.setHandset_handset]
@[simp] theorem State.setHandset_call (n : Party) (r : HandsetRec) (m : Nat) : (s.setHandset n r).call m = s.call m := rfl
@[simp] theorem State.setHandset_position (n : Party) (r : HandsetRec) (m : Nat) : (s.setHandset n r).position m = s.position m := rfl
@[simp] theorem State.setHandset_speaker (n : Party) (r : HandsetRec) (m : Nat) : (s.setHandset n r).speaker m = s.speaker m := rfl
@[simp] theorem State.setHandset_bridge (n : Party) (r : HandsetRec) (m : Nat) : (s.setHandset n r).bridge m = s.bridge m := rfl
@[simp] theorem State.setHandset_channel (n : Party) (r : HandsetRec) (m : Nat) : (s.setHandset n r).channel m = s.channel m := rfl
@[simp] theorem State.setHandset_port (n : Party) (r : HandsetRec) (m : Nat) : (s.setHandset n r).port m = s.port m := rfl
@[simp] theorem State.setHandset_context (n : Party) (r : HandsetRec) (m : Nat) : (s.setHandset n r).context m = s.context m := rfl

/-! ## setCall -/

@[simp] theorem State.setCall_pending (n : Nat) (r : IcmRec) : (s.setCall n r).pending = s.pending := rfl
@[simp] theorem State.setCall_mem (n : Nat) (r : IcmRec) : (s.setCall n r).mem = s.mem := rfl
@[simp] theorem State.setCall_frame (n : Nat) (r : IcmRec) : (s.setCall n r).frame = s.frame := rfl
@[simp] theorem State.setCall_bi (n : Nat) (r : IcmRec) : (s.setCall n r).bi = s.bi := rfl
@[simp] theorem State.setCall_re (n : Nat) (r : IcmRec) : (s.setCall n r).re = s.re := rfl
@[simp] theorem State.setCall_eu (n : Nat) (r : IcmRec) : (s.setCall n r).eu = s.eu := rfl
@[simp] theorem State.setCall_lc (n : Nat) (r : IcmRec) : (s.setCall n r).lc = s.lc := rfl
@[simp] theorem State.setCall_cc (n : Nat) (r : IcmRec) : (s.setCall n r).cc = s.cc := rfl
@[simp] theorem State.setCall_mx (n : Nat) (r : IcmRec) : (s.setCall n r).mx = s.mx := rfl
@[simp] theorem State.setCall_ra (n : Nat) (r : IcmRec) : (s.setCall n r).ra = s.ra := rfl
@[simp] theorem State.setCall_um (n : Nat) (r : IcmRec) : (s.setCall n r).um = s.um := rfl
@[simp] theorem State.setCall_su (n : Nat) (r : IcmRec) : (s.setCall n r).su = s.su := rfl
@[simp] theorem State.setCall_hc_handsets (n : Nat) (r : IcmRec) : (s.setCall n r).hc.handsets = s.hc.handsets := rfl
@[simp] theorem State.setCall_hc_positions (n : Nat) (r : IcmRec) : (s.setCall n r).hc.positions = s.hc.positions := rfl
@[simp] theorem State.setCall_line (n : Nat) (r : IcmRec) (m : Nat) : (s.setCall n r).line m = s.line m := rfl
@[simp] theorem State.setCall_key (n : Nat) (r : IcmRec) (m : Nat) : (s.setCall n r).key m = s.key m := rfl
@[simp] theorem State.setCall_appEntries (n : Nat) (r : IcmRec) (m : Nat) : (s.setCall n r).appEntries m = s.appEntries m := rfl
@[simp] theorem State.setCall_alertList (n : Nat) (r : IcmRec) (m : Nat) : (s.setCall n r).alertList m = s.alertList m := rfl
@[simp] theorem State.setCall_circuit (n : Nat) (r : IcmRec) (m : Nat) : (s.setCall n r).circuit m = s.circuit m := rfl
@[simp] theorem State.setCall_path (n : Nat) (r : IcmRec) (m : Nat) : (s.setCall n r).path m = s.path m := rfl
@[simp] theorem State.setCall_handset (n : Nat) (r : IcmRec) (m : Party) : (s.setCall n r).handset m = s.handset m := rfl
@[simp] theorem State.setCall_call (n : Nat) (r : IcmRec) (m : Nat) :
    (s.setCall n r).call m = if m = n then r else s.call m := by
  simp [State.setCall, State.call]
@[simp] theorem State.setCall_position (n : Nat) (r : IcmRec) (m : Nat) : (s.setCall n r).position m = s.position m := rfl
@[simp] theorem State.setCall_speaker (n : Nat) (r : IcmRec) (m : Nat) : (s.setCall n r).speaker m = s.speaker m := rfl
@[simp] theorem State.setCall_bridge (n : Nat) (r : IcmRec) (m : Nat) : (s.setCall n r).bridge m = s.bridge m := rfl
@[simp] theorem State.setCall_channel (n : Nat) (r : IcmRec) (m : Nat) : (s.setCall n r).channel m = s.channel m := rfl
@[simp] theorem State.setCall_port (n : Nat) (r : IcmRec) (m : Nat) : (s.setCall n r).port m = s.port m := rfl
@[simp] theorem State.setCall_context (n : Nat) (r : IcmRec) (m : Nat) : (s.setCall n r).context m = s.context m := rfl

/-! ## setPosition -/

@[simp] theorem State.setPosition_pending (n : Nat) (r : PosRec) : (s.setPosition n r).pending = s.pending := rfl
@[simp] theorem State.setPosition_mem (n : Nat) (r : PosRec) : (s.setPosition n r).mem = s.mem := rfl
@[simp] theorem State.setPosition_frame (n : Nat) (r : PosRec) : (s.setPosition n r).frame = s.frame := rfl
@[simp] theorem State.setPosition_bi (n : Nat) (r : PosRec) : (s.setPosition n r).bi = s.bi := rfl
@[simp] theorem State.setPosition_re (n : Nat) (r : PosRec) : (s.setPosition n r).re = s.re := rfl
@[simp] theorem State.setPosition_eu (n : Nat) (r : PosRec) : (s.setPosition n r).eu = s.eu := rfl
@[simp] theorem State.setPosition_lc (n : Nat) (r : PosRec) : (s.setPosition n r).lc = s.lc := rfl
@[simp] theorem State.setPosition_cc (n : Nat) (r : PosRec) : (s.setPosition n r).cc = s.cc := rfl
@[simp] theorem State.setPosition_mx (n : Nat) (r : PosRec) : (s.setPosition n r).mx = s.mx := rfl
@[simp] theorem State.setPosition_ra (n : Nat) (r : PosRec) : (s.setPosition n r).ra = s.ra := rfl
@[simp] theorem State.setPosition_um (n : Nat) (r : PosRec) : (s.setPosition n r).um = s.um := rfl
@[simp] theorem State.setPosition_su (n : Nat) (r : PosRec) : (s.setPosition n r).su = s.su := rfl
@[simp] theorem State.setPosition_hc_handsets (n : Nat) (r : PosRec) : (s.setPosition n r).hc.handsets = s.hc.handsets := rfl
@[simp] theorem State.setPosition_hc_calls (n : Nat) (r : PosRec) : (s.setPosition n r).hc.calls = s.hc.calls := rfl
@[simp] theorem State.setPosition_line (n : Nat) (r : PosRec) (m : Nat) : (s.setPosition n r).line m = s.line m := rfl
@[simp] theorem State.setPosition_key (n : Nat) (r : PosRec) (m : Nat) : (s.setPosition n r).key m = s.key m := rfl
@[simp] theorem State.setPosition_appEntries (n : Nat) (r : PosRec) (m : Nat) : (s.setPosition n r).appEntries m = s.appEntries m := rfl
@[simp] theorem State.setPosition_alertList (n : Nat) (r : PosRec) (m : Nat) : (s.setPosition n r).alertList m = s.alertList m := rfl
@[simp] theorem State.setPosition_circuit (n : Nat) (r : PosRec) (m : Nat) : (s.setPosition n r).circuit m = s.circuit m := rfl
@[simp] theorem State.setPosition_path (n : Nat) (r : PosRec) (m : Nat) : (s.setPosition n r).path m = s.path m := rfl
@[simp] theorem State.setPosition_handset (n : Nat) (r : PosRec) (m : Party) : (s.setPosition n r).handset m = s.handset m := rfl
@[simp] theorem State.setPosition_call (n : Nat) (r : PosRec) (m : Nat) : (s.setPosition n r).call m = s.call m := rfl
@[simp] theorem State.setPosition_position (n : Nat) (r : PosRec) (m : Nat) :
    (s.setPosition n r).position m = if m = n then r else s.position m := by
  simp [State.setPosition, State.position]
@[simp] theorem State.setPosition_speaker (n : Nat) (r : PosRec) (m : Nat) : (s.setPosition n r).speaker m = s.speaker m := rfl
@[simp] theorem State.setPosition_bridge (n : Nat) (r : PosRec) (m : Nat) : (s.setPosition n r).bridge m = s.bridge m := rfl
@[simp] theorem State.setPosition_channel (n : Nat) (r : PosRec) (m : Nat) : (s.setPosition n r).channel m = s.channel m := rfl
@[simp] theorem State.setPosition_port (n : Nat) (r : PosRec) (m : Nat) : (s.setPosition n r).port m = s.port m := rfl
@[simp] theorem State.setPosition_context (n : Nat) (r : PosRec) (m : Nat) : (s.setPosition n r).context m = s.context m := rfl

/-! ## setSpeaker -/

@[simp] theorem State.setSpeaker_pending (n : Nat) (r : SpeakerRec) : (s.setSpeaker n r).pending = s.pending := rfl
@[simp] theorem State.setSpeaker_mem (n : Nat) (r : SpeakerRec) : (s.setSpeaker n r).mem = s.mem := rfl
@[simp] theorem State.setSpeaker_frame (n : Nat) (r : SpeakerRec) : (s.setSpeaker n r).frame = s.frame := rfl
@[simp] theorem State.setSpeaker_bi (n : Nat) (r : SpeakerRec) : (s.setSpeaker n r).bi = s.bi := rfl
@[simp] theorem State.setSpeaker_re (n : Nat) (r : SpeakerRec) : (s.setSpeaker n r).re = s.re := rfl
@[simp] theorem State.setSpeaker_eu (n : Nat) (r : SpeakerRec) : (s.setSpeaker n r).eu = s.eu := rfl
@[simp] theorem State.setSpeaker_lc (n : Nat) (r : SpeakerRec) : (s.setSpeaker n r).lc = s.lc := rfl
@[simp] theorem State.setSpeaker_cc (n : Nat) (r : SpeakerRec) : (s.setSpeaker n r).cc = s.cc := rfl
@[simp] theorem State.setSpeaker_hc (n : Nat) (r : SpeakerRec) : (s.setSpeaker n r).hc = s.hc := rfl
@[simp] theorem State.setSpeaker_ra (n : Nat) (r : SpeakerRec) : (s.setSpeaker n r).ra = s.ra := rfl
@[simp] theorem State.setSpeaker_um (n : Nat) (r : SpeakerRec) : (s.setSpeaker n r).um = s.um := rfl
@[simp] theorem State.setSpeaker_su (n : Nat) (r : SpeakerRec) : (s.setSpeaker n r).su = s.su := rfl
@[simp] theorem State.setSpeaker_mx_bridges (n : Nat) (r : SpeakerRec) : (s.setSpeaker n r).mx.bridges = s.mx.bridges := rfl
@[simp] theorem State.setSpeaker_mx_snapshot (n : Nat) (r : SpeakerRec) : (s.setSpeaker n r).mx.snapshot = s.mx.snapshot := rfl
@[simp] theorem State.setSpeaker_mx_out (n : Nat) (r : SpeakerRec) : (s.setSpeaker n r).mx.out = s.mx.out := rfl
@[simp] theorem State.setSpeaker_line (n : Nat) (r : SpeakerRec) (m : Nat) : (s.setSpeaker n r).line m = s.line m := rfl
@[simp] theorem State.setSpeaker_key (n : Nat) (r : SpeakerRec) (m : Nat) : (s.setSpeaker n r).key m = s.key m := rfl
@[simp] theorem State.setSpeaker_appEntries (n : Nat) (r : SpeakerRec) (m : Nat) : (s.setSpeaker n r).appEntries m = s.appEntries m := rfl
@[simp] theorem State.setSpeaker_alertList (n : Nat) (r : SpeakerRec) (m : Nat) : (s.setSpeaker n r).alertList m = s.alertList m := rfl
@[simp] theorem State.setSpeaker_circuit (n : Nat) (r : SpeakerRec) (m : Nat) : (s.setSpeaker n r).circuit m = s.circuit m := rfl
@[simp] theorem State.setSpeaker_path (n : Nat) (r : SpeakerRec) (m : Nat) : (s.setSpeaker n r).path m = s.path m := rfl
@[simp] theorem State.setSpeaker_handset (n : Nat) (r : SpeakerRec) (m : Party) : (s.setSpeaker n r).handset m = s.handset m := rfl
@[simp] theorem State.setSpeaker_call (n : Nat) (r : SpeakerRec) (m : Nat) : (s.setSpeaker n r).call m = s.call m := rfl
@[simp] theorem State.setSpeaker_position (n : Nat) (r : SpeakerRec) (m : Nat) : (s.setSpeaker n r).position m = s.position m := rfl
@[simp] theorem State.setSpeaker_speaker (n : Nat) (r : SpeakerRec) (m : Nat) :
    (s.setSpeaker n r).speaker m = if m = n then r else s.speaker m := by
  simp [State.setSpeaker, State.speaker]
@[simp] theorem State.setSpeaker_bridge (n : Nat) (r : SpeakerRec) (m : Nat) : (s.setSpeaker n r).bridge m = s.bridge m := rfl
@[simp] theorem State.setSpeaker_channel (n : Nat) (r : SpeakerRec) (m : Nat) : (s.setSpeaker n r).channel m = s.channel m := rfl
@[simp] theorem State.setSpeaker_port (n : Nat) (r : SpeakerRec) (m : Nat) : (s.setSpeaker n r).port m = s.port m := rfl
@[simp] theorem State.setSpeaker_context (n : Nat) (r : SpeakerRec) (m : Nat) : (s.setSpeaker n r).context m = s.context m := rfl

/-! ## setBridge -/

@[simp] theorem State.setBridge_pending (n : Nat) (r : BridgeRec) : (s.setBridge n r).pending = s.pending := rfl
@[simp] theorem State.setBridge_mem (n : Nat) (r : BridgeRec) : (s.setBridge n r).mem = s.mem := rfl
@[simp] theorem State.setBridge_frame (n : Nat) (r : BridgeRec) : (s.setBridge n r).frame = s.frame := rfl
@[simp] theorem State.setBridge_bi (n : Nat) (r : BridgeRec) : (s.setBridge n r).bi = s.bi := rfl
@[simp] theorem State.setBridge_re (n : Nat) (r : BridgeRec) : (s.setBridge n r).re = s.re := rfl
@[simp] theorem State.setBridge_eu (n : Nat) (r : BridgeRec) : (s.setBridge n r).eu = s.eu := rfl
@[simp] theorem State.setBridge_lc (n : Nat) (r : BridgeRec) : (s.setBridge n r).lc = s.lc := rfl
@[simp] theorem State.setBridge_cc (n : Nat) (r : BridgeRec) : (s.setBridge n r).cc = s.cc := rfl
@[simp] theorem State.setBridge_hc (n : Nat) (r : BridgeRec) : (s.setBridge n r).hc = s.hc := rfl
@[simp] theorem State.setBridge_ra (n : Nat) (r : BridgeRec) : (s.setBridge n r).ra = s.ra := rfl
@[simp] theorem State.setBridge_um (n : Nat) (r : BridgeRec) : (s.setBridge n r).um = s.um := rfl
@[simp] theorem State.setBridge_su (n : Nat) (r : BridgeRec) : (s.setBridge n r).su = s.su := rfl
@[simp] theorem State.setBridge_mx_speakers (n : Nat) (r : BridgeRec) : (s.setBridge n r).mx.speakers = s.mx.speakers := rfl
@[simp] theorem State.setBridge_mx_snapshot (n : Nat) (r : BridgeRec) : (s.setBridge n r).mx.snapshot = s.mx.snapshot := rfl
@[simp] theorem State.setBridge_mx_out (n : Nat) (r : BridgeRec) : (s.setBridge n r).mx.out = s.mx.out := rfl
@[simp] theorem State.setBridge_line (n : Nat) (r : BridgeRec) (m : Nat) : (s.setBridge n r).line m = s.line m := rfl
@[simp] theorem State.setBridge_key (n : Nat) (r : BridgeRec) (m : Nat) : (s.setBridge n r).key m = s.key m := rfl
@[simp] theorem State.setBridge_appEntries (n : Nat) (r : BridgeRec) (m : Nat) : (s.setBridge n r).appEntries m = s.appEntries m := rfl
@[simp] theorem State.setBridge_alertList (n : Nat) (r : BridgeRec) (m : Nat) : (s.setBridge n r).alertList m = s.alertList m := rfl
@[simp] theorem State.setBridge_circuit (n : Nat) (r : BridgeRec) (m : Nat) : (s.setBridge n r).circuit m = s.circuit m := rfl
@[simp] theorem State.setBridge_path (n : Nat) (r : BridgeRec) (m : Nat) : (s.setBridge n r).path m = s.path m := rfl
@[simp] theorem State.setBridge_handset (n : Nat) (r : BridgeRec) (m : Party) : (s.setBridge n r).handset m = s.handset m := rfl
@[simp] theorem State.setBridge_call (n : Nat) (r : BridgeRec) (m : Nat) : (s.setBridge n r).call m = s.call m := rfl
@[simp] theorem State.setBridge_position (n : Nat) (r : BridgeRec) (m : Nat) : (s.setBridge n r).position m = s.position m := rfl
@[simp] theorem State.setBridge_speaker (n : Nat) (r : BridgeRec) (m : Nat) : (s.setBridge n r).speaker m = s.speaker m := rfl
@[simp] theorem State.setBridge_bridge (n : Nat) (r : BridgeRec) (m : Nat) :
    (s.setBridge n r).bridge m = if m = n then r else s.bridge m := by
  simp [State.setBridge, State.bridge]
@[simp] theorem State.setBridge_channel (n : Nat) (r : BridgeRec) (m : Nat) : (s.setBridge n r).channel m = s.channel m := rfl
@[simp] theorem State.setBridge_port (n : Nat) (r : BridgeRec) (m : Nat) : (s.setBridge n r).port m = s.port m := rfl
@[simp] theorem State.setBridge_context (n : Nat) (r : BridgeRec) (m : Nat) : (s.setBridge n r).context m = s.context m := rfl

/-! ## setChannel -/

@[simp] theorem State.setChannel_pending (n : Nat) (r : ChannelRec) : (s.setChannel n r).pending = s.pending := rfl
@[simp] theorem State.setChannel_mem (n : Nat) (r : ChannelRec) : (s.setChannel n r).mem = s.mem := rfl
@[simp] theorem State.setChannel_frame (n : Nat) (r : ChannelRec) : (s.setChannel n r).frame = s.frame := rfl
@[simp] theorem State.setChannel_bi (n : Nat) (r : ChannelRec) : (s.setChannel n r).bi = s.bi := rfl
@[simp] theorem State.setChannel_re (n : Nat) (r : ChannelRec) : (s.setChannel n r).re = s.re := rfl
@[simp] theorem State.setChannel_eu (n : Nat) (r : ChannelRec) : (s.setChannel n r).eu = s.eu := rfl
@[simp] theorem State.setChannel_lc (n : Nat) (r : ChannelRec) : (s.setChannel n r).lc = s.lc := rfl
@[simp] theorem State.setChannel_cc (n : Nat) (r : ChannelRec) : (s.setChannel n r).cc = s.cc := rfl
@[simp] theorem State.setChannel_hc (n : Nat) (r : ChannelRec) : (s.setChannel n r).hc = s.hc := rfl
@[simp] theorem State.setChannel_mx (n : Nat) (r : ChannelRec) : (s.setChannel n r).mx = s.mx := rfl
@[simp] theorem State.setChannel_um (n : Nat) (r : ChannelRec) : (s.setChannel n r).um = s.um := rfl
@[simp] theorem State.setChannel_su (n : Nat) (r : ChannelRec) : (s.setChannel n r).su = s.su := rfl
@[simp] theorem State.setChannel_ra_ports (n : Nat) (r : ChannelRec) : (s.setChannel n r).ra.ports = s.ra.ports := rfl
@[simp] theorem State.setChannel_ra_freeList (n : Nat) (r : ChannelRec) : (s.setChannel n r).ra.freeList = s.ra.freeList := rfl
@[simp] theorem State.setChannel_ra_waitQueue (n : Nat) (r : ChannelRec) : (s.setChannel n r).ra.waitQueue = s.ra.waitQueue := rfl
@[simp] theorem State.setChannel_ra_order (n : Nat) (r : ChannelRec) : (s.setChannel n r).ra.order = s.ra.order := rfl
@[simp] theorem State.setChannel_line (n : Nat) (r : ChannelRec) (m : Nat) : (s.setChannel n r).line m = s.line m := rfl
@[simp] theorem State.setChannel_key (n : Nat) (r : ChannelRec) (m : Nat) : (s.setChannel n r).key m = s.key m := rfl
@[simp] theorem State.setChannel_appEntries (n : Nat) (r : ChannelRec) (m : Nat) : (s.setChannel n r).appEntries m = s.appEntries m := rfl
@[simp] theorem State.setChannel_alertList (n : Nat) (r : ChannelRec) (m : Nat) : (s.setChannel n r).alertList m = s.alertList m := rfl
@[simp] theorem State.setChannel_circuit (n : Nat) (r : ChannelRec) (m : Nat) : (s.setChannel n r).circuit m = s.circuit m := rfl
@[simp] theorem State.setChannel_path (n : Nat) (r : ChannelRec) (m : Nat) : (s.setChannel n r).path m = s.path m := rfl
@[simp] theorem State.setChannel_handset (n : Nat) (r : ChannelRec) (m : Party) : (s.setChannel n r).handset m = s.handset m := rfl
@[simp] theorem State.setChannel_call (n : Nat) (r : ChannelRec) (m : Nat) : (s.setChannel n r).call m = s.call m := rfl
@[simp] theorem State.setChannel_position (n : Nat) (r : ChannelRec) (m : Nat) : (s.setChannel n r).position m = s.position m := rfl
@[simp] theorem State.setChannel_speaker (n : Nat) (r : ChannelRec) (m : Nat) : (s.setChannel n r).speaker m = s.speaker m := rfl
@[simp] theorem State.setChannel_bridge (n : Nat) (r : ChannelRec) (m : Nat) : (s.setChannel n r).bridge m = s.bridge m := rfl
@[simp] theorem State.setChannel_channel (n : Nat) (r : ChannelRec) (m : Nat) :
    (s.setChannel n r).channel m = if m = n then r else s.channel m := by
  simp [State.setChannel, State.channel]
@[simp] theorem State.setChannel_port (n : Nat) (r : ChannelRec) (m : Nat) : (s.setChannel n r).port m = s.port m := rfl
@[simp] theorem State.setChannel_context (n : Nat) (r : ChannelRec) (m : Nat) : (s.setChannel n r).context m = s.context m := rfl

/-! ## setPort -/

@[simp] theorem State.setPort_pending (n : Nat) (r : PortRec) : (s.setPort n r).pending = s.pending := rfl
@[simp] theorem State.setPort_mem (n : Nat) (r : PortRec) : (s.setPort n r).mem = s.mem := rfl
@[simp] theorem State.setPort_frame (n : Nat) (r : PortRec) : (s.setPort n r).frame = s.frame := rfl
@[simp] theorem State.setPort_bi (n : Nat) (r : PortRec) : (s.setPort n r).bi = s.bi := rfl
@[simp] theorem State.setPort_re (n : Nat) (r : PortRec) : (s.setPort n r).re = s.re := rfl
@[simp] theorem State.setPort_eu (n : Nat) (r : PortRec) : (s.setPort n r).eu = s.eu := rfl
@[simp] theorem State.setPort_lc (n : Nat) (r : PortRec) : (s.setPort n r).lc = s.lc := rfl
@[simp] theorem State.setPort_cc (n : Nat) (r : PortRec) : (s.setPort n r).cc = s.cc := rfl
@[simp] theorem State.setPort_hc (n : Nat) (r : PortRec) : (s.setPort n r).hc = s.hc := rfl
@[simp] theorem State.setPort_mx (n : Nat) (r : PortRec) : (s.setPort n r).mx = s.mx := rfl
@[simp] theorem State.setPort_um (n : Nat) (r : PortRec) : (s.setPort n r).um = s.um := rfl
@[simp] theorem State.setPort_su (n : Nat) (r : PortRec) : (s.setPort n r).su = s.su := rfl
@[simp] theorem State.setPort_ra_channels (n : Nat) (r : PortRec) : (s.setPort n r).ra.channels = s.ra.channels := rfl
@[simp] theorem State.setPort_ra_freeList (n : Nat) (r : PortRec) : (s.setPort n r).ra.freeList = s.ra.freeList := rfl
@[simp] theorem State.setPort_ra_waitQueue (n : Nat) (r : PortRec) : (s.setPort n r).ra.waitQueue = s.ra.waitQueue := rfl
@[simp] theorem State.setPort_ra_order (n : Nat) (r : PortRec) : (s.setPort n r).ra.order = s.ra.order := rfl
@[simp] theorem State.setPort_line (n : Nat) (r : PortRec) (m : Nat) : (s.setPort n r).line m = s.line m := rfl
@[simp] theorem State.setPort_key (n : Nat) (r : PortRec) (m : Nat) : (s.setPort n r).key m = s.key m := rfl
@[simp] theorem State.setPort_appEntries (n : Nat) (r : PortRec) (m : Nat) : (s.setPort n r).appEntries m = s.appEntries m := rfl
@[simp] theorem State.setPort_alertList (n : Nat) (r : PortRec) (m : Nat) : (s.setPort n r).alertList m = s.alertList m := rfl
@[simp] theorem State.setPort_circuit (n : Nat) (r : PortRec) (m : Nat) : (s.setPort n r).circuit m = s.circuit m := rfl
@[simp] theorem State.setPort_path (n : Nat) (r : PortRec) (m : Nat) : (s.setPort n r).path m = s.path m := rfl
@[simp] theorem State.setPort_handset (n : Nat) (r : PortRec) (m : Party) : (s.setPort n r).handset m = s.handset m := rfl
@[simp] theorem State.setPort_call (n : Nat) (r : PortRec) (m : Nat) : (s.setPort n r).call m = s.call m := rfl
@[simp] theorem State.setPort_position (n : Nat) (r : PortRec) (m : Nat) : (s.setPort n r).position m = s.position m := rfl
@[simp] theorem State.setPort_speaker (n : Nat) (r : PortRec) (m : Nat) : (s.setPort n r).speaker m = s.speaker m := rfl
@[simp] theorem State.setPort_bridge (n : Nat) (r : PortRec) (m : Nat) : (s.setPort n r).bridge m = s.bridge m := rfl
@[simp] theorem State.setPort_channel (n : Nat) (r : PortRec) (m : Nat) : (s.setPort n r).channel m = s.channel m := rfl
@[simp] theorem State.setPort_port (n : Nat) (r : PortRec) (m : Nat) :
    (s.setPort n r).port m = if m = n then r else s.port m := by
  simp [State.setPort, State.port]
@[simp] theorem State.setPort_context (n : Nat) (r : PortRec) (m : Nat) : (s.setPort n r).context m = s.context m := rfl

/-! ## setFreeList -/

@[simp] theorem State.setFreeList_pending (r : List Nat) : (s.setFreeList r).pending = s.pending := rfl
@[simp] theorem State.setFreeList_mem (r : List Nat) : (s.setFreeList r).mem = s.mem := rfl
@[simp] theorem State.setFreeList_frame (r : List Nat) : (s.setFreeList r).frame = s.frame := rfl
@[simp] theorem State.setFreeList_bi (r : List Nat) : (s.setFreeList r).bi = s.bi := rfl
@[simp] theorem State.setFreeList_re (r : List Nat) : (s.setFreeList r).re = s.re := rfl
@[simp] theorem State.setFreeList_eu (r : List Nat) : (s.setFreeList r).eu = s.eu := rfl
@[simp] theorem State.setFreeList_lc (r : List Nat) : (s.setFreeList r).lc = s.lc := rfl
@[simp] theorem State.setFreeList_cc (r : List Nat) : (s.setFreeList r).cc = s.cc := rfl
@[simp] theorem State.setFreeList_hc (r : List Nat) : (s.setFreeList r).hc = s.hc := rfl
@[simp] theorem State.setFreeList_mx (r : List Nat) : (s.setFreeList r).mx = s.mx := rfl
@[simp] theorem State.setFreeList_um (r : List Nat) : (s.setFreeList r).um = s.um := rfl
@[simp] theorem State.setFreeList_su (r : List Nat) : (s.setFreeList r).su = s.su := rfl
@[simp] theorem State.setFreeList_ra_channels (r : List Nat) : (s.setFreeList r).ra.channels = s.ra.channels := rfl
@[simp] theorem State.setFreeList_ra_ports (r : List Nat) : (s.setFreeList r).ra.ports = s.ra.ports := rfl
@[simp] theorem State.setFreeList_ra_waitQueue (r : List Nat) : (s.setFreeList r).ra.waitQueue = s.ra.waitQueue := rfl
@[simp] theorem State.setFreeList_ra_order (r : List Nat) : (s.setFreeList r).ra.order = s.ra.order := rfl
@[simp] theorem State.setFreeList_ra_freeList (r : List Nat) : (s.setFreeList r).ra.freeList = r := rfl
@[simp] theorem State.setFreeList_line (r : List Nat) (m : Nat) : (s.setFreeList r).line m = s.line m := rfl
@[simp] theorem State.setFreeList_key (r : List Nat) (m : Nat) : (s.setFreeList r).key m = s.key m := rfl
@[simp] theorem State.setFreeList_appEntries (r : List Nat) (m : Nat) : (s.setFreeList r).appEntries m = s.appEntries m := rfl
@[simp] theorem State.setFreeList_alertList (r : List Nat) (m : Nat) : (s.setFreeList r).alertList m = s.alertList m := rfl
@[simp] theorem State.setFreeList_circuit (r : List Nat) (m : Nat) : (s.setFreeList r).circuit m = s.circuit m := rfl
@[simp] theorem State.setFreeList_path (r : List Nat) (m : Nat) : (s.setFreeList r).path m = s.path m := rfl
@[simp] theorem State.setFreeList_handset (r : List Nat) (m : Party) : (s.setFreeList r).handset m = s.handset m := rfl
@[simp] theorem State.setFreeList_call (r : List Nat) (m : Nat) : (s.setFreeList r).call m = s.call m := rfl
@[simp] theorem State.setFreeList_position (r : List Nat) (m : Nat) : (s.setFreeList r).position m = s.position m := rfl
@[simp] theorem State.setFreeList_speaker (r : List Nat) (m : Nat) : (s.setFreeList r).speaker m = s.speaker m := rfl
@[simp] theorem State.setFreeList_bridge (r : List Nat) (m : Nat) : (s.setFreeList r).bridge m = s.bridge m := rfl
@[simp] theorem State.setFreeList_channel (r : List Nat) (m : Nat) : (s.setFreeList r).channel m = s.channel m := rfl
@[simp] theorem State.setFreeList_port (r : List Nat) (m : Nat) : (s.setFreeList r).port m = s.port m := rfl
@[simp] theorem State.setFreeList_context (r : List Nat) (m : Nat) : (s.setFreeList r).context m = s.context m := rfl

/-! ## setWaitQueue -/

@[simp] theorem State.setWaitQueue_pending (r : List Nat) : (s.setWaitQueue r).pending = s.pending := rfl
@[simp] theorem State.setWaitQueue_mem (r : List Nat) : (s.setWaitQueue r).mem = s.mem := rfl
@[simp] theorem State.setWaitQueue_frame (r : List Nat) : (s.setWaitQueue r).frame = s.frame := rfl
@[simp] theorem State.setWaitQueue_bi (r : List Nat) : (s.setWaitQueue r).bi = s.bi := rfl
@[simp] theorem State.setWaitQueue_re (r : List Nat) : (s.setWaitQueue r).re = s.re := rfl
@[simp] theorem State.setWaitQueue_eu (r : List Nat) : (s.setWaitQueue r).eu = s.eu := rfl
@[simp] theorem State.setWaitQueue_lc (r : List Nat) : (s.setWaitQueue r).lc = s.lc := rfl
@[simp] theorem State.setWaitQueue_cc (r : List Nat) : (s.setWaitQueue r).cc = s.cc := rfl
@[simp] theorem State.setWaitQueue_hc (r : List Nat) : (s.setWaitQueue r).hc = s.hc := rfl
@[simp] theorem State.setWaitQueue_mx (r : List Nat) : (s.setWaitQueue r).mx = s.mx := rfl
@[simp] theorem State.setWaitQueue_um (r : List Nat) : (s.setWaitQueue r).um = s.um := rfl
@[simp] theorem State.setWaitQueue_su (r : List Nat) : (s.setWaitQueue r).su = s.su := rfl
@[simp] theorem State.setWaitQueue_ra_channels (r : List Nat) : (s.setWaitQueue r).ra.channels = s.ra.channels := rfl
@[simp] theorem State.setWaitQueue_ra_ports (r : List Nat) : (s.setWaitQueue r).ra.ports = s.ra.ports := rfl
@[simp] theorem State.setWaitQueue_ra_freeList (r : List Nat) : (s.setWaitQueue r).ra.freeList = s.ra.freeList := rfl
@[simp] theorem State.setWaitQueue_ra_order (r : List Nat) : (s.setWaitQueue r).ra.order = s.ra.order := rfl
@[simp] theorem State.setWaitQueue_ra_waitQueue (r : List Nat) : (s.setWaitQueue r).ra.waitQueue = r := rfl
@[simp] theorem State.setWaitQueue_line (r : List Nat) (m : Nat) : (s.setWaitQueue r).line m = s.line m := rfl
@[simp] theorem State.setWaitQueue_key (r : List Nat) (m : Nat) : (s.setWaitQueue r).key m = s.key m := rfl
@[simp] theorem State.setWaitQueue_appEntries (r : List Nat) (m : Nat) : (s.setWaitQueue r).appEntries m = s.appEntries m := rfl
@[simp] theorem State.setWaitQueue_alertList (r : List Nat) (m : Nat) : (s.setWaitQueue r).alertList m = s.alertList m := rfl
@[simp] theorem State.setWaitQueue_circuit (r : List Nat) (m : Nat) : (s.setWaitQueue r).circuit m = s.circuit m := rfl
@[simp] theorem State.setWaitQueue_path (r : List Nat) (m : Nat) : (s.setWaitQueue r).path m = s.path m := rfl
@[simp] theorem State.setWaitQueue_handset (r : List Nat) (m : Party) : (s.setWaitQueue r).handset m = s.handset m := rfl
@[simp] theorem State.setWaitQueue_call (r : List Nat) (m : Nat) : (s.setWaitQueue r).call m = s.call m := rfl
@[simp] theorem State.setWaitQueue_position (r : List Nat) (m : Nat) : (s.setWaitQueue r).position m = s.position m := rfl
@[simp] theorem State.setWaitQueue_speaker (r : List Nat) (m : Nat) : (s.setWaitQueue r).speaker m = s.speaker m := rfl
@[simp] theorem State.setWaitQueue_bridge (r : List Nat) (m : Nat) : (s.setWaitQueue r).bridge m = s.bridge m := rfl
@[simp] theorem State.setWaitQueue_channel (r : List Nat) (m : Nat) : (s.setWaitQueue r).channel m = s.channel m := rfl
@[simp] theorem State.setWaitQueue_port (r : List Nat) (m : Nat) : (s.setWaitQueue r).port m = s.port m := rfl
@[simp] theorem State.setWaitQueue_context (r : List Nat) (m : Nat) : (s.setWaitQueue r).context m = s.context m := rfl

/-! ## setOrder -/

@[simp] theorem State.setOrder_pending (r : List Nat) : (s.setOrder r).pending = s.pending := rfl
@[simp] theorem State.setOrder_mem (r : List Nat) : (s.setOrder r).mem = s.mem := rfl
@[simp] theorem State.setOrder_frame (r : List Nat) : (s.setOrder r).frame = s.frame := rfl
@[simp] theorem State.setOrder_bi (r : List Nat) : (s.setOrder r).bi = s.bi := rfl
@[simp] theorem State.setOrder_re (r : List Nat) : (s.setOrder r).re = s.re := rfl
@[simp] theorem State.setOrder_eu (r : List Nat) : (s.setOrder r).eu = s.eu := rfl
@[simp] theorem State.setOrder_lc (r : List Nat) : (s.setOrder r).lc = s.lc := rfl
@[simp] theorem State.setOrder_cc (r : List Nat) : (s.setOrder r).cc = s.cc := rfl
@[simp] theorem State.setOrder_hc (r : List Nat) : (s.setOrder r).hc = s.hc := rfl
@[simp] theorem State.setOrder_mx (r : List Nat) : (s.setOrder r).mx = s.mx := rfl
@[simp] theorem State.setOrder_um (r : List Nat) : (s.setOrder r).um = s.um := rfl
@[simp] theorem State.setOrder_su (r : List Nat) : (s.setOrder r).su = s.su := rfl
@[simp] theorem State.setOrder_ra_channels (r : List Nat) : (s.setOrder r).ra.channels = s.ra.channels := rfl
@[simp] theorem State.setOrder_ra_ports (r : List Nat) : (s.setOrder r).ra.ports = s.ra.ports := rfl
@[simp] theorem State.setOrder_ra_freeList (r : List Nat) : (s.setOrder r).ra.freeList = s.ra.freeList := rfl
@[simp] theorem State.setOrder_ra_waitQueue (r : List Nat) : (s.setOrder r).ra.waitQueue = s.ra.waitQueue := rfl
@[simp] theorem State.setOrder_ra_order (r : List Nat) : (s.setOrder r).ra.order = r := rfl
@[simp] theorem State.setOrder_line (r : List Nat) (m : Nat) : (s.setOrder r).line m = s.line m := rfl
@[simp] theorem State.setOrder_key (r : List Nat) (m : Nat) : (s.setOrder r).key m = s.key m := rfl
@[simp] theorem State.setOrder_appEntries (r : List Nat) (m : Nat) : (s.setOrder r).appEntries m = s.appEntries m := rfl
@[simp] theorem State.setOrder_alertList (r : List Nat) (m : Nat) : (s.setOrder r).alertList m = s.alertList m := rfl
@[simp] theorem State.setOrder_circuit (r : List Nat) (m : Nat) : (s.setOrder r).circuit m = s.circuit m := rfl
@[simp] theorem State.setOrder_path (r : List Nat) (m : Nat) : (s.setOrder r).path m = s.path m := rfl
@[simp] theorem State.setOrder_handset (r : List Nat) (m : Party) : (s.setOrder r).handset m = s.handset m := rfl
@[simp] theorem State.setOrder_call (r : List Nat) (m : Nat) : (s.setOrder r).call m = s.call m := rfl
@[simp] theorem State.setOrder_position (r : List Nat) (m : Nat) : (s.setOrder r).position m = s.position m := rfl
@[simp] theorem State.setOrder_speaker (r : List Nat) (m : Nat) : (s.setOrder r).speaker m = s.speaker m := rfl
@[simp] theorem State.setOrder_bridge (r : List Nat) (m : Nat) : (s.setOrder r).bridge m = s.bridge m := rfl
@[simp] theorem State.setOrder_channel (r : List Nat) (m : Nat) : (s.setOrder r).channel m = s.channel m := rfl
@[simp] theorem State.setOrder_port (r : List Nat) (m : Nat) : (s.setOrder r).port m = s.port m := rfl
@[simp] theorem State.setOrder_context (r : List Nat) (m : Nat) : (s.setOrder r).context m = s.context m := rfl

/-! ## setContext -/

@[simp] theorem State.setContext_pending (n : Nat) (r : Option MeasContext) : (s.setContext n r).pending = s.pending := rfl
@[simp] theorem State.setContext_mem (n : Nat) (r : Option MeasContext) : (s.setContext n r).mem = s.mem := rfl
@[simp] theorem State.setContext_frame (n : Nat) (r : Option MeasContext) : (s.setContext n r).frame = s.frame := rfl
@[simp] theorem State.setContext_bi (n : Nat) (r : Option MeasContext) : (s.setContext n r).bi = s.bi := rfl
@[simp] theorem State.setContext_re (n : Nat) (r : Option MeasContext) : (s.setContext n r).re = s.re := rfl
@[simp] theorem State.setContext_eu (n : Nat) (r : Option MeasContext) : (s.setContext n r).eu = s.eu := rfl
@[simp] theorem State.setContext_lc (n : Nat) (r : Option MeasContext) : (s.setContext n r).lc = s.lc := rfl
@[simp] theorem State.setContext_cc (n : Nat) (r : Option MeasContext) : (s.setContext n r).cc = s.cc := rfl
@[simp] theorem State.setContext_hc (n : Nat) (r : Option MeasContext) : (s.setContext n r).hc = s.hc := rfl
@[simp] theorem State.setContext_mx (n : Nat) (r : Option MeasContext) : (s.setContext n r).mx = s.mx := rfl
@[simp] theorem State.setContext_ra (n : Nat) (r : Option MeasContext) : (s.setContext n r).ra = s.ra := rfl
@[simp] theorem State.setContext_su (n : Nat) (r : Option MeasContext) : (s.setContext n r).su = s.su := rfl
@[simp] theorem State.setContext_um_enable (n : Nat) (r : Option MeasContext) : (s.setContext n r).um.enable = s.um.enable := rfl
@[simp] theorem State.setContext_um_format (n : Nat) (r : Option MeasContext) : (s.setContext n r).um.format = s.um.format := rfl
@[simp] theorem State.setContext_um_updates (n : Nat) (r : Option MeasContext) : (s.setContext n r).um.updates = s.um.updates := rfl
@[simp] theorem State.setContext_um_inProgress (n : Nat) (r : Option MeasContext) : (s.setContext n r).um.inProgress = s.um.inProgress := rfl
@[simp] theorem State.setContext_line (n : Nat) (r : Option MeasContext) (m : Nat) : (s.setContext n r).line m = s.line m := rfl
@[simp] theorem State.setContext_key (n : Nat) (r : Option MeasContext) (m : Nat) : (s.setContext n r).key m = s.key m := rfl
@[simp] theorem State.setContext_appEntries (n : Nat) (r : Option MeasContext) (m : Nat) : (s.setContext n r).appEntries m = s.appEntries m := rfl
@[simp] theorem State.setContext_alertList (n : Nat) (r : Option MeasContext) (m : Nat) : (s.setContext n r).alertList m = s.alertList m := rfl
@[simp] theorem State.setContext_circuit (n : Nat) (r : Option MeasContext) (m : Nat) : (s.setContext n r).circuit m = s.circuit m := rfl
@[simp] theorem State.setContext_path (n : Nat) (r : Option MeasContext) (m : Nat) : (s.setContext n r).path m = s.path m := rfl
@[simp] theorem State.setContext_handset (n : Nat) (r : Option MeasContext) (m : Party) : (s.setContext n r).handset m = s.handset m := rfl
@[simp] theorem State.setContext_call (n : Nat) (r : Option MeasContext) (m : Nat) : (s.setContext n r).call m = s.call m := rfl
@[simp] theorem State.setContext_position (n : Nat) (r : Option MeasContext) (m : Nat) : (s.setContext n r).position m = s.position m := rfl
@[simp] theorem State.setContext_speaker (n : Nat) (r : Option MeasContext) (m : Nat) : (s.setContext n r).speaker m = s.speaker m := rfl
@[simp] theorem State.setContext_bridge (n : Nat) (r : Option MeasContext) (m : Nat) : (s.setContext n r).bridge m = s.bridge m := rfl
@[simp] theorem State.setContext_channel (n : Nat) (r : Option MeasContext) (m : Nat) : (s.setContext n r).channel m = s.channel m := rfl
@[simp] theorem State.setContext_port (n : Nat) (r : Option MeasContext) (m : Nat) : (s.setContext n r).port m = s.port m := rfl
@[simp] theorem State.setContext_context (n : Nat) (r : Option MeasContext) (m : Nat) :
    (s.setContext n r).context m = if m = n then r else s.context m := by
  simp [State.setContext, State.context]

/-! ## setUpdates -/

@[simp] theorem State.setUpdates_pending (r : List UpdateRec) : (s.setUpdates r).pending = s.pending := rfl
@[simp] theorem State.setUpdates_mem (r : List UpdateRec) : (s.setUpdates r).mem = s.mem := rfl
@[simp] theorem State.setUpdates_frame (r : List UpdateRec) : (s.setUpdates r).frame = s.frame := rfl
@[simp] theorem State.setUpdates_bi (r : List UpdateRec) : (s.setUpdates r).bi = s.bi := rfl
@[simp] theorem State.setUpdates_re (r : List UpdateRec) : (s.setUpdates r).re = s.re := rfl
@[simp] theorem State.setUpdates_eu (r : List UpdateRec) : (s.setUpdates r).eu = s.eu := rfl
@[simp] theorem State.setUpdates_lc (r : List UpdateRec) : (s.setUpdates r).lc = s.lc := rfl
@[simp] theorem State.setUpdates_cc (r : List UpdateRec) : (s.setUpdates r).cc = s.cc := rfl
@[simp] theorem State.setUpdates_hc (r : List UpdateRec) : (s.setUpdates r).hc = s.hc := rfl
@[simp] theorem State.setUpdates_mx (r : List UpdateRec) : (s.setUpdates r).mx = s.mx := rfl
@[simp] theorem State.setUpdates_ra (r : List UpdateRec) : (s.setUpdates r).ra = s.ra := rfl
@[simp] theorem State.setUpdates_su (r : List UpdateRec) : (s.setUpdates r).su = s.su := rfl
@[simp] theorem State.setUpdates_um_enable (r : List UpdateRec) : (s.setUpdates r).um.enable = s.um.enable := rfl
@[simp] theorem State.setUpdates_um_format (r : List UpdateRec) : (s.setUpdates r).um.format = s.um.format := rfl
@[simp] theorem State.setUpdates_um_contexts (r : List UpdateRec) : (s.setUpdates r).um.contexts = s.um.contexts := rfl
@[simp] theorem State.setUpdates_um_inProgress (r : List UpdateRec) : (s.setUpdates r).um.inProgress = s.um.inProgress := rfl
@[simp] theorem State.setUpdates_um_updates (r : List UpdateRec) : (s.setUpdates r).um.updates = r := rfl
@[simp] theorem State.setUpdates_line (r : List UpdateRec) (m : Nat) : (s.setUpdates r).line m = s.line m := rfl
@[simp] theorem State.setUpdates_key (r : List UpdateRec) (m : Nat) : (s.setUpdates r).key m = s.key m := rfl
@[simp] theorem State.setUpdates_appEntries (r : List UpdateRec) (m : Nat) : (s.setUpdates r).appEntries m = s.appEntries m := rfl
@[simp] theorem State.setUpdates_alertList (r : List UpdateRec) (m : Nat) : (s.setUpdates r).alertList m = s.alertList m := rfl
@[simp] theorem State.setUpdates_circuit (r : List UpdateRec) (m : Nat) : (s.setUpdates r).circuit m = s.circuit m := rfl
@[simp] theorem State.setUpdates_path (r : List UpdateRec) (m : Nat) : (s.setUpdates r).path m = s.path m := rfl
@[simp] theorem State.setUpdates_handset (r : List UpdateRec) (m : Party) : (s.setUpdates r).handset m = s.handset m := rfl
@[simp] theorem State.setUpdates_call (r : List UpdateRec) (m : Nat) : (s.setUpdates r).call m = s.call m := rfl
@[simp] theorem State.setUpdates_position (r : List UpdateRec) (m : Nat) : (s.setUpdates r).position m = s.position m := rfl
@[simp] theorem State.setUpdates_speaker (r : List UpdateRec) (m : Nat) : (s.setUpdates r).speaker m = s.speaker m := rfl
@[simp] theorem State.setUpdates_bridge (r : List UpdateRec) (m : Nat) : (s.setUpdates r).bridge m = s.bridge m := rfl
@[simp] theorem State.setUpdates_channel (r : List UpdateRec) (m : Nat) : (s.setUpdates r).channel m = s.channel m := rfl
@[simp] theorem State.setUpdates_port (r : List UpdateRec) (m : Nat) : (s.setUpdates r).port m = s.port m := rfl
@[simp] theorem State.setUpdates_context (r : List UpdateRec) (m : Nat) : (s.setUpdates r).context m = s.context m := rfl

/-! ## setInProgress -/

@[simp] theorem State.setInProgress_pending (r : Option Updating) : (s.setInProgress r).pending = s.pending := rfl
@[simp] theorem State.setInProgress_mem (r : Option Updating) : (s.setInProgress r).mem = s.mem := rfl
@[simp] theorem State.setInProgress_frame (r : Option Updating) : (s.setInProgress r).frame = s.frame := rfl
@[simp] theorem State.setInProgress_bi (r : Option Updating) : (s.setInProgress r).bi = s.bi := rfl
@[simp] theorem State.setInProgress_re (r : Option Updating) : (s.setInProgress r).re = s.re := rfl
@[simp] theorem State.setInProgress_eu (r : Option Updating) : (s.setInProgress r).eu = s.eu := rfl
@[simp] theorem State.setInProgress_lc (r : Option Updating) : (s.setInProgress r).lc = s.lc := rfl
@[simp] theorem State.setInProgress_cc (r : Option Updating) : (s.setInProgress r).cc = s.cc := rfl
@[simp] theorem State.setInProgress_hc (r : Option Updating) : (s.setInProgress r).hc = s.hc := rfl
@[simp] theorem State.setInProgress_mx (r : Option Updating) : (s.setInProgress r).mx = s.mx := rfl
@[simp] theorem State.setInProgress_ra (r : Option Updating) : (s.setInProgress r).ra = s.ra := rfl
@[simp] theorem State.setInProgress_su (r : Option Updating) : (s.setInProgress r).su = s.su := rfl
@[simp] theorem State.setInProgress_um_enable (r : Option Updating) : (s.setInProgress r).um.enable = s.um.enable := rfl
@[simp] theorem State.setInProgress_um_format (r : Option Updating) : (s.setInProgress r).um.format = s.um.format := rfl
@[simp] theorem State.setInProgress_um_contexts (r : Option Updating) : (s.setInProgress r).um.contexts = s.um.contexts := rfl
@[simp] theorem State.setInProgress_um_updates (r : Option Updating) : (s.setInProgress r).um.updates = s.um.updates := rfl
@[simp] theorem State.setInProgress_um_inProgress (r : Option Updating) : (s.setInProgress r).um.inProgress = r := rfl
@[simp] theorem State.setInProgress_line (r : Option Updating) (m : Nat) : (s.setInProgress r).line m = s.line m := rfl
@[simp] theorem State.setInProgress_key (r : Option Updating) (m : Nat) : (s.setInProgress r).key m = s.key m := rfl
@[simp] theorem State.setInProgress_appEntries (r : Option Updating) (m : Nat) : (s.setInProgress r).appEntries m = s.appEntries m := rfl
@[simp] theorem State.setInProgress_alertList (r : Option Updating) (m : Nat) : (s.setInProgress r).alertList m = s.alertList m := rfl
@[simp] theorem State.setInProgress_circuit (r : Option Updating) (m : Nat) : (s.setInProgress r).circuit m = s.circuit m := rfl
@[simp] theorem State.setInProgress_path (r : Option Updating) (m : Nat) : (s.setInProgress r).path m = s.path m := rfl
@[simp] theorem State.setInProgress_handset (r : Option Updating) (m : Party) : (s.setInProgress r).handset m = s.handset m := rfl
@[simp] theorem State.setInProgress_call (r : Option Updating) (m : Nat) : (s.setInProgress r).call m = s.call m := rfl
@[simp] theorem State.setInProgress_position (r : Option Updating) (m : Nat) : (s.setInProgress r).position m = s.position m := rfl
@[simp] theorem State.setInProgress_speaker (r : Option Updating) (m : Nat) : (s.setInProgress r).speaker m = s.speaker m := rfl
@[simp] theorem State.setInProgress_bridge (r : Option Updating) (m : Nat) : (s.setInProgress r).bridge m = s.bridge m := rfl
@[simp] theorem State.setInProgress_channel (r : Option Updating) (m : Nat) : (s.setInProgress r).channel m = s.channel m := rfl
@[simp] theorem State.setInProgress_port (r : Option Updating) (m : Nat) : (s.setInProgress r).port m = s.port m := rfl
@[simp] theorem State.setInProgress_context (r : Option Updating) (m : Nat) : (s.setInProgress r).context m = s.context m := rfl

/-! ## setTake -/

@[simp] theorem State.setTake_pending (r : Take) : (s.setTake r).pending = s.pending := rfl
@[simp] theorem State.setTake_mem (r : Take) : (s.setTake r).mem = s.mem := rfl
@[simp] theorem State.setTake_frame (r : Take) : (s.setTake r).frame = s.frame := rfl
@[simp] theorem State.setTake_bi (r : Take) : (s.setTake r).bi = s.bi := rfl
@[simp] theorem State.setTake_eu (r : Take) : (s.setTake r).eu = s.eu := rfl
@[simp] theorem State.setTake_lc (r : Take) : (s.setTake r).lc = s.lc := rfl
@[simp] theorem State.setTake_cc (r : Take) : (s.setTake r).cc = s.cc := rfl
@[simp] theorem State.setTake_hc (r : Take) : (s.setTake r).hc = s.hc := rfl
@[simp] theorem State.setTake_mx (r : Take) : (s.setTake r).mx = s.mx := rfl
@[simp] theorem State.setTake_ra (r : Take) : (s.setTake r).ra = s.ra := rfl
@[simp] theorem State.setTake_um (r : Take) : (s.setTake r).um = s.um := rfl
@[simp] theorem State.setTake_su (r : Take) : (s.setTake r).su = s.su := rfl
@[simp] theorem State.setTake_re_head (r : Take) : (s.setTake r).re.head = s.re.head := rfl
@[simp] theorem State.setTake_re_tail (r : Take) : (s.setTake r).re.tail = s.re.tail := rfl
@[simp] theorem State.setTake_re_take (r : Take) : (s.setTake r).re.take = r := rfl
@[simp] theorem State.setTake_line (r : Take) (m : Nat) : (s.setTake r).line m = s.line m := rfl
@[simp] theorem State.setTake_key (r : Take) (m : Nat) : (s.setTake r).key m = s.key m := rfl
@[simp] theorem State.setTake_appEntries (r : Take) (m : Nat) : (s.setTake r).appEntries m = s.appEntries m := rfl
@[simp] theorem State.setTake_alertList (r : Take) (m : Nat) : (s.setTake r).alertList m = s.alertList m := rfl
@[simp] theorem State.setTake_circuit (r : Take) (m : Nat) : (s.setTake r).circuit m = s.circuit m := rfl
@[simp] theorem State.setTake_path (r : Take) (m : Nat) : (s.setTake r).path m = s.path m := rfl
@[simp] theorem State.setTake_handset (r : Take) (m : Party) : (s.setTake r).handset m = s.handset m := rfl
@[simp] theorem State.setTake_call (r : Take) (m : Nat) : (s.setTake r).call m = s.call m := rfl
@[simp] theorem State.setTake_position (r : Take) (m : Nat) : (s.setTake r).position m = s.position m := rfl
@[simp] theorem State.setTake_speaker (r : Take) (m : Nat) : (s.setTake r).speaker m = s.speaker m := rfl
@[simp] theorem State.setTake_bridge (r : Take) (m : Nat) : (s.setTake r).bridge m = s.bridge m := rfl
@[simp] theorem State.setTake_channel (r : Take) (m : Nat) : (s.setTake r).channel m = s.channel m := rfl
@[simp] theorem State.setTake_port (r : Take) (m : Nat) : (s.setTake r).port m = s.port m := rfl
@[simp] theorem State.setTake_context (r : Take) (m : Nat) : (s.setTake r).context m = s.context m := rfl

/-! ## setPart -/

@[simp] theorem State.setPart_pending (r : PartState) : (s.setPart r).pending = s.pending := rfl
@[simp] theorem State.setPart_mem (r : PartState) : (s.setPart r).mem = s.mem := rfl
@[simp] theorem State.setPart_frame (r : PartState) : (s.setPart r).frame = s.frame := rfl
@[simp] theorem State.setPart_bi (r : PartState) : (s.setPart r).bi = s.bi := rfl
@[simp] theorem State.setPart_re (r : PartState) : (s.setPart r).re = s.re := rfl
@[simp] theorem State.setPart_eu (r : PartState) : (s.setPart r).eu = s.eu := rfl
@[simp] theorem State.setPart_lc (r : PartState) : (s.setPart r).lc = s.lc := rfl
@[simp] theorem State.setPart_cc (r : PartState) : (s.setPart r).cc = s.cc := rfl
@[simp] theorem State.setPart_hc (r : PartState) : (s.setPart r).hc = s.hc := rfl
@[simp] theorem State.setPart_mx (r : PartState) : (s.setPart r).mx = s.mx := rfl
@[simp] theorem State.setPart_ra (r : PartState) : (s.setPart r).ra = s.ra := rfl
@[simp] theorem State.setPart_um (r : PartState) : (s.setPart r).um = s.um := rfl
@[simp] theorem State.setPart_su_lineCount (r : PartState) : (s.setPart r).su.lineCount = s.su.lineCount := rfl
@[simp] theorem State.setPart_su_positionCount (r : PartState) : (s.setPart r).su.positionCount = s.su.positionCount := rfl
@[simp] theorem State.setPart_su_bridgeCount (r : PartState) : (s.setPart r).su.bridgeCount = s.su.bridgeCount := rfl
@[simp] theorem State.setPart_su_recorderCount (r : PartState) : (s.setPart r).su.recorderCount = s.su.recorderCount := rfl
@[simp] theorem State.setPart_su_ringTimeout (r : PartState) : (s.setPart r).su.ringTimeout = s.su.ringTimeout := rfl
@[simp] theorem State.setPart_su_restartMark (r : PartState) : (s.setPart r).su.restartMark = s.su.restartMark := rfl
@[simp] theorem State.setPart_su_draining (r : PartState) : (s.setPart r).su.draining = s.su.draining := rfl
@[simp] theorem State.setPart_su_load (r : PartState) : (s.setPart r).su.load = s.su.load := rfl
@[simp] theorem State.setPart_su_startFrame (r : PartState) : (s.setPart r).su.startFrame = s.su.startFrame := rfl
@[simp] theorem State.setPart_su_rejects (r : PartState) : (s.setPart r).su.rejects = s.su.rejects := rfl
@[simp] theorem State.setPart_su_part (r : PartState) : (s.setPart r).su.part = r := rfl
@[simp] theorem State.setPart_line (r : PartState) (m : Nat) : (s.setPart r).line m = s.line m := rfl
@[simp] theorem State.setPart_key (r : PartState) (m : Nat) : (s.setPart r).key m = s.key m := rfl
@[simp] theorem State.setPart_appEntries (r : PartState) (m : Nat) : (s.setPart r).appEntries m = s.appEntries m := rfl
@[simp] theorem State.setPart_alertList (r : PartState) (m : Nat) : (s.setPart r).alertList m = s.alertList m := rfl
@[simp] theorem State.setPart_circuit (r : PartState) (m : Nat) : (s.setPart r).circuit m = s.circuit m := rfl
@[simp] theorem State.setPart_path (r : PartState) (m : Nat) : (s.setPart r).path m = s.path m := rfl
@[simp] theorem State.setPart_handset (r : PartState) (m : Party) : (s.setPart r).handset m = s.handset m := rfl
@[simp] theorem State.setPart_call (r : PartState) (m : Nat) : (s.setPart r).call m = s.call m := rfl
@[simp] theorem State.setPart_position (r : PartState) (m : Nat) : (s.setPart r).position m = s.position m := rfl
@[simp] theorem State.setPart_speaker (r : PartState) (m : Nat) : (s.setPart r).speaker m = s.speaker m := rfl
@[simp] theorem State.setPart_bridge (r : PartState) (m : Nat) : (s.setPart r).bridge m = s.bridge m := rfl
@[simp] theorem State.setPart_channel (r : PartState) (m : Nat) : (s.setPart r).channel m = s.channel m := rfl
@[simp] theorem State.setPart_port (r : PartState) (m : Nat) : (s.setPart r).port m = s.port m := rfl
@[simp] theorem State.setPart_context (r : PartState) (m : Nat) : (s.setPart r).context m = s.context m := rfl

/-! ## setLoad -/

@[simp] theorem State.setLoad_pending (r : Option LoadStep) : (s.setLoad r).pending = s.pending := rfl
@[simp] theorem State.setLoad_mem (r : Option LoadStep) : (s.setLoad r).mem = s.mem := rfl
@[simp] theorem State.setLoad_frame (r : Option LoadStep) : (s.setLoad r).frame = s.frame := rfl
@[simp] theorem State.setLoad_bi (r : Option LoadStep) : (s.setLoad r).bi = s.bi := rfl
@[simp] theorem State.setLoad_re (r : Option LoadStep) : (s.setLoad r).re = s.re := rfl
@[simp] theorem State.setLoad_eu (r : Option LoadStep) : (s.setLoad r).eu = s.eu := rfl
@[simp] theorem State.setLoad_lc (r : Option LoadStep) : (s.setLoad r).lc = s.lc := rfl
@[simp] theorem State.setLoad_cc (r : Option LoadStep) : (s.setLoad r).cc = s.cc := rfl
@[simp] theorem State.setLoad_hc (r : Option LoadStep) : (s.setLoad r).hc = s.hc := rfl
@[simp] theorem State.setLoad_mx (r : Option LoadStep) : (s.setLoad r).mx = s.mx := rfl
@[simp] theorem State.setLoad_ra (r : Option LoadStep) : (s.setLoad r).ra = s.ra := rfl
@[simp] theorem State.setLoad_um (r : Option LoadStep) : (s.setLoad r).um = s.um := rfl
@[simp] theorem State.setLoad_su_part (r : Option LoadStep) : (s.setLoad r).su.part = s.su.part := rfl
@[simp] theorem State.setLoad_su_lineCount (r : Option LoadStep) : (s.setLoad r).su.lineCount = s.su.lineCount := rfl
@[simp] theorem State.setLoad_su_positionCount (r : Option LoadStep) : (s.setLoad r).su.positionCount = s.su.positionCount := rfl
@[simp] theorem State.setLoad_su_bridgeCount (r : Option LoadStep) : (s.setLoad r).su.bridgeCount = s.su.bridgeCount := rfl
@[simp] theorem State.setLoad_su_recorderCount (r : Option LoadStep) : (s.setLoad r).su.recorderCount = s.su.recorderCount := rfl
@[simp] theorem State.setLoad_su_ringTimeout (r : Option LoadStep) : (s.setLoad r).su.ringTimeout = s.su.ringTimeout := rfl
@[simp] theorem State.setLoad_su_restartMark (r : Option LoadStep) : (s.setLoad r).su.restartMark = s.su.restartMark := rfl
@[simp] theorem State.setLoad_su_draining (r : Option LoadStep) : (s.setLoad r).su.draining = s.su.draining := rfl
@[simp] theorem State.setLoad_su_startFrame (r : Option LoadStep) : (s.setLoad r).su.startFrame = s.su.startFrame := rfl
@[simp] theorem State.setLoad_su_rejects (r : Option LoadStep) : (s.setLoad r).su.rejects = s.su.rejects := rfl
@[simp] theorem State.setLoad_su_load (r : Option LoadStep) : (s.setLoad r).su.load = r := rfl
@[simp] theorem State.setLoad_line (r : Option LoadStep) (m : Nat) : (s.setLoad r).line m = s.line m := rfl
@[simp] theorem State.setLoad_key (r : Option LoadStep) (m : Nat) : (s.setLoad r).key m = s.key m := rfl
@[simp] theorem State.setLoad_appEntries (r : Option LoadStep) (m : Nat) : (s.setLoad r).appEntries m = s.appEntries m := rfl
@[simp] theorem State.setLoad_alertList (r : Option LoadStep) (m : Nat) : (s.setLoad r).alertList m = s.alertList m := rfl
@[simp] theorem State.setLoad_circuit (r : Option LoadStep) (m : Nat) : (s.setLoad r).circuit m = s.circuit m := rfl
@[simp] theorem State.setLoad_path (r : Option LoadStep) (m : Nat) : (s.setLoad r).path m = s.path m := rfl
@[simp] theorem State.setLoad_handset (r : Option LoadStep) (m : Party) : (s.setLoad r).handset m = s.handset m := rfl
@[simp] theorem State.setLoad_call (r : Option LoadStep) (m : Nat) : (s.setLoad r).call m = s.call m := rfl
@[simp] theorem State.setLoad_position (r : Option LoadStep) (m : Nat) : (s.setLoad r).position m = s.position m := rfl
@[simp] theorem State.setLoad_speaker (r : Option LoadStep) (m : Nat) : (s.setLoad r).speaker m = s.speaker m := rfl
@[simp] theorem State.setLoad_bridge (r : Option LoadStep) (m : Nat) : (s.setLoad r).bridge m = s.bridge m := rfl
@[simp] theorem State.setLoad_channel (r : Option LoadStep) (m : Nat) : (s.setLoad r).channel m = s.channel m := rfl
@[simp] theorem State.setLoad_port (r : Option LoadStep) (m : Nat) : (s.setLoad r).port m = s.port m := rfl
@[simp] theorem State.setLoad_context (r : Option LoadStep) (m : Nat) : (s.setLoad r).context m = s.context m := rfl

/-! ## Changes of a record in place -/

@[simp] theorem modLine_eq (n : Nat) (f : LineRec → LineRec) : modLine s n f = s.setLine n (f (s.line n)) := rfl
@[simp] theorem modCircuit_eq (n : Nat) (f : CircuitRec → CircuitRec) : modCircuit s n f = s.setCircuit n (f (s.circuit n)) := rfl
@[simp] theorem modPath_eq (n : Nat) (f : PathRec → PathRec) : modPath s n f = s.setPath n (f (s.path n)) := rfl
@[simp] theorem modHandset_eq (n : Party) (f : HandsetRec → HandsetRec) : modHandset s n f = s.setHandset n (f (s.handset n)) := rfl
@[simp] theorem modPosition_eq (n : Nat) (f : PosRec → PosRec) : modPosition s n f = s.setPosition n (f (s.position n)) := rfl
@[simp] theorem modSpeaker_eq (n : Nat) (f : SpeakerRec → SpeakerRec) : modSpeaker s n f = s.setSpeaker n (f (s.speaker n)) := rfl
@[simp] theorem modPort_eq (n : Nat) (f : PortRec → PortRec) : modPort s n f = s.setPort n (f (s.port n)) := rfl

/-! ## Records of equal blocks -/

theorem State.line_congr {s t : State} (h : t.lc = s.lc) (m : Nat) : t.line m = s.line m := by simp [State.line, h]
theorem State.key_congr {s t : State} (h : t.lc = s.lc) (m : Nat) : t.key m = s.key m := by simp [State.key, h]
theorem State.appEntries_congr {s t : State} (h : t.lc = s.lc) (m : Nat) : t.appEntries m = s.appEntries m := by simp [State.appEntries, h]
theorem State.alertList_congr {s t : State} (h : t.lc = s.lc) (m : Nat) : t.alertList m = s.alertList m := by simp [State.alertList, h]
theorem State.circuit_congr {s t : State} (h : t.cc = s.cc) (m : Nat) : t.circuit m = s.circuit m := by simp [State.circuit, h]
theorem State.path_congr {s t : State} (h : t.cc = s.cc) (m : Nat) : t.path m = s.path m := by simp [State.path, h]
theorem State.handset_congr {s t : State} (h : t.hc = s.hc) (m : Party) : t.handset m = s.handset m := by simp [State.handset, h]
theorem State.call_congr {s t : State} (h : t.hc = s.hc) (m : Nat) : t.call m = s.call m := by simp [State.call, h]
theorem State.position_congr {s t : State} (h : t.hc = s.hc) (m : Nat) : t.position m = s.position m := by simp [State.position, h]
theorem State.speaker_congr {s t : State} (h : t.mx = s.mx) (m : Nat) : t.speaker m = s.speaker m := by simp [State.speaker, h]
theorem State.bridge_congr {s t : State} (h : t.mx = s.mx) (m : Nat) : t.bridge m = s.bridge m := by simp [State.bridge, h]
theorem State.channel_congr {s t : State} (h : t.ra = s.ra) (m : Nat) : t.channel m = s.channel m := by simp [State.channel, h]
theorem State.port_congr {s t : State} (h : t.ra = s.ra) (m : Nat) : t.port m = s.port m := by simp [State.port, h]
theorem State.context_congr {s t : State} (h : t.um = s.um) (m : Nat) : t.context m = s.context m := by simp [State.context, h]

end Sys2Proof.Machine
end

