-- ==== Sys2Proof/Laws/Alerts.lean ====
section
/-!
SUPPORT. Alert lists: what an addition adds, and that a line on its way out of RINGING_IN is on none (R14, R15).
-/

namespace Sys2Proof.Machine

/-- An insertion adds the line and nothing else. -/
theorem mem_insertByRing (s : State) (n m : Nat) (l : List Nat) : m ∈ insertByRing s n l ↔ m = n ∨ m ∈ l := by
  induction l with
  | nil => simp [insertByRing]
  | cons k t ih =>
    unfold insertByRing
    split
    · simp
    · simp [ih]; tauto

/-- Adding an alert changes the one list, and adds the one line (R14). -/
theorem addAlert_mem (s : State) (p n q m : Nat) (h : m ∈ (addAlert s p n).alertList q) : m ∈ s.alertList q ∨ (m = n ∧ q = p) := by
  unfold addAlert at h
  dsimp only at h
  split at h
  · by_cases hq : q = p
    · subst hq
      simp [mem_insertByRing] at h
      tauto
    · simp [hq] at h; exact .inl h
  · exact .inl h

theorem addAlert_lines (s : State) (p n : Nat) : (addAlert s p n).lc.lines = s.lc.lines := by
  unfold addAlert; dsimp only; split <;> rfl

/-- What backfills a list is never the line that is leaving (R15). -/
theorem nextAlert_ne (s : State) (p n m : Nat) (h : nextAlert s p (some n) = some m) : m ≠ n := by
  unfold nextAlert at h
  dsimp only at h
  have key : ∀ (l : List Nat) (b : Option Nat), (∀ x ∈ l, x ≠ n) → (∀ x, b = some x → x ≠ n) → ∀ x,
      l.foldl (fun best k => match best with | none => some k | some b => if ringsBefore s k b then some k else some b) b = some x → x ≠ n := by
    intro l
    induction l with
    | nil => exact fun b _ hb x hx => hb x hx
    | cons k t ih =>
      intro b hl hb x hx
      refine ih _ (fun y hy => hl y (List.mem_cons_of_mem _ hy)) (fun y hy => ?_) x hx
      cases b with
      | none => cases hy; exact hl k List.mem_cons_self
      | some c =>
        dsimp only at hy
        split at hy
        · cases hy; exact hl k List.mem_cons_self
        · cases hy; exact hb _ rfl
  refine key _ none (fun x hx => ?_) (fun x hx => by cases hx) m h
  rw [List.mem_filter] at hx
  simp at hx
  exact fun e => hx.2.1.1 e.symm

/-- A line that leaves a list on its way out of RINGING_IN is off that list, and on no other than before (R15). -/
theorem removeAlert_notMem (s : State) (p n q : Nat) (h : q = p ∨ n ∉ s.alertList q) : n ∉ (removeAlert s p n (some n)).alertList q := by
  have hset : (q = p → n ∉ (s.setAlertList p ((s.alertList p).filter (· ≠ n))).alertList q) ∧
      (n ∉ s.alertList q → n ∉ (s.setAlertList p ((s.alertList p).filter (· ≠ n))).alertList q) := by
    by_cases hq : q = p
    · subst hq; simp
    · simp [hq]
  unfold removeAlert
  split
  · unfold backfill
    split
    · next m hm =>
      intro hmem
      rcases addAlert_mem _ _ _ _ _ hmem with hc | ⟨hc, _⟩
      · exact h.elim (fun e => hset.1 e hc) (fun e => hset.2 e hc)
      · exact nextAlert_ne _ _ _ _ hm hc.symm
    · exact h.elim (fun e => hset.1 e) (fun e => hset.2 e)
  · next hc =>
    rcases h with rfl | h
    · simpa using hc
    · exact h

theorem mem_mergeKey (i j : Nat) (l : List Nat) : j ∈ Table.mergeKey i l ↔ j = i ∨ j ∈ l := by
  induction l with
  | nil => simp [Table.mergeKey]
  | cons k t ih =>
    unfold Table.mergeKey
    split
    · simp
    · split
      · next h => subst h; simp
      · simp [ih]; tauto

theorem mem_mergeKeys (a b : List Nat) (j : Nat) : j ∈ Table.mergeKeys a b ↔ j ∈ a ∨ j ∈ b := by
  unfold Table.mergeKeys
  induction b generalizing a with
  | nil => simp
  | cons i b ih => simp only [List.foldl_cons, ih, mem_mergeKey, List.mem_cons]; tauto

/-- A line that leaves RINGING_IN is on no alert list (R15). -/
theorem leaveAlerts_notMem (s : State) (n q : Nat) : n ∉ (leaveAlerts s n).alertList q := by
  have key : ∀ (ps : List Nat) (s : State), (q ∈ ps ∨ n ∉ s.alertList q) →
      n ∉ (ps.foldl (fun s p => removeAlert s p n (some n)) s).alertList q := by
    intro ps
    induction ps with
    | nil => exact fun s h => h.resolve_left (by simp)
    | cons p ps ih =>
      intro s h
      refine ih _ ?_
      by_cases hq : q ∈ ps
      · exact .inl hq
      · refine .inr (removeAlert_notMem s p n q ?_)
        rcases h with h | h
        · exact .inl ((List.mem_cons.mp h).resolve_right hq)
        · exact .inr h
  refine key _ s ?_
  by_cases hq : q ∈ Table.keys s.lc.alerts
  · exact .inl ((mem_mergeKeys _ _ _).mpr (.inr hq))
  · right
    rw [State.alertList, Table.get_eq_default_of_notMem _ _ _ hq]
    simp

end Sys2Proof.Machine
end

