-- ==== Sys2Proof/Laws/Bits.lean ====
section
/-!
SUPPORT. The bits of masks and of reach sets.
-/

namespace Sys2Proof.Machine

/-! ## Sums of powers of two -/

theorem sum_shifts_lt (f : Nat → Bool) (n : Nat) : ((List.range n).map fun i => if f i then 1 <<< i else 0).sum < 2 ^ n := by
  induction n with
  | zero => simp
  | succ n ih =>
    rw [List.range_succ, List.map_append, List.sum_append, Nat.pow_succ]
    simp only [List.map_cons, List.map_nil, List.sum_cons, List.sum_nil, Nat.shiftLeft_eq, Nat.one_mul] at *
    split <;> omega

/-- The sum of the powers of two of the numbers below n with a property has just their bits. -/
theorem sum_shifts_testBit (f : Nat → Bool) (n j : Nat) :
    ((List.range n).map fun i => if f i then 1 <<< i else 0).sum.testBit j = (decide (j < n) && f j) := by
  induction n with
  | zero => simp
  | succ n ih =>
    have hl := sum_shifts_lt f n
    have ho := Nat.testBit_two_pow_mul_add 1 hl j
    rw [List.range_succ, List.map_append, List.sum_append, Nat.add_comm]
    simp only [List.map_cons, List.map_nil, List.sum_cons, List.sum_nil, Nat.add_zero, Nat.shiftLeft_eq, Nat.one_mul, Nat.mul_one] at *
    rcases Nat.lt_trichotomy j n with hj | rfl | hj
    · cases hf : f n <;> simp_all [Nat.lt_succ_of_lt hj]
    · cases hf : f j <;> simp_all
    · have h1 : Nat.testBit 1 (j - n) = false := by
        rw [Nat.testBit_lt_two_pow]
        exact Nat.one_lt_two_pow (by omega)
      have h2 : ¬ j ≤ n := by omega
      cases hf : f n <;> simp_all [Nat.not_lt_of_gt hj]

@[simp] theorem maskOf_getLsbD (f : Nat → Bool) (i : Nat) : (maskOf f).getLsbD i = (decide (i < 4) && f i) := by
  rw [maskOf, BitVec.getLsbD_ofNat, sum_shifts_testBit]
  by_cases h : i < 4 <;> simp [h]

/-- One bit of a mask is set or cleared, the others stay. -/
@[simp] theorem setMaskBit_getLsbD (m : BitVec 4) (i : Nat) (b : Bool) (j : Nat) :
    (setMaskBit m i b).getLsbD j = (decide (j < 4) && if j = i then b else m.getLsbD j) := by simp [setMaskBit]

/-- The bits of a reach set are the calls that reach the position (R69). -/
theorem reachOf_getLsbD (s : State) (p c : Nat) : (reachOf s p).getLsbD c = (decide (c < 16) && reaches s c p) := by
  rw [reachOf, BitVec.getLsbD_ofNat, sum_shifts_testBit]
  by_cases h : c < 16 <;> simp [h]

theorem reaches_congr {s t : State} (h : t.hc.calls = s.hc.calls) (hp : ∀ p, (t.position p).applied = (s.position p).applied) (c p : Nat) :
    reaches t c p = reaches s c p := by
  have hc : t.call c = s.call c := by simp [State.call, h]
  unfold reaches
  simp [hc, hp]

theorem reachOf_congr {s t : State} (h : t.hc.calls = s.hc.calls) (hp : ∀ p, (t.position p).applied = (s.position p).applied) (p : Nat) :
    reachOf t p = reachOf s p := by
  unfold reachOf
  simp only [reaches_congr h hp]

/-- After a recomputation every position's reach set is what reaches it (R69). -/
theorem recomputeReach_reach (s : State) (p : Nat) (hp : p < 32) : ((recomputeReach s).position p).reach = reachOf s p := by
  have key : ∀ (n : Nat) (p : Nat),
      let t := (List.range n).foldl (fun s p => modPosition s p fun r => { r with reach := reachOf s p }) s
      (t.hc.calls = s.hc.calls ∧ ∀ q, (t.position q).applied = (s.position q).applied) ∧ (p < n → (t.position p).reach = reachOf s p) := by
    intro n
    induction n with
    | zero => exact fun p => ⟨⟨rfl, fun _ => rfl⟩, fun h => absurd h (Nat.not_lt_zero _)⟩
    | succ n ih =>
      intro p
      obtain ⟨⟨hc, ha⟩, -⟩ := ih p
      simp only [List.range_succ, List.foldl_append, List.foldl_cons, List.foldl_nil]
      refine ⟨⟨by simpa [modPosition, State.setPosition] using hc, fun q => ?_⟩, fun hp => ?_⟩
      · by_cases hq : q = n
        · subst hq; simpa using ha q
        · simpa [hq] using ha q
      · by_cases hq : p = n
        · subst hq; simpa using reachOf_congr hc ha p
        · simpa [hq] using (ih p).2 (by omega)
  exact (key 32 p).2 hp

end Sys2Proof.Machine
end

