-- ==== Sys2Proof/Laws/Ops.lean ====
section
/-!
SUPPORT. What the shared operations of Machine/Ops.lean can do: the posted write queue, events, faults.
-/

namespace Sys2Proof.Machine

/-! ## The posted write queue -/

/-- Refilling keeps the order of all writes, queued and waiting (R137). -/
theorem refill_queue (b : BI) : (BI.refill b).pwq ++ (BI.refill b).waiting = b.pwq ++ b.waiting := by
  simp [BI.refill, List.append_assoc]

/-- Refilling a queue that is not over its size restores the discipline (R137, R138). -/
theorem refill_ok (b : BI) (h : b.pwq.length ≤ 16) : QueueOk (BI.refill b) := by
  have hlen : ((BI.refill b).pwq).length = b.pwq.length + min (16 - b.pwq.length) b.waiting.length := by
    simp [BI.refill, Config.pwqSize]
  have hmode : (BI.refill b).mode = arbiterAt b.mode ((BI.refill b).pwq).length := rfl
  refine ⟨by omega, fun hw => ?_, fun hm => ?_, fun hm => ?_⟩
  · have : b.waiting.drop (16 - b.pwq.length) ≠ [] := hw
    have := mt List.drop_eq_nil_of_le this
    omega
  · rw [hmode] at hm
    revert hm
    unfold arbiterAt Config.drainDepth Config.normalDepth
    split <;> split <;> simp <;> omega
  · rw [hmode] at hm
    revert hm
    unfold arbiterAt Config.drainDepth Config.normalDepth
    split <;> split <;> simp <;> omega

@[simp] theorem postAll_writes (s : State) (ws : List (Nat × Word)) : writesOf (postAll s ws) = writesOf s ++ ws := by
  simp [writesOf, postAll, refill_queue, List.append_assoc]

theorem postAll_ok (s : State) (ws : List (Nat × Word)) (h : s.bi.pwq.length ≤ 16) : QueueOk (postAll s ws).bi := refill_ok _ h

/-! ## Youngest values -/

/-- What a processor read returns rests on the part's unwritten writes and the SRAM alone (R137). -/
theorem latestWord_eq (s : State) (off : Nat) :
    latestWord s off = (youngest (writesOf s) off).getD (wordAt s.mem (sramAddress s off)) := rfl

theorem youngest_append (q ws : List (Nat × Word)) (off : Nat) : youngest (q ++ ws) off = (youngest ws off).or (youngest q off) := by
  simp only [youngest, List.reverse_append, List.find?_append]
  cases (ws.reverse.find? fun e => e.1 == off) <;> simp

theorem youngest_none (ws : List (Nat × Word)) (off : Nat) (h : ∀ e ∈ ws, e.1 ≠ off) : youngest ws off = none := by
  simp only [youngest, Option.map_eq_none_iff, List.find?_eq_none, List.mem_reverse]
  intro e he
  simpa using h e he

/-- The words of a record posted at an offset are what is read there (R137). -/
theorem youngest_writesAt (off : Nat) (ws : List Word) (i : Nat) (h : i < ws.length) :
    youngest (writesAt off ws) (off + i) = some (ws.getD i 0#32) := by
  have hmem : (off + i, ws.getD i 0#32) ∈ (writesAt off ws).reverse := by
    simp only [writesAt, List.mem_reverse, List.mem_map, List.mem_range]
    exact ⟨i, h, rfl⟩
  unfold youngest
  cases hf : ((writesAt off ws).reverse.find? fun e => e.1 == off + i) with
  | none =>
    rw [List.find?_eq_none] at hf
    exact absurd (hf _ hmem) (by simp)
  | some e =>
    have h1 := List.find?_some hf
    have h2 := List.mem_of_find?_eq_some hf
    simp only [writesAt, List.mem_reverse, List.mem_map, List.mem_range] at h2
    obtain ⟨j, hj, rfl⟩ := h2
    simp only [beq_iff_eq, Nat.add_left_cancel_iff] at h1
    subst h1
    rfl

theorem writesAt_offsets (off : Nat) (ws : List Word) : ∀ e ∈ writesAt off ws, off ≤ e.1 ∧ e.1 < off + ws.length := by
  intro e he
  simp only [writesAt, List.mem_map, List.mem_range] at he
  obtain ⟨j, hj, rfl⟩ := he
  exact ⟨Nat.le_add_right _ _, by omega⟩

end Sys2Proof.Machine
end

