-- ==== Sys2Proof/Laws/Frames.lean ====
section
/-!
SUPPORT. What posting writes, issuing an event, an occurrence and raising a fault leave as it was.
-/

namespace Sys2Proof.Machine

variable (s : State)

/-! ## postAll -/

@[simp] theorem postAll_pending (ws : List (Nat × Word)) : (postAll s ws).pending = s.pending := by rfl
@[simp] theorem postAll_mem (ws : List (Nat × Word)) : (postAll s ws).mem = s.mem := by rfl
@[simp] theorem postAll_frame (ws : List (Nat × Word)) : (postAll s ws).frame = s.frame := by rfl
@[simp] theorem postAll_re (ws : List (Nat × Word)) : (postAll s ws).re = s.re := by rfl
@[simp] theorem postAll_eu (ws : List (Nat × Word)) : (postAll s ws).eu = s.eu := by rfl
@[simp] theorem postAll_lc (ws : List (Nat × Word)) : (postAll s ws).lc = s.lc := by rfl
@[simp] theorem postAll_cc (ws : List (Nat × Word)) : (postAll s ws).cc = s.cc := by rfl
@[simp] theorem postAll_hc (ws : List (Nat × Word)) : (postAll s ws).hc = s.hc := by rfl
@[simp] theorem postAll_mx (ws : List (Nat × Word)) : (postAll s ws).mx = s.mx := by rfl
@[simp] theorem postAll_ra (ws : List (Nat × Word)) : (postAll s ws).ra = s.ra := by rfl
@[simp] theorem postAll_um (ws : List (Nat × Word)) : (postAll s ws).um = s.um := by rfl
@[simp] theorem postAll_su (ws : List (Nat × Word)) : (postAll s ws).su = s.su := by rfl
@[simp] theorem postAll_bi_base (ws : List (Nat × Word)) : (postAll s ws).bi.base = s.bi.base := by rfl
@[simp] theorem postAll_bi_copies (ws : List (Nat × Word)) : (postAll s ws).bi.copies = s.bi.copies := by rfl
@[simp] theorem postAll_bi_startCopy (ws : List (Nat × Word)) : (postAll s ws).bi.startCopy = s.bi.startCopy := by rfl
@[simp] theorem postAll_bi_latch (ws : List (Nat × Word)) : (postAll s ws).bi.latch = s.bi.latch := by rfl
@[simp] theorem postAll_bi_measHold (ws : List (Nat × Word)) : (postAll s ws).bi.measHold = s.bi.measHold := by rfl
@[simp] theorem postAll_bi_held (ws : List (Nat × Word)) : (postAll s ws).bi.held = s.bi.held := by rfl
@[simp] theorem postAll_bi_readData (ws : List (Nat × Word)) : (postAll s ws).bi.readData = s.bi.readData := by rfl
@[simp] theorem postAll_line (ws : List (Nat × Word)) (m : Nat) : (postAll s ws).line m = s.line m := State.line_congr (postAll_lc s ws) m
@[simp] theorem postAll_key (ws : List (Nat × Word)) (m : Nat) : (postAll s ws).key m = s.key m := State.key_congr (postAll_lc s ws) m
@[simp] theorem postAll_appEntries (ws : List (Nat × Word)) (m : Nat) : (postAll s ws).appEntries m = s.appEntries m := State.appEntries_congr (postAll_lc s ws) m
@[simp] theorem postAll_alertList (ws : List (Nat × Word)) (m : Nat) : (postAll s ws).alertList m = s.alertList m := State.alertList_congr (postAll_lc s ws) m
@[simp] theorem postAll_circuit (ws : List (Nat × Word)) (m : Nat) : (postAll s ws).circuit m = s.circuit m := State.circuit_congr (postAll_cc s ws) m
@[simp] theorem postAll_path (ws : List (Nat × Word)) (m : Nat) : (postAll s ws).path m = s.path m := State.path_congr (postAll_cc s ws) m
@[simp] theorem postAll_handset (ws : List (Nat × Word)) (m : Party) : (postAll s ws).handset m = s.handset m := State.handset_congr (postAll_hc s ws) m
@[simp] theorem postAll_call (ws : List (Nat × Word)) (m : Nat) : (postAll s ws).call m = s.call m := State.call_congr (postAll_hc s ws) m
@[simp] theorem postAll_position (ws : List (Nat × Word)) (m : Nat) : (postAll s ws).position m = s.position m := State.position_congr (postAll_hc s ws) m
@[simp] theorem postAll_speaker (ws : List (Nat × Word)) (m : Nat) : (postAll s ws).speaker m = s.speaker m := State.speaker_congr (postAll_mx s ws) m
@[simp] theorem postAll_bridge (ws : List (Nat × Word)) (m : Nat) : (postAll s ws).bridge m = s.bridge m := State.bridge_congr (postAll_mx s ws) m
@[simp] theorem postAll_channel (ws : List (Nat × Word)) (m : Nat) : (postAll s ws).channel m = s.channel m := State.channel_congr (postAll_ra s ws) m
@[simp] theorem postAll_port (ws : List (Nat × Word)) (m : Nat) : (postAll s ws).port m = s.port m := State.port_congr (postAll_ra s ws) m
@[simp] theorem postAll_context (ws : List (Nat × Word)) (m : Nat) : (postAll s ws).context m = s.context m := State.context_congr (postAll_um s ws) m

/-! ## issue -/

@[simp] theorem issue_pending (e : Event) : (issue s e).pending = s.pending := by unfold issue; split <;> rfl
@[simp] theorem issue_mem (e : Event) : (issue s e).mem = s.mem := by unfold issue; split <;> rfl
@[simp] theorem issue_frame (e : Event) : (issue s e).frame = s.frame := by unfold issue; split <;> rfl
@[simp] theorem issue_re (e : Event) : (issue s e).re = s.re := by unfold issue; split <;> rfl
@[simp] theorem issue_lc (e : Event) : (issue s e).lc = s.lc := by unfold issue; split <;> rfl
@[simp] theorem issue_cc (e : Event) : (issue s e).cc = s.cc := by unfold issue; split <;> rfl
@[simp] theorem issue_hc (e : Event) : (issue s e).hc = s.hc := by unfold issue; split <;> rfl
@[simp] theorem issue_mx (e : Event) : (issue s e).mx = s.mx := by unfold issue; split <;> rfl
@[simp] theorem issue_ra (e : Event) : (issue s e).ra = s.ra := by unfold issue; split <;> rfl
@[simp] theorem issue_um (e : Event) : (issue s e).um = s.um := by unfold issue; split <;> rfl
@[simp] theorem issue_su (e : Event) : (issue s e).su = s.su := by unfold issue; split <;> rfl
@[simp] theorem issue_bi_base (e : Event) : (issue s e).bi.base = s.bi.base := by unfold issue; split <;> rfl
@[simp] theorem issue_bi_copies (e : Event) : (issue s e).bi.copies = s.bi.copies := by unfold issue; split <;> rfl
@[simp] theorem issue_bi_startCopy (e : Event) : (issue s e).bi.startCopy = s.bi.startCopy := by unfold issue; split <;> rfl
@[simp] theorem issue_bi_latch (e : Event) : (issue s e).bi.latch = s.bi.latch := by unfold issue; split <;> rfl
@[simp] theorem issue_bi_measHold (e : Event) : (issue s e).bi.measHold = s.bi.measHold := by unfold issue; split <;> rfl
@[simp] theorem issue_bi_held (e : Event) : (issue s e).bi.held = s.bi.held := by unfold issue; split <;> rfl
@[simp] theorem issue_bi_readData (e : Event) : (issue s e).bi.readData = s.bi.readData := by unfold issue; split <;> rfl
@[simp] theorem issue_eu_evtRead (e : Event) : (issue s e).eu.evtRead = s.eu.evtRead := by unfold issue; split <;> rfl
@[simp] theorem issue_eu_fault (e : Event) : (issue s e).eu.fault = s.eu.fault := by unfold issue; split <;> rfl
@[simp] theorem issue_eu_recorder (e : Event) : (issue s e).eu.recorder = s.eu.recorder := by unfold issue; split <;> rfl
@[simp] theorem issue_eu_mask (e : Event) : (issue s e).eu.mask = s.eu.mask := by unfold issue; split <;> rfl
@[simp] theorem issue_eu_attention (e : Event) : (issue s e).eu.attention = s.eu.attention := by unfold issue; split <;> rfl
@[simp] theorem issue_eu_fltHead (e : Event) : (issue s e).eu.fltHead = s.eu.fltHead := by unfold issue; split <;> rfl
@[simp] theorem issue_eu_fltRead (e : Event) : (issue s e).eu.fltRead = s.eu.fltRead := by unfold issue; split <;> rfl
@[simp] theorem issue_eu_cause (e : Event) : (issue s e).eu.cause = s.eu.cause := by unfold issue; split <;> rfl
@[simp] theorem issue_eu_unlogged (e : Event) : (issue s e).eu.unlogged = s.eu.unlogged := by unfold issue; split <;> rfl
@[simp] theorem issue_line (e : Event) (m : Nat) : (issue s e).line m = s.line m := State.line_congr (issue_lc s e) m
@[simp] theorem issue_key (e : Event) (m : Nat) : (issue s e).key m = s.key m := State.key_congr (issue_lc s e) m
@[simp] theorem issue_appEntries (e : Event) (m : Nat) : (issue s e).appEntries m = s.appEntries m := State.appEntries_congr (issue_lc s e) m
@[simp] theorem issue_alertList (e : Event) (m : Nat) : (issue s e).alertList m = s.alertList m := State.alertList_congr (issue_lc s e) m
@[simp] theorem issue_circuit (e : Event) (m : Nat) : (issue s e).circuit m = s.circuit m := State.circuit_congr (issue_cc s e) m
@[simp] theorem issue_path (e : Event) (m : Nat) : (issue s e).path m = s.path m := State.path_congr (issue_cc s e) m
@[simp] theorem issue_handset (e : Event) (m : Party) : (issue s e).handset m = s.handset m := State.handset_congr (issue_hc s e) m
@[simp] theorem issue_call (e : Event) (m : Nat) : (issue s e).call m = s.call m := State.call_congr (issue_hc s e) m
@[simp] theorem issue_position (e : Event) (m : Nat) : (issue s e).position m = s.position m := State.position_congr (issue_hc s e) m
@[simp] theorem issue_speaker (e : Event) (m : Nat) : (issue s e).speaker m = s.speaker m := State.speaker_congr (issue_mx s e) m
@[simp] theorem issue_bridge (e : Event) (m : Nat) : (issue s e).bridge m = s.bridge m := State.bridge_congr (issue_mx s e) m
@[simp] theorem issue_channel (e : Event) (m : Nat) : (issue s e).channel m = s.channel m := State.channel_congr (issue_ra s e) m
@[simp] theorem issue_port (e : Event) (m : Nat) : (issue s e).port m = s.port m := State.port_congr (issue_ra s e) m
@[simp] theorem issue_context (e : Event) (m : Nat) : (issue s e).context m = s.context m := State.context_congr (issue_um s e) m

/-! ## recorderOccurrence -/

@[simp] theorem recorderOccurrence_pending : (recorderOccurrence s).pending = s.pending := by rfl
@[simp] theorem recorderOccurrence_mem : (recorderOccurrence s).mem = s.mem := by rfl
@[simp] theorem recorderOccurrence_frame : (recorderOccurrence s).frame = s.frame := by rfl
@[simp] theorem recorderOccurrence_bi : (recorderOccurrence s).bi = s.bi := by rfl
@[simp] theorem recorderOccurrence_re : (recorderOccurrence s).re = s.re := by rfl
@[simp] theorem recorderOccurrence_lc : (recorderOccurrence s).lc = s.lc := by rfl
@[simp] theorem recorderOccurrence_cc : (recorderOccurrence s).cc = s.cc := by rfl
@[simp] theorem recorderOccurrence_hc : (recorderOccurrence s).hc = s.hc := by rfl
@[simp] theorem recorderOccurrence_mx : (recorderOccurrence s).mx = s.mx := by rfl
@[simp] theorem recorderOccurrence_ra : (recorderOccurrence s).ra = s.ra := by rfl
@[simp] theorem recorderOccurrence_um : (recorderOccurrence s).um = s.um := by rfl
@[simp] theorem recorderOccurrence_su : (recorderOccurrence s).su = s.su := by rfl
@[simp] theorem recorderOccurrence_eu_evtHead : (recorderOccurrence s).eu.evtHead = s.eu.evtHead := by rfl
@[simp] theorem recorderOccurrence_eu_evtRead : (recorderOccurrence s).eu.evtRead = s.eu.evtRead := by rfl
@[simp] theorem recorderOccurrence_eu_lost : (recorderOccurrence s).eu.lost = s.eu.lost := by rfl
@[simp] theorem recorderOccurrence_eu_overflow : (recorderOccurrence s).eu.overflow = s.eu.overflow := by rfl
@[simp] theorem recorderOccurrence_eu_fault : (recorderOccurrence s).eu.fault = s.eu.fault := by rfl
@[simp] theorem recorderOccurrence_eu_mask : (recorderOccurrence s).eu.mask = s.eu.mask := by rfl
@[simp] theorem recorderOccurrence_eu_attention : (recorderOccurrence s).eu.attention = s.eu.attention := by rfl
@[simp] theorem recorderOccurrence_eu_fltHead : (recorderOccurrence s).eu.fltHead = s.eu.fltHead := by rfl
@[simp] theorem recorderOccurrence_eu_fltRead : (recorderOccurrence s).eu.fltRead = s.eu.fltRead := by rfl
@[simp] theorem recorderOccurrence_eu_cause : (recorderOccurrence s).eu.cause = s.eu.cause := by rfl
@[simp] theorem recorderOccurrence_eu_unlogged : (recorderOccurrence s).eu.unlogged = s.eu.unlogged := by rfl
@[simp] theorem recorderOccurrence_line (m : Nat) : (recorderOccurrence s).line m = s.line m := State.line_congr (recorderOccurrence_lc s) m
@[simp] theorem recorderOccurrence_key (m : Nat) : (recorderOccurrence s).key m = s.key m := State.key_congr (recorderOccurrence_lc s) m
@[simp] theorem recorderOccurrence_appEntries (m : Nat) : (recorderOccurrence s).appEntries m = s.appEntries m := State.appEntries_congr (recorderOccurrence_lc s) m
@[simp] theorem recorderOccurrence_alertList (m : Nat) : (recorderOccurrence s).alertList m = s.alertList m := State.alertList_congr (recorderOccurrence_lc s) m
@[simp] theorem recorderOccurrence_circuit (m : Nat) : (recorderOccurrence s).circuit m = s.circuit m := State.circuit_congr (recorderOccurrence_cc s) m
@[simp] theorem recorderOccurrence_path (m : Nat) : (recorderOccurrence s).path m = s.path m := State.path_congr (recorderOccurrence_cc s) m
@[simp] theorem recorderOccurrence_handset (m : Party) : (recorderOccurrence s).handset m = s.handset m := State.handset_congr (recorderOccurrence_hc s) m
@[simp] theorem recorderOccurrence_call (m : Nat) : (recorderOccurrence s).call m = s.call m := State.call_congr (recorderOccurrence_hc s) m
@[simp] theorem recorderOccurrence_position (m : Nat) : (recorderOccurrence s).position m = s.position m := State.position_congr (recorderOccurrence_hc s) m
@[simp] theorem recorderOccurrence_speaker (m : Nat) : (recorderOccurrence s).speaker m = s.speaker m := State.speaker_congr (recorderOccurrence_mx s) m
@[simp] theorem recorderOccurrence_bridge (m : Nat) : (recorderOccurrence s).bridge m = s.bridge m := State.bridge_congr (recorderOccurrence_mx s) m
@[simp] theorem recorderOccurrence_channel (m : Nat) : (recorderOccurrence s).channel m = s.channel m := State.channel_congr (recorderOccurrence_ra s) m
@[simp] theorem recorderOccurrence_port (m : Nat) : (recorderOccurrence s).port m = s.port m := State.port_congr (recorderOccurrence_ra s) m
@[simp] theorem recorderOccurrence_context (m : Nat) : (recorderOccurrence s).context m = s.context m := State.context_congr (recorderOccurrence_um s) m

/-! ## logFault -/

@[simp] theorem logFault_pending (f : FaultReport) (d : Bool) : (logFault s f d).pending = s.pending := by simp [logFault]
@[simp] theorem logFault_mem (f : FaultReport) (d : Bool) : (logFault s f d).mem = s.mem := by simp [logFault]
@[simp] theorem logFault_frame (f : FaultReport) (d : Bool) : (logFault s f d).frame = s.frame := by simp [logFault]
@[simp] theorem logFault_re (f : FaultReport) (d : Bool) : (logFault s f d).re = s.re := by simp [logFault]
@[simp] theorem logFault_lc (f : FaultReport) (d : Bool) : (logFault s f d).lc = s.lc := by simp [logFault]
@[simp] theorem logFault_cc (f : FaultReport) (d : Bool) : (logFault s f d).cc = s.cc := by simp [logFault]
@[simp] theorem logFault_hc (f : FaultReport) (d : Bool) : (logFault s f d).hc = s.hc := by simp [logFault]
@[simp] theorem logFault_mx (f : FaultReport) (d : Bool) : (logFault s f d).mx = s.mx := by simp [logFault]
@[simp] theorem logFault_ra (f : FaultReport) (d : Bool) : (logFault s f d).ra = s.ra := by simp [logFault]
@[simp] theorem logFault_um (f : FaultReport) (d : Bool) : (logFault s f d).um = s.um := by simp [logFault]
@[simp] theorem logFault_su (f : FaultReport) (d : Bool) : (logFault s f d).su = s.su := by simp [logFault]
@[simp] theorem logFault_bi_base (f : FaultReport) (d : Bool) : (logFault s f d).bi.base = s.bi.base := by simp [logFault]
@[simp] theorem logFault_bi_copies (f : FaultReport) (d : Bool) : (logFault s f d).bi.copies = s.bi.copies := by simp [logFault]
@[simp] theorem logFault_bi_startCopy (f : FaultReport) (d : Bool) : (logFault s f d).bi.startCopy = s.bi.startCopy := by simp [logFault]
@[simp] theorem logFault_bi_latch (f : FaultReport) (d : Bool) : (logFault s f d).bi.latch = s.bi.latch := by simp [logFault]
@[simp] theorem logFault_bi_measHold (f : FaultReport) (d : Bool) : (logFault s f d).bi.measHold = s.bi.measHold := by simp [logFault]
@[simp] theorem logFault_bi_held (f : FaultReport) (d : Bool) : (logFault s f d).bi.held = s.bi.held := by simp [logFault]
@[simp] theorem logFault_bi_readData (f : FaultReport) (d : Bool) : (logFault s f d).bi.readData = s.bi.readData := by simp [logFault]
@[simp] theorem logFault_eu_evtRead (f : FaultReport) (d : Bool) : (logFault s f d).eu.evtRead = s.eu.evtRead := by simp [logFault]
@[simp] theorem logFault_eu_recorder (f : FaultReport) (d : Bool) : (logFault s f d).eu.recorder = s.eu.recorder := by simp [logFault]
@[simp] theorem logFault_eu_mask (f : FaultReport) (d : Bool) : (logFault s f d).eu.mask = s.eu.mask := by simp [logFault]
@[simp] theorem logFault_eu_attention (f : FaultReport) (d : Bool) : (logFault s f d).eu.attention = s.eu.attention := by simp [logFault]
@[simp] theorem logFault_eu_fltRead (f : FaultReport) (d : Bool) : (logFault s f d).eu.fltRead = s.eu.fltRead := by simp [logFault]
@[simp] theorem logFault_eu_cause (f : FaultReport) (d : Bool) : (logFault s f d).eu.cause = s.eu.cause := by simp [logFault]
@[simp] theorem logFault_eu_unlogged (f : FaultReport) (d : Bool) : (logFault s f d).eu.unlogged = s.eu.unlogged := by simp [logFault]
@[simp] theorem logFault_line (f : FaultReport) (d : Bool) (m : Nat) : (logFault s f d).line m = s.line m := State.line_congr (logFault_lc s f d) m
@[simp] theorem logFault_key (f : FaultReport) (d : Bool) (m : Nat) : (logFault s f d).key m = s.key m := State.key_congr (logFault_lc s f d) m
@[simp] theorem logFault_appEntries (f : FaultReport) (d : Bool) (m : Nat) : (logFault s f d).appEntries m = s.appEntries m := State.appEntries_congr (logFault_lc s f d) m
@[simp] theorem logFault_alertList (f : FaultReport) (d : Bool) (m : Nat) : (logFault s f d).alertList m = s.alertList m := State.alertList_congr (logFault_lc s f d) m
@[simp] theorem logFault_circuit (f : FaultReport) (d : Bool) (m : Nat) : (logFault s f d).circuit m = s.circuit m := State.circuit_congr (logFault_cc s f d) m
@[simp] theorem logFault_path (f : FaultReport) (d : Bool) (m : Nat) : (logFault s f d).path m = s.path m := State.path_congr (logFault_cc s f d) m
@[simp] theorem logFault_handset (f : FaultReport) (d : Bool) (m : Party) : (logFault s f d).handset m = s.handset m := State.handset_congr (logFault_hc s f d) m
@[simp] theorem logFault_call (f : FaultReport) (d : Bool) (m : Nat) : (logFault s f d).call m = s.call m := State.call_congr (logFault_hc s f d) m
@[simp] theorem logFault_position (f : FaultReport) (d : Bool) (m : Nat) : (logFault s f d).position m = s.position m := State.position_congr (logFault_hc s f d) m
@[simp] theorem logFault_speaker (f : FaultReport) (d : Bool) (m : Nat) : (logFault s f d).speaker m = s.speaker m := State.speaker_congr (logFault_mx s f d) m
@[simp] theorem logFault_bridge (f : FaultReport) (d : Bool) (m : Nat) : (logFault s f d).bridge m = s.bridge m := State.bridge_congr (logFault_mx s f d) m
@[simp] theorem logFault_channel (f : FaultReport) (d : Bool) (m : Nat) : (logFault s f d).channel m = s.channel m := State.channel_congr (logFault_ra s f d) m
@[simp] theorem logFault_port (f : FaultReport) (d : Bool) (m : Nat) : (logFault s f d).port m = s.port m := State.port_congr (logFault_ra s f d) m
@[simp] theorem logFault_context (f : FaultReport) (d : Bool) (m : Nat) : (logFault s f d).context m = s.context m := State.context_congr (logFault_um s f d) m

/-! ## enterLockdown -/

@[simp] theorem enterLockdown_pending (c : FaultCode) : (enterLockdown s c).pending = s.pending := by simp [enterLockdown]
@[simp] theorem enterLockdown_mem (c : FaultCode) : (enterLockdown s c).mem = s.mem := by simp [enterLockdown]
@[simp] theorem enterLockdown_frame (c : FaultCode) : (enterLockdown s c).frame = s.frame := by simp [enterLockdown]
@[simp] theorem enterLockdown_lc (c : FaultCode) : (enterLockdown s c).lc = s.lc := by simp [enterLockdown]
@[simp] theorem enterLockdown_cc (c : FaultCode) : (enterLockdown s c).cc = s.cc := by simp [enterLockdown]
@[simp] theorem enterLockdown_hc (c : FaultCode) : (enterLockdown s c).hc = s.hc := by simp [enterLockdown]
@[simp] theorem enterLockdown_mx (c : FaultCode) : (enterLockdown s c).mx = s.mx := by simp [enterLockdown]
@[simp] theorem enterLockdown_ra (c : FaultCode) : (enterLockdown s c).ra = s.ra := by simp [enterLockdown]
@[simp] theorem enterLockdown_um (c : FaultCode) : (enterLockdown s c).um = s.um := by simp [enterLockdown]
@[simp] theorem enterLockdown_bi_base (c : FaultCode) : (enterLockdown s c).bi.base = s.bi.base := by simp [enterLockdown]
@[simp] theorem enterLockdown_bi_copies (c : FaultCode) : (enterLockdown s c).bi.copies = s.bi.copies := by simp [enterLockdown]
@[simp] theorem enterLockdown_bi_startCopy (c : FaultCode) : (enterLockdown s c).bi.startCopy = s.bi.startCopy := by simp [enterLockdown]
@[simp] theorem enterLockdown_bi_latch (c : FaultCode) : (enterLockdown s c).bi.latch = s.bi.latch := by simp [enterLockdown]
@[simp] theorem enterLockdown_bi_measHold (c : FaultCode) : (enterLockdown s c).bi.measHold = s.bi.measHold := by simp [enterLockdown]
@[simp] theorem enterLockdown_bi_held (c : FaultCode) : (enterLockdown s c).bi.held = s.bi.held := by simp [enterLockdown]
@[simp] theorem enterLockdown_bi_readData (c : FaultCode) : (enterLockdown s c).bi.readData = s.bi.readData := by simp [enterLockdown]
@[simp] theorem enterLockdown_eu_evtRead (c : FaultCode) : (enterLockdown s c).eu.evtRead = s.eu.evtRead := by simp [enterLockdown]
@[simp] theorem enterLockdown_eu_recorder (c : FaultCode) : (enterLockdown s c).eu.recorder = s.eu.recorder := by simp [enterLockdown]
@[simp] theorem enterLockdown_eu_fault (c : FaultCode) : (enterLockdown s c).eu.fault = s.eu.fault := by simp [enterLockdown]
@[simp] theorem enterLockdown_eu_mask (c : FaultCode) : (enterLockdown s c).eu.mask = s.eu.mask := by simp [enterLockdown]
@[simp] theorem enterLockdown_eu_attention (c : FaultCode) : (enterLockdown s c).eu.attention = s.eu.attention := by simp [enterLockdown]
@[simp] theorem enterLockdown_eu_fltHead (c : FaultCode) : (enterLockdown s c).eu.fltHead = s.eu.fltHead := by simp [enterLockdown]
@[simp] theorem enterLockdown_eu_fltRead (c : FaultCode) : (enterLockdown s c).eu.fltRead = s.eu.fltRead := by simp [enterLockdown]
@[simp] theorem enterLockdown_re_head (c : FaultCode) : (enterLockdown s c).re.head = s.re.head := by simp [enterLockdown]
@[simp] theorem enterLockdown_re_tail (c : FaultCode) : (enterLockdown s c).re.tail = s.re.tail := by simp [enterLockdown]
@[simp] theorem enterLockdown_su_lineCount (c : FaultCode) : (enterLockdown s c).su.lineCount = s.su.lineCount := by simp [enterLockdown]
@[simp] theorem enterLockdown_su_positionCount (c : FaultCode) : (enterLockdown s c).su.positionCount = s.su.positionCount := by simp [enterLockdown]
@[simp] theorem enterLockdown_su_bridgeCount (c : FaultCode) : (enterLockdown s c).su.bridgeCount = s.su.bridgeCount := by simp [enterLockdown]
@[simp] theorem enterLockdown_su_recorderCount (c : FaultCode) : (enterLockdown s c).su.recorderCount = s.su.recorderCount := by simp [enterLockdown]
@[simp] theorem enterLockdown_su_ringTimeout (c : FaultCode) : (enterLockdown s c).su.ringTimeout = s.su.ringTimeout := by simp [enterLockdown]
@[simp] theorem enterLockdown_su_restartMark (c : FaultCode) : (enterLockdown s c).su.restartMark = s.su.restartMark := by simp [enterLockdown]
@[simp] theorem enterLockdown_su_draining (c : FaultCode) : (enterLockdown s c).su.draining = s.su.draining := by simp [enterLockdown]
@[simp] theorem enterLockdown_su_startFrame (c : FaultCode) : (enterLockdown s c).su.startFrame = s.su.startFrame := by simp [enterLockdown]
@[simp] theorem enterLockdown_su_rejects (c : FaultCode) : (enterLockdown s c).su.rejects = s.su.rejects := by simp [enterLockdown]
@[simp] theorem enterLockdown_line (c : FaultCode) (m : Nat) : (enterLockdown s c).line m = s.line m := State.line_congr (enterLockdown_lc s c) m
@[simp] theorem enterLockdown_key (c : FaultCode) (m : Nat) : (enterLockdown s c).key m = s.key m := State.key_congr (enterLockdown_lc s c) m
@[simp] theorem enterLockdown_appEntries (c : FaultCode) (m : Nat) : (enterLockdown s c).appEntries m = s.appEntries m := State.appEntries_congr (enterLockdown_lc s c) m
@[simp] theorem enterLockdown_alertList (c : FaultCode) (m : Nat) : (enterLockdown s c).alertList m = s.alertList m := State.alertList_congr (enterLockdown_lc s c) m
@[simp] theorem enterLockdown_circuit (c : FaultCode) (m : Nat) : (enterLockdown s c).circuit m = s.circuit m := State.circuit_congr (enterLockdown_cc s c) m
@[simp] theorem enterLockdown_path (c : FaultCode) (m : Nat) : (enterLockdown s c).path m = s.path m := State.path_congr (enterLockdown_cc s c) m
@[simp] theorem enterLockdown_handset (c : FaultCode) (m : Party) : (enterLockdown s c).handset m = s.handset m := State.handset_congr (enterLockdown_hc s c) m
@[simp] theorem enterLockdown_call (c : FaultCode) (m : Nat) : (enterLockdown s c).call m = s.call m := State.call_congr (enterLockdown_hc s c) m
@[simp] theorem enterLockdown_position (c : FaultCode) (m : Nat) : (enterLockdown s c).position m = s.position m := State.position_congr (enterLockdown_hc s c) m
@[simp] theorem enterLockdown_speaker (c : FaultCode) (m : Nat) : (enterLockdown s c).speaker m = s.speaker m := State.speaker_congr (enterLockdown_mx s c) m
@[simp] theorem enterLockdown_bridge (c : FaultCode) (m : Nat) : (enterLockdown s c).bridge m = s.bridge m := State.bridge_congr (enterLockdown_mx s c) m
@[simp] theorem enterLockdown_channel (c : FaultCode) (m : Nat) : (enterLockdown s c).channel m = s.channel m := State.channel_congr (enterLockdown_ra s c) m
@[simp] theorem enterLockdown_port (c : FaultCode) (m : Nat) : (enterLockdown s c).port m = s.port m := State.port_congr (enterLockdown_ra s c) m
@[simp] theorem enterLockdown_context (c : FaultCode) (m : Nat) : (enterLockdown s c).context m = s.context m := State.context_congr (enterLockdown_um s c) m

/-! ## raiseFault -/

@[simp] theorem raiseFault_pending (f : FaultReport) : (raiseFault s f).pending = s.pending := by unfold raiseFault; (repeat' split) <;> simp
@[simp] theorem raiseFault_mem (f : FaultReport) : (raiseFault s f).mem = s.mem := by unfold raiseFault; (repeat' split) <;> simp
@[simp] theorem raiseFault_frame (f : FaultReport) : (raiseFault s f).frame = s.frame := by unfold raiseFault; (repeat' split) <;> simp
@[simp] theorem raiseFault_lc (f : FaultReport) : (raiseFault s f).lc = s.lc := by unfold raiseFault; (repeat' split) <;> simp
@[simp] theorem raiseFault_cc (f : FaultReport) : (raiseFault s f).cc = s.cc := by unfold raiseFault; (repeat' split) <;> simp
@[simp] theorem raiseFault_hc (f : FaultReport) : (raiseFault s f).hc = s.hc := by unfold raiseFault; (repeat' split) <;> simp
@[simp] theorem raiseFault_mx (f : FaultReport) : (raiseFault s f).mx = s.mx := by unfold raiseFault; (repeat' split) <;> simp
@[simp] theorem raiseFault_ra (f : FaultReport) : (raiseFault s f).ra = s.ra := by unfold raiseFault; (repeat' split) <;> simp
@[simp] theorem raiseFault_um (f : FaultReport) : (raiseFault s f).um = s.um := by unfold raiseFault; (repeat' split) <;> simp
@[simp] theorem raiseFault_bi_base (f : FaultReport) : (raiseFault s f).bi.base = s.bi.base := by unfold raiseFault; (repeat' split) <;> simp
@[simp] theorem raiseFault_bi_copies (f : FaultReport) : (raiseFault s f).bi.copies = s.bi.copies := by unfold raiseFault; (repeat' split) <;> simp
@[simp] theorem raiseFault_bi_startCopy (f : FaultReport) : (raiseFault s f).bi.startCopy = s.bi.startCopy := by unfold raiseFault; (repeat' split) <;> simp
@[simp] theorem raiseFault_bi_latch (f : FaultReport) : (raiseFault s f).bi.latch = s.bi.latch := by unfold raiseFault; (repeat' split) <;> simp
@[simp] theorem raiseFault_bi_measHold (f : FaultReport) : (raiseFault s f).bi.measHold = s.bi.measHold := by unfold raiseFault; (repeat' split) <;> simp
@[simp] theorem raiseFault_bi_held (f : FaultReport) : (raiseFault s f).bi.held = s.bi.held := by unfold raiseFault; (repeat' split) <;> simp
@[simp] theorem raiseFault_bi_readData (f : FaultReport) : (raiseFault s f).bi.readData = s.bi.readData := by unfold raiseFault; (repeat' split) <;> simp
@[simp] theorem raiseFault_eu_evtRead (f : FaultReport) : (raiseFault s f).eu.evtRead = s.eu.evtRead := by unfold raiseFault; (repeat' split) <;> simp
@[simp] theorem raiseFault_eu_recorder (f : FaultReport) : (raiseFault s f).eu.recorder = s.eu.recorder := by unfold raiseFault; (repeat' split) <;> simp
@[simp] theorem raiseFault_eu_mask (f : FaultReport) : (raiseFault s f).eu.mask = s.eu.mask := by unfold raiseFault; (repeat' split) <;> simp
@[simp] theorem raiseFault_eu_attention (f : FaultReport) : (raiseFault s f).eu.attention = s.eu.attention := by unfold raiseFault; (repeat' split) <;> simp
@[simp] theorem raiseFault_eu_fltRead (f : FaultReport) : (raiseFault s f).eu.fltRead = s.eu.fltRead := by unfold raiseFault; (repeat' split) <;> simp
@[simp] theorem raiseFault_re_head (f : FaultReport) : (raiseFault s f).re.head = s.re.head := by unfold raiseFault; (repeat' split) <;> simp
@[simp] theorem raiseFault_re_tail (f : FaultReport) : (raiseFault s f).re.tail = s.re.tail := by unfold raiseFault; (repeat' split) <;> simp
@[simp] theorem raiseFault_su_lineCount (f : FaultReport) : (raiseFault s f).su.lineCount = s.su.lineCount := by unfold raiseFault; (repeat' split) <;> simp
@[simp] theorem raiseFault_su_positionCount (f : FaultReport) : (raiseFault s f).su.positionCount = s.su.positionCount := by unfold raiseFault; (repeat' split) <;> simp
@[simp] theorem raiseFault_su_bridgeCount (f : FaultReport) : (raiseFault s f).su.bridgeCount = s.su.bridgeCount := by unfold raiseFault; (repeat' split) <;> simp
@[simp] theorem raiseFault_su_recorderCount (f : FaultReport) : (raiseFault s f).su.recorderCount = s.su.recorderCount := by unfold raiseFault; (repeat' split) <;> simp
@[simp] theorem raiseFault_su_ringTimeout (f : FaultReport) : (raiseFault s f).su.ringTimeout = s.su.ringTimeout := by unfold raiseFault; (repeat' split) <;> simp
@[simp] theorem raiseFault_su_restartMark (f : FaultReport) : (raiseFault s f).su.restartMark = s.su.restartMark := by unfold raiseFault; (repeat' split) <;> simp
@[simp] theorem raiseFault_su_draining (f : FaultReport) : (raiseFault s f).su.draining = s.su.draining := by unfold raiseFault; (repeat' split) <;> simp
@[simp] theorem raiseFault_su_startFrame (f : FaultReport) : (raiseFault s f).su.startFrame = s.su.startFrame := by unfold raiseFault; (repeat' split) <;> simp
@[simp] theorem raiseFault_su_rejects (f : FaultReport) : (raiseFault s f).su.rejects = s.su.rejects := by unfold raiseFault; (repeat' split) <;> simp
@[simp] theorem raiseFault_line (f : FaultReport) (m : Nat) : (raiseFault s f).line m = s.line m := State.line_congr (raiseFault_lc s f) m
@[simp] theorem raiseFault_key (f : FaultReport) (m : Nat) : (raiseFault s f).key m = s.key m := State.key_congr (raiseFault_lc s f) m
@[simp] theorem raiseFault_appEntries (f : FaultReport) (m : Nat) : (raiseFault s f).appEntries m = s.appEntries m := State.appEntries_congr (raiseFault_lc s f) m
@[simp] theorem raiseFault_alertList (f : FaultReport) (m : Nat) : (raiseFault s f).alertList m = s.alertList m := State.alertList_congr (raiseFault_lc s f) m
@[simp] theorem raiseFault_circuit (f : FaultReport) (m : Nat) : (raiseFault s f).circuit m = s.circuit m := State.circuit_congr (raiseFault_cc s f) m
@[simp] theorem raiseFault_path (f : FaultReport) (m : Nat) : (raiseFault s f).path m = s.path m := State.path_congr (raiseFault_cc s f) m
@[simp] theorem raiseFault_handset (f : FaultReport) (m : Party) : (raiseFault s f).handset m = s.handset m := State.handset_congr (raiseFault_hc s f) m
@[simp] theorem raiseFault_call (f : FaultReport) (m : Nat) : (raiseFault s f).call m = s.call m := State.call_congr (raiseFault_hc s f) m
@[simp] theorem raiseFault_position (f : FaultReport) (m : Nat) : (raiseFault s f).position m = s.position m := State.position_congr (raiseFault_hc s f) m
@[simp] theorem raiseFault_speaker (f : FaultReport) (m : Nat) : (raiseFault s f).speaker m = s.speaker m := State.speaker_congr (raiseFault_mx s f) m
@[simp] theorem raiseFault_bridge (f : FaultReport) (m : Nat) : (raiseFault s f).bridge m = s.bridge m := State.bridge_congr (raiseFault_mx s f) m
@[simp] theorem raiseFault_channel (f : FaultReport) (m : Nat) : (raiseFault s f).channel m = s.channel m := State.channel_congr (raiseFault_ra s f) m
@[simp] theorem raiseFault_port (f : FaultReport) (m : Nat) : (raiseFault s f).port m = s.port m := State.port_congr (raiseFault_ra s f) m
@[simp] theorem raiseFault_context (f : FaultReport) (m : Nat) : (raiseFault s f).context m = s.context m := State.context_congr (raiseFault_um s f) m

/-! ## rejectEntry -/

@[simp] theorem rejectEntry_pending (w : Rejected) : (rejectEntry s w).pending = s.pending := by unfold rejectEntry; dsimp only; split <;> simp
@[simp] theorem rejectEntry_mem (w : Rejected) : (rejectEntry s w).mem = s.mem := by unfold rejectEntry; dsimp only; split <;> simp
@[simp] theorem rejectEntry_frame (w : Rejected) : (rejectEntry s w).frame = s.frame := by unfold rejectEntry; dsimp only; split <;> simp
@[simp] theorem rejectEntry_re (w : Rejected) : (rejectEntry s w).re = s.re := by unfold rejectEntry; dsimp only; split <;> simp
@[simp] theorem rejectEntry_lc (w : Rejected) : (rejectEntry s w).lc = s.lc := by unfold rejectEntry; dsimp only; split <;> simp
@[simp] theorem rejectEntry_cc (w : Rejected) : (rejectEntry s w).cc = s.cc := by unfold rejectEntry; dsimp only; split <;> simp
@[simp] theorem rejectEntry_hc (w : Rejected) : (rejectEntry s w).hc = s.hc := by unfold rejectEntry; dsimp only; split <;> simp
@[simp] theorem rejectEntry_mx (w : Rejected) : (rejectEntry s w).mx = s.mx := by unfold rejectEntry; dsimp only; split <;> simp
@[simp] theorem rejectEntry_ra (w : Rejected) : (rejectEntry s w).ra = s.ra := by unfold rejectEntry; dsimp only; split <;> simp
@[simp] theorem rejectEntry_um (w : Rejected) : (rejectEntry s w).um = s.um := by unfold rejectEntry; dsimp only; split <;> simp
@[simp] theorem rejectEntry_bi_base (w : Rejected) : (rejectEntry s w).bi.base = s.bi.base := by unfold rejectEntry; dsimp only; split <;> simp
@[simp] theorem rejectEntry_bi_copies (w : Rejected) : (rejectEntry s w).bi.copies = s.bi.copies := by unfold rejectEntry; dsimp only; split <;> simp
@[simp] theorem rejectEntry_bi_startCopy (w : Rejected) : (rejectEntry s w).bi.startCopy = s.bi.startCopy := by unfold rejectEntry; dsimp only; split <;> simp
@[simp] theorem rejectEntry_bi_latch (w : Rejected) : (rejectEntry s w).bi.latch = s.bi.latch := by unfold rejectEntry; dsimp only; split <;> simp
@[simp] theorem rejectEntry_bi_measHold (w : Rejected) : (rejectEntry s w).bi.measHold = s.bi.measHold := by unfold rejectEntry; dsimp only; split <;> simp
@[simp] theorem rejectEntry_bi_held (w : Rejected) : (rejectEntry s w).bi.held = s.bi.held := by unfold rejectEntry; dsimp only; split <;> simp
@[simp] theorem rejectEntry_bi_readData (w : Rejected) : (rejectEntry s w).bi.readData = s.bi.readData := by unfold rejectEntry; dsimp only; split <;> simp
@[simp] theorem rejectEntry_eu_evtRead (w : Rejected) : (rejectEntry s w).eu.evtRead = s.eu.evtRead := by unfold rejectEntry; dsimp only; split <;> simp
@[simp] theorem rejectEntry_eu_fault (w : Rejected) : (rejectEntry s w).eu.fault = s.eu.fault := by unfold rejectEntry; dsimp only; split <;> simp
@[simp] theorem rejectEntry_eu_recorder (w : Rejected) : (rejectEntry s w).eu.recorder = s.eu.recorder := by unfold rejectEntry; dsimp only; split <;> simp
@[simp] theorem rejectEntry_eu_mask (w : Rejected) : (rejectEntry s w).eu.mask = s.eu.mask := by unfold rejectEntry; dsimp only; split <;> simp
@[simp] theorem rejectEntry_eu_attention (w : Rejected) : (rejectEntry s w).eu.attention = s.eu.attention := by unfold rejectEntry; dsimp only; split <;> simp
@[simp] theorem rejectEntry_eu_fltHead (w : Rejected) : (rejectEntry s w).eu.fltHead = s.eu.fltHead := by unfold rejectEntry; dsimp only; split <;> simp
@[simp] theorem rejectEntry_eu_fltRead (w : Rejected) : (rejectEntry s w).eu.fltRead = s.eu.fltRead := by unfold rejectEntry; dsimp only; split <;> simp
@[simp] theorem rejectEntry_eu_cause (w : Rejected) : (rejectEntry s w).eu.cause = s.eu.cause := by unfold rejectEntry; dsimp only; split <;> simp
@[simp] theorem rejectEntry_eu_unlogged (w : Rejected) : (rejectEntry s w).eu.unlogged = s.eu.unlogged := by unfold rejectEntry; dsimp only; split <;> simp
@[simp] theorem rejectEntry_su_part (w : Rejected) : (rejectEntry s w).su.part = s.su.part := by unfold rejectEntry; dsimp only; split <;> simp
@[simp] theorem rejectEntry_su_lineCount (w : Rejected) : (rejectEntry s w).su.lineCount = s.su.lineCount := by unfold rejectEntry; dsimp only; split <;> simp
@[simp] theorem rejectEntry_su_positionCount (w : Rejected) : (rejectEntry s w).su.positionCount = s.su.positionCount := by unfold rejectEntry; dsimp only; split <;> simp
@[simp] theorem rejectEntry_su_bridgeCount (w : Rejected) : (rejectEntry s w).su.bridgeCount = s.su.bridgeCount := by unfold rejectEntry; dsimp only; split <;> simp
@[simp] theorem rejectEntry_su_recorderCount (w : Rejected) : (rejectEntry s w).su.recorderCount = s.su.recorderCount := by unfold rejectEntry; dsimp only; split <;> simp
@[simp] theorem rejectEntry_su_ringTimeout (w : Rejected) : (rejectEntry s w).su.ringTimeout = s.su.ringTimeout := by unfold rejectEntry; dsimp only; split <;> simp
@[simp] theorem rejectEntry_su_restartMark (w : Rejected) : (rejectEntry s w).su.restartMark = s.su.restartMark := by unfold rejectEntry; dsimp only; split <;> simp
@[simp] theorem rejectEntry_su_draining (w : Rejected) : (rejectEntry s w).su.draining = s.su.draining := by unfold rejectEntry; dsimp only; split <;> simp
@[simp] theorem rejectEntry_su_load (w : Rejected) : (rejectEntry s w).su.load = s.su.load := by unfold rejectEntry; dsimp only; split <;> simp
@[simp] theorem rejectEntry_su_startFrame (w : Rejected) : (rejectEntry s w).su.startFrame = s.su.startFrame := by unfold rejectEntry; dsimp only; split <;> simp
@[simp] theorem rejectEntry_line (w : Rejected) (m : Nat) : (rejectEntry s w).line m = s.line m := State.line_congr (rejectEntry_lc s w) m
@[simp] theorem rejectEntry_key (w : Rejected) (m : Nat) : (rejectEntry s w).key m = s.key m := State.key_congr (rejectEntry_lc s w) m
@[simp] theorem rejectEntry_appEntries (w : Rejected) (m : Nat) : (rejectEntry s w).appEntries m = s.appEntries m := State.appEntries_congr (rejectEntry_lc s w) m
@[simp] theorem rejectEntry_alertList (w : Rejected) (m : Nat) : (rejectEntry s w).alertList m = s.alertList m := State.alertList_congr (rejectEntry_lc s w) m
@[simp] theorem rejectEntry_circuit (w : Rejected) (m : Nat) : (rejectEntry s w).circuit m = s.circuit m := State.circuit_congr (rejectEntry_cc s w) m
@[simp] theorem rejectEntry_path (w : Rejected) (m : Nat) : (rejectEntry s w).path m = s.path m := State.path_congr (rejectEntry_cc s w) m
@[simp] theorem rejectEntry_handset (w : Rejected) (m : Party) : (rejectEntry s w).handset m = s.handset m := State.handset_congr (rejectEntry_hc s w) m
@[simp] theorem rejectEntry_call (w : Rejected) (m : Nat) : (rejectEntry s w).call m = s.call m := State.call_congr (rejectEntry_hc s w) m
@[simp] theorem rejectEntry_position (w : Rejected) (m : Nat) : (rejectEntry s w).position m = s.position m := State.position_congr (rejectEntry_hc s w) m
@[simp] theorem rejectEntry_speaker (w : Rejected) (m : Nat) : (rejectEntry s w).speaker m = s.speaker m := State.speaker_congr (rejectEntry_mx s w) m
@[simp] theorem rejectEntry_bridge (w : Rejected) (m : Nat) : (rejectEntry s w).bridge m = s.bridge m := State.bridge_congr (rejectEntry_mx s w) m
@[simp] theorem rejectEntry_channel (w : Rejected) (m : Nat) : (rejectEntry s w).channel m = s.channel m := State.channel_congr (rejectEntry_ra s w) m
@[simp] theorem rejectEntry_port (w : Rejected) (m : Nat) : (rejectEntry s w).port m = s.port m := State.port_congr (rejectEntry_ra s w) m
@[simp] theorem rejectEntry_context (w : Rejected) (m : Nat) : (rejectEntry s w).context m = s.context m := State.context_congr (rejectEntry_um s w) m

end Sys2Proof.Machine
end

