-- ==== Sys2Proof/Laws/Mirrors.lean ====
section
/-!
SUPPORT. What the posting of mirrors leaves as it was, and where mirror words lie.
-/

namespace Sys2Proof.Machine

variable (b s : State)

/-! ## postMirrors -/

@[simp] theorem postMirrors_mem : (postMirrors b s).mem = s.mem := rfl
@[simp] theorem postMirrors_pending : (postMirrors b s).pending = s.pending := rfl
@[simp] theorem postMirrors_frame : (postMirrors b s).frame = s.frame := rfl
@[simp] theorem postMirrors_lc : (postMirrors b s).lc = s.lc := rfl
@[simp] theorem postMirrors_hc : (postMirrors b s).hc = s.hc := rfl
@[simp] theorem postMirrors_mx : (postMirrors b s).mx = s.mx := rfl
@[simp] theorem postMirrors_ra : (postMirrors b s).ra = s.ra := rfl
@[simp] theorem postMirrors_su : (postMirrors b s).su = s.su := rfl
@[simp] theorem postMirrors_eu : (postMirrors b s).eu = s.eu := rfl
@[simp] theorem postMirrors_re : (postMirrors b s).re = s.re := rfl
@[simp] theorem postMirrors_cc : (postMirrors b s).cc = s.cc := rfl
@[simp] theorem postMirrors_um : (postMirrors b s).um = s.um := rfl
@[simp] theorem postMirrors_bi_base : (postMirrors b s).bi.base = s.bi.base := rfl
@[simp] theorem postMirrors_bi_copies : (postMirrors b s).bi.copies = s.bi.copies := rfl
@[simp] theorem postMirrors_bi_startCopy : (postMirrors b s).bi.startCopy = s.bi.startCopy := rfl
@[simp] theorem postMirrors_bi_latch : (postMirrors b s).bi.latch = s.bi.latch := rfl
@[simp] theorem postMirrors_bi_held : (postMirrors b s).bi.held = s.bi.held := rfl
@[simp] theorem postMirrors_bi_readData : (postMirrors b s).bi.readData = s.bi.readData := rfl
@[simp] theorem postMirrors_bi_measHold : (postMirrors b s).bi.measHold = s.bi.measHold := rfl
@[simp] theorem postMirrors_writes : writesOf (postMirrors b s) = writesOf s ++ allMirrorChanges b s := postAll_writes _ _

/-! ## Where mirror words lie -/

/-- The offset lies in a mirror table (R128). -/
def IsMirror (off : Nat) : Prop := (0x2000 ≤ off ∧ off < 0x2800) ∨ (0x4800 ≤ off ∧ off < 0x5000) ∨ (0x6200 ≤ off ∧ off < 0x6400)

theorem changedWords_offsets (off : Nat) (as bs : List Word) :
    ∀ e ∈ changedWords b s off as bs, off ≤ e.1 ∧ e.1 < off + min as.length bs.length := by
  induction as generalizing off bs with
  | nil => simp [changedWords]
  | cons a as ih =>
    cases bs with
    | nil => simp [changedWords]
    | cons c bs =>
      intro e he
      simp only [changedWords, List.mem_append] at he
      rcases he with he | he
      · obtain rfl : e = (off, c) := by split at he <;> simp_all
        simp
      · have := ih (off + 1) bs e he
        simp only [List.length_cons]
        omega

/-- What the owners have to write at a word: nothing where it is unchanged and the part's own writes to it are (R134, R139). -/
theorem changedWords_unchanged (h : ∀ o, partWrote s o = partWrote b o) (off : Nat) (as : List Word) : changedWords b s off as as = [] := by
  induction as generalizing off with
  | nil => rfl
  | cons a as ih => simp [changedWords, h, ih]

/-- Nothing is posted where no mirrored item and none of the part's own writes has changed, whatever the processor has written (R134, R139). -/
theorem allMirrorChanges_unchanged (h : ∀ o, partWrote s o = partWrote b o) (hl : lineStatusWords s = lineStatusWords b)
    (hp : positionStatusWords s = positionStatusWords b) (hr : recorderStatusWords s = recorderStatusWords b) : allMirrorChanges b s = [] := by
  simp [allMirrorChanges, mirrorChanges, hl, hp, hr, changedWords_unchanged b s h]

theorem mirrorChanges_offsets (count : Nat) (offset : Nat → Nat) (words : State → Nat → List Word) (listed : State → List Nat)
    (size : Nat) (hsize : ∀ s i, (words s i).length ≤ size) :
    ∀ e ∈ mirrorChanges count offset words listed b s, ∃ i < count, offset i ≤ e.1 ∧ e.1 < offset i + size := by
  intro e he
  simp only [mirrorChanges, List.mem_flatMap, List.mem_filter, decide_eq_true_eq] at he
  obtain ⟨i, ⟨_, hi⟩, he⟩ := he
  have h1 := changedWords_offsets _ _ _ _ _ e he
  have h2 := hsize b i
  exact ⟨i, hi, h1.1, by omega⟩

theorem allMirrorChanges_offsets : ∀ e ∈ allMirrorChanges b s, IsMirror e.1 := by
  intro e he
  simp only [allMirrorChanges, List.mem_append] at he
  rcases he with (he | he) | he
  · obtain ⟨i, hi, h⟩ := mirrorChanges_offsets b s _ _ _ _ 8 (fun s i => by simp [lineStatusWords]) e he
    simp only [lineStatusOffset] at h
    exact .inl (by omega)
  · obtain ⟨i, hi, h⟩ := mirrorChanges_offsets b s _ _ _ _ 19 (fun s i => by simp [positionStatusWords, handsetWords]) e he
    simp only [positionStatusOffset] at h
    exact .inr (.inl (by omega))
  · obtain ⟨i, hi, h⟩ := mirrorChanges_offsets b s _ _ _ _ 4 (fun s i => by simp [recorderStatusWords]) e he
    simp only [recorderStatusOffset] at h
    exact .inr (.inr (by omega))

/-- Posting writes to OWNED words leaves every other word (R137). -/
theorem latestWord_postAll (s : State) (ws : List (Nat × Word)) (off : Nat) (h : ∀ e ∈ ws, e.1 ≠ off) :
    latestWord (postAll s ws) off = latestWord s off := by
  simp [latestWord_eq, youngest_append, youngest_none ws off h, sramAddress]

/-- The mirror tables are OWNED zones (R128). -/
theorem isMirror_owned (off : Nat) (h : IsMirror off) : regionOf off = .owned := by
  unfold regionOf
  rcases h with h | h | h <;> repeat (first | rw [if_neg (by omega)] | rw [if_pos (by omega)])

/-- Posting the mirrors leaves every word that no mirror holds (R128, R137). -/
theorem postMirrors_latestWord (off : Nat) (h : ¬IsMirror off) : latestWord (postMirrors b s) off = latestWord s off :=
  latestWord_postAll s _ off fun e he heq => h (heq ▸ allMirrorChanges_offsets b s e he)

/-! ## A load's mirrors (R175) -/

/-- Entries of one size written one after the other are what is read there (R137). -/
theorem youngest_entries (first size : Nat) (f : Nat → List Word) (hf : ∀ n, (f n).length ≤ size) (k n i : Nat) (hn : n < k)
    (hi : i < (f n).length) :
    youngest ((List.range k).flatMap fun m => writesAt (first + size * m) (f m)) (first + size * n + i) = some ((f n).getD i 0#32) := by
  induction k with
  | zero => omega
  | succ k ih =>
    rw [List.range_succ, List.flatMap_append, youngest_append, List.flatMap_singleton]
    by_cases h : n = k
    · subst h
      rw [youngest_writesAt _ _ _ hi, Option.some_or]
    · have hlen := hf n
      have hstep : size * (n + 1) ≤ size * k := Nat.mul_le_mul_left _ (by omega)
      rw [Nat.mul_add, Nat.mul_one] at hstep
      rw [youngest_none _ _ fun e he => by have := writesAt_offsets _ _ e he; omega, Option.none_or, ih (by omega)]

/-- Entries of one table are not read at another's offsets. -/
theorem youngest_elsewhere (first size : Nat) (f : Nat → List Word) (hf : ∀ n, (f n).length ≤ size) (k off : Nat)
    (h : off < first ∨ first + size * k ≤ off) :
    youngest ((List.range k).flatMap fun m => writesAt (first + size * m) (f m)) off = none := by
  refine youngest_none _ _ fun e he => ?_
  obtain ⟨m, hm, he⟩ := List.mem_flatMap.mp he
  have h1 := writesAt_offsets _ _ e he
  have h2 := hf m
  have h3 : size * (m + 1) ≤ size * k := Nat.mul_le_mul_left _ (List.mem_range.mp hm)
  rw [Nat.mul_add, Nat.mul_one] at h3
  omega

/-- Once a load has posted every mirror, a line's words are its status words (R6, R175). -/
theorem everyMirror_line (n i : Nat) (hn : n < 256) (hi : i < 8) :
    latestWord (postAll s (everyMirror s)) (lineStatusOffset n + i) = (lineStatusWords s n).getD i 0#32 := by
  simp only [latestWord_eq, postAll_writes, everyMirror, lineStatusOffset, positionStatusOffset, recorderStatusOffset, youngest_append]
  rw [youngest_elsewhere _ 4 (recorderStatusWords s) (fun r => by simp [recorderStatusWords]) _ _ (by omega),
    youngest_elsewhere _ 64 (positionStatusEntry s)
      (fun p => by simp [positionStatusEntry, positionStatusWords, handsetWords]) _ _ (by omega),
    youngest_entries _ 8 (lineStatusWords s) (fun n => by simp [lineStatusWords]) _ _ _ hn (by simpa [lineStatusWords] using hi)]
  rfl

/-- Once a load has posted every mirror, a position's words are its status words (R65, R175). -/
theorem everyMirror_position (p i : Nat) (hp : p < 32) (hi : i < 64) :
    latestWord (postAll s (everyMirror s)) (positionStatusOffset p + i) = (positionStatusEntry s p).getD i 0#32 := by
  simp only [latestWord_eq, postAll_writes, everyMirror, lineStatusOffset, positionStatusOffset, recorderStatusOffset, youngest_append]
  rw [youngest_elsewhere _ 4 (recorderStatusWords s) (fun r => by simp [recorderStatusWords]) _ _ (by omega),
    youngest_entries _ 64 (positionStatusEntry s)
      (fun p => by simp [positionStatusEntry, positionStatusWords, handsetWords]) _ _ _ hp
      (by simpa [positionStatusEntry, positionStatusWords, handsetWords] using hi)]
  rfl

/-- Once a load has posted every mirror, a channel's words are its status words (R98, R175). -/
theorem everyMirror_channel (r i : Nat) (hr : r < 128) (hi : i < 4) :
    latestWord (postAll s (everyMirror s)) (recorderStatusOffset r + i) = (recorderStatusWords s r).getD i 0#32 := by
  simp only [latestWord_eq, postAll_writes, everyMirror, lineStatusOffset, positionStatusOffset, recorderStatusOffset, youngest_append]
  rw [youngest_entries _ 4 (recorderStatusWords s) (fun r => by simp [recorderStatusWords]) _ _ _ hr
    (by simpa [recorderStatusWords] using hi)]
  rfl

end Sys2Proof.Machine
end

