-- ==== Sys2Proof/Laws/RecordingFrames.lean ====
section
/-!
SUPPORT. What the operations of the Recording Allocator leave as it was: every block but their own, the events and the queue.
-/

namespace Sys2Proof.Machine

/-- Only the Recording Allocator's records, the events and the posted writes differ. -/
structure RecordingOnly (s t : State) : Prop where
  mem     : t.mem = s.mem
  pending : t.pending = s.pending
  frame   : t.frame = s.frame
  re      : t.re = s.re
  lc      : t.lc = s.lc
  cc      : t.cc = s.cc
  hc      : t.hc = s.hc
  mx      : t.mx = s.mx
  um      : t.um = s.um
  su      : t.su = s.su
  bi      : (t.bi.base, t.bi.copies, t.bi.startCopy, t.bi.latch, t.bi.measHold, t.bi.held, t.bi.readData) =
    (s.bi.base, s.bi.copies, s.bi.startCopy, s.bi.latch, s.bi.measHold, s.bi.held, s.bi.readData)

theorem RecordingOnly.refl (s : State) : RecordingOnly s s := ⟨rfl, rfl, rfl, rfl, rfl, rfl, rfl, rfl, rfl, rfl, rfl⟩

theorem RecordingOnly.trans {a b c : State} (h : RecordingOnly a b) (k : RecordingOnly b c) : RecordingOnly a c :=
  ⟨k.1.trans h.1, k.2.trans h.2, k.3.trans h.3, k.4.trans h.4, k.5.trans h.5, k.6.trans h.6, k.7.trans h.7, k.8.trans h.8,
    k.9.trans h.9, k.10.trans h.10, k.11.trans h.11⟩

theorem recordingOnly_foldl {α : Type} {s₀ s : State} (f : State → α → State) (l : List α)
    (hf : ∀ s a, RecordingOnly s₀ s → RecordingOnly s₀ (f s a)) (h : RecordingOnly s₀ s) : RecordingOnly s₀ (l.foldl f s) := by
  induction l generalizing s with
  | nil => exact h
  | cons a l ih => exact ih (hf s a h)

variable {s₀ s : State}

@[simp] theorem recordingOnly_State_setChannel (r : Nat) (c : ChannelRec) (h : RecordingOnly s₀ s) : RecordingOnly s₀ (State.setChannel s r c) := by
  exact h.trans ⟨rfl, rfl, rfl, rfl, rfl, rfl, rfl, rfl, rfl, rfl, rfl⟩
@[simp] theorem recordingOnly_State_setPort (q : Nat) (r : PortRec) (h : RecordingOnly s₀ s) : RecordingOnly s₀ (State.setPort s q r) := by
  exact h.trans ⟨rfl, rfl, rfl, rfl, rfl, rfl, rfl, rfl, rfl, rfl, rfl⟩
@[simp] theorem recordingOnly_State_setFreeList (l : List Nat) (h : RecordingOnly s₀ s) : RecordingOnly s₀ (State.setFreeList s l) := by
  exact h.trans ⟨rfl, rfl, rfl, rfl, rfl, rfl, rfl, rfl, rfl, rfl, rfl⟩
@[simp] theorem recordingOnly_State_setWaitQueue (l : List Nat) (h : RecordingOnly s₀ s) : RecordingOnly s₀ (State.setWaitQueue s l) := by
  exact h.trans ⟨rfl, rfl, rfl, rfl, rfl, rfl, rfl, rfl, rfl, rfl, rfl⟩
@[simp] theorem recordingOnly_State_setOrder (l : List Nat) (h : RecordingOnly s₀ s) : RecordingOnly s₀ (State.setOrder s l) := by
  exact h.trans ⟨rfl, rfl, rfl, rfl, rfl, rfl, rfl, rfl, rfl, rfl, rfl⟩
@[simp] theorem recordingOnly_issue (e : Event) (h : RecordingOnly s₀ s) : RecordingOnly s₀ (issue s e) := by
  exact h.trans ⟨by simp, by simp, by simp, by simp, by simp, by simp, by simp, by simp, by simp, by simp, by simp⟩
@[simp] theorem recordingOnly_recorderOccurrence (h : RecordingOnly s₀ s) : RecordingOnly s₀ (recorderOccurrence s) := by
  exact h.trans ⟨rfl, rfl, rfl, rfl, rfl, rfl, rfl, rfl, rfl, rfl, rfl⟩
@[simp] theorem recordingOnly_enterClass (q : Nat) (l : Level) (h : RecordingOnly s₀ s) : RecordingOnly s₀ (enterClass s q l) := by
  unfold enterClass; split <;> simp (maxDischargeDepth := 9) [*]
@[simp] theorem recordingOnly_leaveQueue (q : Nat) (h : RecordingOnly s₀ s) : RecordingOnly s₀ (leaveQueue s q) := by
  simp (maxDischargeDepth := 9) [leaveQueue, *]
@[simp] theorem recordingOnly_markUnrecorded (q : Nat) (h : RecordingOnly s₀ s) : RecordingOnly s₀ (markUnrecorded s q) := by
  unfold markUnrecorded; split <;> simp (maxDischargeDepth := 9) [*]
@[simp] theorem recordingOnly_clearUnrecorded (q : Nat) (c : Option Nat) (h : RecordingOnly s₀ s) : RecordingOnly s₀ (clearUnrecorded s q c) := by
  unfold clearUnrecorded; split <;> simp (maxDischargeDepth := 9) [*]
@[simp] theorem recordingOnly_assignChannel (ch q : Nat) (p : Option Nat) (l : Bool) (h : RecordingOnly s₀ s) : RecordingOnly s₀ (assignChannel s ch q p l) := by
  simp (maxDischargeDepth := 9) [assignChannel, *]
@[simp] theorem recordingOnly_giveFree (q : Nat) (h : RecordingOnly s₀ s) : RecordingOnly s₀ (giveFree s q) := by
  unfold giveFree; split <;> simp (maxDischargeDepth := 9) [*]
@[simp] theorem recordingOnly_preempt (q v : Nat) (h : RecordingOnly s₀ s) : RecordingOnly s₀ (preempt s q v) := by
  unfold preempt; split <;> simp (maxDischargeDepth := 9) [*]
@[simp] theorem recordingOnly_obtainChannel (q : Nat) (h : RecordingOnly s₀ s) : RecordingOnly s₀ (obtainChannel s q) := by
  unfold obtainChannel; (repeat' split) <;> simp (maxDischargeDepth := 9) [*]
@[simp] theorem recordingOnly_releaseChannel (q : Nat) (h : RecordingOnly s₀ s) : RecordingOnly s₀ (releaseChannel s q) := by
  unfold releaseChannel; split <;> simp (maxDischargeDepth := 9) [*]
@[simp] theorem recordingOnly_passFall (e : Nat × Level) (h : RecordingOnly s₀ s) : RecordingOnly s₀ (passFall s e) := by
  unfold passFall; split <;> simp (maxDischargeDepth := 9) [*]
@[simp] theorem recordingOnly_passClass (e : Nat × Level) (h : RecordingOnly s₀ s) : RecordingOnly s₀ (passClass s e) := by
  unfold passClass; dsimp only; (repeat' split) <;> simp (maxDischargeDepth := 9) [*]
@[simp] theorem recordingOnly_passRise (e : Nat × Level) (h : RecordingOnly s₀ s) : RecordingOnly s₀ (passRise s e) := by
  unfold passRise; dsimp only; (repeat' split) <;> simp (maxDischargeDepth := 9) [*]
theorem recordingOnly_passServe (k : Nat) (h : RecordingOnly s₀ s) : RecordingOnly s₀ (passServe k s) := by
  induction k generalizing s with
  | zero => exact h
  | succ k ih => unfold passServe; split <;> simp [*]
@[simp] theorem recordingOnly_passPreempt (q : Nat) (h : RecordingOnly s₀ s) : RecordingOnly s₀ (passPreempt s q) := by
  unfold passPreempt; (repeat' split) <;> simp (maxDischargeDepth := 9) [*]
@[simp] theorem recordingOnly_recomputePorts (l : List Nat) (h : RecordingOnly s₀ s) : RecordingOnly s₀ (recomputePorts s l) := by
  unfold recomputePorts
  refine recordingOnly_foldl _ _ (fun s a h => by simp [h]) (recordingOnly_passServe _ ?_)
  refine recordingOnly_foldl _ _ (fun s a h => by simp [h]) ?_
  refine recordingOnly_foldl _ _ (fun s a h => by simp [h]) ?_
  exact recordingOnly_foldl _ _ (fun s a h => by simp [h]) h
@[simp] theorem recordingOnly_disableChannel (ch : Nat) (h : RecordingOnly s₀ s) : RecordingOnly s₀ (disableChannel s ch) := by
  unfold disableChannel; dsimp only; split <;> simp (maxDischargeDepth := 9) [*]
@[simp] theorem recordingOnly_enableChannel (ch : Nat) (h : RecordingOnly s₀ s) : RecordingOnly s₀ (enableChannel s ch) := by
  unfold enableChannel; dsimp only; split <;> simp (maxDischargeDepth := 9) [*]
@[simp] theorem recordingOnly_provideChannel (p : Party) (n : Nat) (h : RecordingOnly s₀ s) : RecordingOnly s₀ (provideChannel s p n) := by
  unfold provideChannel; split <;> simp (maxDischargeDepth := 9) [*]

variable (s)


/-! ## recomputePorts -/

@[simp] theorem recomputePorts_mem (l : List Nat) : (recomputePorts s l).mem = s.mem := (recordingOnly_recomputePorts _ (.refl s)).mem
@[simp] theorem recomputePorts_pending (l : List Nat) : (recomputePorts s l).pending = s.pending := (recordingOnly_recomputePorts _ (.refl s)).pending
@[simp] theorem recomputePorts_frame (l : List Nat) : (recomputePorts s l).frame = s.frame := (recordingOnly_recomputePorts _ (.refl s)).frame
@[simp] theorem recomputePorts_re (l : List Nat) : (recomputePorts s l).re = s.re := (recordingOnly_recomputePorts _ (.refl s)).re
@[simp] theorem recomputePorts_lc (l : List Nat) : (recomputePorts s l).lc = s.lc := (recordingOnly_recomputePorts _ (.refl s)).lc
@[simp] theorem recomputePorts_cc (l : List Nat) : (recomputePorts s l).cc = s.cc := (recordingOnly_recomputePorts _ (.refl s)).cc
@[simp] theorem recomputePorts_hc (l : List Nat) : (recomputePorts s l).hc = s.hc := (recordingOnly_recomputePorts _ (.refl s)).hc
@[simp] theorem recomputePorts_mx (l : List Nat) : (recomputePorts s l).mx = s.mx := (recordingOnly_recomputePorts _ (.refl s)).mx
@[simp] theorem recomputePorts_um (l : List Nat) : (recomputePorts s l).um = s.um := (recordingOnly_recomputePorts _ (.refl s)).um
@[simp] theorem recomputePorts_su (l : List Nat) : (recomputePorts s l).su = s.su := (recordingOnly_recomputePorts _ (.refl s)).su
@[simp] theorem recomputePorts_held (l : List Nat) : (recomputePorts s l).bi.held = s.bi.held := by
  have := (recordingOnly_recomputePorts _ (.refl s) : RecordingOnly s (recomputePorts s l)).bi
  simp_all
@[simp] theorem recomputePorts_line (l : List Nat) (m : Nat) : (recomputePorts s l).line m = s.line m := State.line_congr (recomputePorts_lc s l) m
@[simp] theorem recomputePorts_key (l : List Nat) (m : Nat) : (recomputePorts s l).key m = s.key m := State.key_congr (recomputePorts_lc s l) m
@[simp] theorem recomputePorts_appEntries (l : List Nat) (m : Nat) : (recomputePorts s l).appEntries m = s.appEntries m := State.appEntries_congr (recomputePorts_lc s l) m
@[simp] theorem recomputePorts_alertList (l : List Nat) (m : Nat) : (recomputePorts s l).alertList m = s.alertList m := State.alertList_congr (recomputePorts_lc s l) m
@[simp] theorem recomputePorts_circuit (l : List Nat) (m : Nat) : (recomputePorts s l).circuit m = s.circuit m := State.circuit_congr (recomputePorts_cc s l) m
@[simp] theorem recomputePorts_path (l : List Nat) (m : Nat) : (recomputePorts s l).path m = s.path m := State.path_congr (recomputePorts_cc s l) m
@[simp] theorem recomputePorts_handset (l : List Nat) (m : Party) : (recomputePorts s l).handset m = s.handset m := State.handset_congr (recomputePorts_hc s l) m
@[simp] theorem recomputePorts_call (l : List Nat) (m : Nat) : (recomputePorts s l).call m = s.call m := State.call_congr (recomputePorts_hc s l) m
@[simp] theorem recomputePorts_position (l : List Nat) (m : Nat) : (recomputePorts s l).position m = s.position m := State.position_congr (recomputePorts_hc s l) m
@[simp] theorem recomputePorts_speaker (l : List Nat) (m : Nat) : (recomputePorts s l).speaker m = s.speaker m := State.speaker_congr (recomputePorts_mx s l) m
@[simp] theorem recomputePorts_bridge (l : List Nat) (m : Nat) : (recomputePorts s l).bridge m = s.bridge m := State.bridge_congr (recomputePorts_mx s l) m
@[simp] theorem recomputePorts_context (l : List Nat) (m : Nat) : (recomputePorts s l).context m = s.context m := State.context_congr (recomputePorts_um s l) m

/-! ## obtainChannel -/

@[simp] theorem obtainChannel_mem (q : Nat) : (obtainChannel s q).mem = s.mem := (recordingOnly_obtainChannel _ (.refl s)).mem
@[simp] theorem obtainChannel_pending (q : Nat) : (obtainChannel s q).pending = s.pending := (recordingOnly_obtainChannel _ (.refl s)).pending
@[simp] theorem obtainChannel_frame (q : Nat) : (obtainChannel s q).frame = s.frame := (recordingOnly_obtainChannel _ (.refl s)).frame
@[simp] theorem obtainChannel_re (q : Nat) : (obtainChannel s q).re = s.re := (recordingOnly_obtainChannel _ (.refl s)).re
@[simp] theorem obtainChannel_lc (q : Nat) : (obtainChannel s q).lc = s.lc := (recordingOnly_obtainChannel _ (.refl s)).lc
@[simp] theorem obtainChannel_cc (q : Nat) : (obtainChannel s q).cc = s.cc := (recordingOnly_obtainChannel _ (.refl s)).cc
@[simp] theorem obtainChannel_hc (q : Nat) : (obtainChannel s q).hc = s.hc := (recordingOnly_obtainChannel _ (.refl s)).hc
@[simp] theorem obtainChannel_mx (q : Nat) : (obtainChannel s q).mx = s.mx := (recordingOnly_obtainChannel _ (.refl s)).mx
@[simp] theorem obtainChannel_um (q : Nat) : (obtainChannel s q).um = s.um := (recordingOnly_obtainChannel _ (.refl s)).um
@[simp] theorem obtainChannel_su (q : Nat) : (obtainChannel s q).su = s.su := (recordingOnly_obtainChannel _ (.refl s)).su
@[simp] theorem obtainChannel_held (q : Nat) : (obtainChannel s q).bi.held = s.bi.held := by
  have := (recordingOnly_obtainChannel _ (.refl s) : RecordingOnly s (obtainChannel s q)).bi
  simp_all
@[simp] theorem obtainChannel_line (q : Nat) (m : Nat) : (obtainChannel s q).line m = s.line m := State.line_congr (obtainChannel_lc s q) m
@[simp] theorem obtainChannel_key (q : Nat) (m : Nat) : (obtainChannel s q).key m = s.key m := State.key_congr (obtainChannel_lc s q) m
@[simp] theorem obtainChannel_appEntries (q : Nat) (m : Nat) : (obtainChannel s q).appEntries m = s.appEntries m := State.appEntries_congr (obtainChannel_lc s q) m
@[simp] theorem obtainChannel_alertList (q : Nat) (m : Nat) : (obtainChannel s q).alertList m = s.alertList m := State.alertList_congr (obtainChannel_lc s q) m
@[simp] theorem obtainChannel_circuit (q : Nat) (m : Nat) : (obtainChannel s q).circuit m = s.circuit m := State.circuit_congr (obtainChannel_cc s q) m
@[simp] theorem obtainChannel_path (q : Nat) (m : Nat) : (obtainChannel s q).path m = s.path m := State.path_congr (obtainChannel_cc s q) m
@[simp] theorem obtainChannel_handset (q : Nat) (m : Party) : (obtainChannel s q).handset m = s.handset m := State.handset_congr (obtainChannel_hc s q) m
@[simp] theorem obtainChannel_call (q : Nat) (m : Nat) : (obtainChannel s q).call m = s.call m := State.call_congr (obtainChannel_hc s q) m
@[simp] theorem obtainChannel_position (q : Nat) (m : Nat) : (obtainChannel s q).position m = s.position m := State.position_congr (obtainChannel_hc s q) m
@[simp] theorem obtainChannel_speaker (q : Nat) (m : Nat) : (obtainChannel s q).speaker m = s.speaker m := State.speaker_congr (obtainChannel_mx s q) m
@[simp] theorem obtainChannel_bridge (q : Nat) (m : Nat) : (obtainChannel s q).bridge m = s.bridge m := State.bridge_congr (obtainChannel_mx s q) m
@[simp] theorem obtainChannel_context (q : Nat) (m : Nat) : (obtainChannel s q).context m = s.context m := State.context_congr (obtainChannel_um s q) m

/-! ## provideChannel -/

@[simp] theorem provideChannel_mem (p : Party) (k : Nat) : (provideChannel s p k).mem = s.mem := (recordingOnly_provideChannel _ _ (.refl s)).mem
@[simp] theorem provideChannel_pending (p : Party) (k : Nat) : (provideChannel s p k).pending = s.pending := (recordingOnly_provideChannel _ _ (.refl s)).pending
@[simp] theorem provideChannel_frame (p : Party) (k : Nat) : (provideChannel s p k).frame = s.frame := (recordingOnly_provideChannel _ _ (.refl s)).frame
@[simp] theorem provideChannel_re (p : Party) (k : Nat) : (provideChannel s p k).re = s.re := (recordingOnly_provideChannel _ _ (.refl s)).re
@[simp] theorem provideChannel_lc (p : Party) (k : Nat) : (provideChannel s p k).lc = s.lc := (recordingOnly_provideChannel _ _ (.refl s)).lc
@[simp] theorem provideChannel_cc (p : Party) (k : Nat) : (provideChannel s p k).cc = s.cc := (recordingOnly_provideChannel _ _ (.refl s)).cc
@[simp] theorem provideChannel_hc (p : Party) (k : Nat) : (provideChannel s p k).hc = s.hc := (recordingOnly_provideChannel _ _ (.refl s)).hc
@[simp] theorem provideChannel_mx (p : Party) (k : Nat) : (provideChannel s p k).mx = s.mx := (recordingOnly_provideChannel _ _ (.refl s)).mx
@[simp] theorem provideChannel_um (p : Party) (k : Nat) : (provideChannel s p k).um = s.um := (recordingOnly_provideChannel _ _ (.refl s)).um
@[simp] theorem provideChannel_su (p : Party) (k : Nat) : (provideChannel s p k).su = s.su := (recordingOnly_provideChannel _ _ (.refl s)).su
@[simp] theorem provideChannel_held (p : Party) (k : Nat) : (provideChannel s p k).bi.held = s.bi.held := by
  have := (recordingOnly_provideChannel _ _ (.refl s) : RecordingOnly s (provideChannel s p k)).bi
  simp_all
@[simp] theorem provideChannel_line (p : Party) (k : Nat) (m : Nat) : (provideChannel s p k).line m = s.line m := State.line_congr (provideChannel_lc s p k) m
@[simp] theorem provideChannel_key (p : Party) (k : Nat) (m : Nat) : (provideChannel s p k).key m = s.key m := State.key_congr (provideChannel_lc s p k) m
@[simp] theorem provideChannel_appEntries (p : Party) (k : Nat) (m : Nat) : (provideChannel s p k).appEntries m = s.appEntries m := State.appEntries_congr (provideChannel_lc s p k) m
@[simp] theorem provideChannel_alertList (p : Party) (k : Nat) (m : Nat) : (provideChannel s p k).alertList m = s.alertList m := State.alertList_congr (provideChannel_lc s p k) m
@[simp] theorem provideChannel_circuit (p : Party) (k : Nat) (m : Nat) : (provideChannel s p k).circuit m = s.circuit m := State.circuit_congr (provideChannel_cc s p k) m
@[simp] theorem provideChannel_path (p : Party) (k : Nat) (m : Nat) : (provideChannel s p k).path m = s.path m := State.path_congr (provideChannel_cc s p k) m
@[simp] theorem provideChannel_handset (p : Party) (k : Nat) (m : Party) : (provideChannel s p k).handset m = s.handset m := State.handset_congr (provideChannel_hc s p k) m
@[simp] theorem provideChannel_call (p : Party) (k : Nat) (m : Nat) : (provideChannel s p k).call m = s.call m := State.call_congr (provideChannel_hc s p k) m
@[simp] theorem provideChannel_position (p : Party) (k : Nat) (m : Nat) : (provideChannel s p k).position m = s.position m := State.position_congr (provideChannel_hc s p k) m
@[simp] theorem provideChannel_speaker (p : Party) (k : Nat) (m : Nat) : (provideChannel s p k).speaker m = s.speaker m := State.speaker_congr (provideChannel_mx s p k) m
@[simp] theorem provideChannel_bridge (p : Party) (k : Nat) (m : Nat) : (provideChannel s p k).bridge m = s.bridge m := State.bridge_congr (provideChannel_mx s p k) m
@[simp] theorem provideChannel_context (p : Party) (k : Nat) (m : Nat) : (provideChannel s p k).context m = s.context m := State.context_congr (provideChannel_um s p k) m

/-! ## enableChannel -/

@[simp] theorem enableChannel_mem (c : Nat) : (enableChannel s c).mem = s.mem := (recordingOnly_enableChannel _ (.refl s)).mem
@[simp] theorem enableChannel_pending (c : Nat) : (enableChannel s c).pending = s.pending := (recordingOnly_enableChannel _ (.refl s)).pending
@[simp] theorem enableChannel_frame (c : Nat) : (enableChannel s c).frame = s.frame := (recordingOnly_enableChannel _ (.refl s)).frame
@[simp] theorem enableChannel_re (c : Nat) : (enableChannel s c).re = s.re := (recordingOnly_enableChannel _ (.refl s)).re
@[simp] theorem enableChannel_lc (c : Nat) : (enableChannel s c).lc = s.lc := (recordingOnly_enableChannel _ (.refl s)).lc
@[simp] theorem enableChannel_cc (c : Nat) : (enableChannel s c).cc = s.cc := (recordingOnly_enableChannel _ (.refl s)).cc
@[simp] theorem enableChannel_hc (c : Nat) : (enableChannel s c).hc = s.hc := (recordingOnly_enableChannel _ (.refl s)).hc
@[simp] theorem enableChannel_mx (c : Nat) : (enableChannel s c).mx = s.mx := (recordingOnly_enableChannel _ (.refl s)).mx
@[simp] theorem enableChannel_um (c : Nat) : (enableChannel s c).um = s.um := (recordingOnly_enableChannel _ (.refl s)).um
@[simp] theorem enableChannel_su (c : Nat) : (enableChannel s c).su = s.su := (recordingOnly_enableChannel _ (.refl s)).su
@[simp] theorem enableChannel_held (c : Nat) : (enableChannel s c).bi.held = s.bi.held := by
  have := (recordingOnly_enableChannel _ (.refl s) : RecordingOnly s (enableChannel s c)).bi
  simp_all
@[simp] theorem enableChannel_line (c : Nat) (m : Nat) : (enableChannel s c).line m = s.line m := State.line_congr (enableChannel_lc s c) m
@[simp] theorem enableChannel_key (c : Nat) (m : Nat) : (enableChannel s c).key m = s.key m := State.key_congr (enableChannel_lc s c) m
@[simp] theorem enableChannel_appEntries (c : Nat) (m : Nat) : (enableChannel s c).appEntries m = s.appEntries m := State.appEntries_congr (enableChannel_lc s c) m
@[simp] theorem enableChannel_alertList (c : Nat) (m : Nat) : (enableChannel s c).alertList m = s.alertList m := State.alertList_congr (enableChannel_lc s c) m
@[simp] theorem enableChannel_circuit (c : Nat) (m : Nat) : (enableChannel s c).circuit m = s.circuit m := State.circuit_congr (enableChannel_cc s c) m
@[simp] theorem enableChannel_path (c : Nat) (m : Nat) : (enableChannel s c).path m = s.path m := State.path_congr (enableChannel_cc s c) m
@[simp] theorem enableChannel_handset (c : Nat) (m : Party) : (enableChannel s c).handset m = s.handset m := State.handset_congr (enableChannel_hc s c) m
@[simp] theorem enableChannel_call (c : Nat) (m : Nat) : (enableChannel s c).call m = s.call m := State.call_congr (enableChannel_hc s c) m
@[simp] theorem enableChannel_position (c : Nat) (m : Nat) : (enableChannel s c).position m = s.position m := State.position_congr (enableChannel_hc s c) m
@[simp] theorem enableChannel_speaker (c : Nat) (m : Nat) : (enableChannel s c).speaker m = s.speaker m := State.speaker_congr (enableChannel_mx s c) m
@[simp] theorem enableChannel_bridge (c : Nat) (m : Nat) : (enableChannel s c).bridge m = s.bridge m := State.bridge_congr (enableChannel_mx s c) m
@[simp] theorem enableChannel_context (c : Nat) (m : Nat) : (enableChannel s c).context m = s.context m := State.context_congr (enableChannel_um s c) m

/-! ## disableChannel -/

@[simp] theorem disableChannel_mem (c : Nat) : (disableChannel s c).mem = s.mem := (recordingOnly_disableChannel _ (.refl s)).mem
@[simp] theorem disableChannel_pending (c : Nat) : (disableChannel s c).pending = s.pending := (recordingOnly_disableChannel _ (.refl s)).pending
@[simp] theorem disableChannel_frame (c : Nat) : (disableChannel s c).frame = s.frame := (recordingOnly_disableChannel _ (.refl s)).frame
@[simp] theorem disableChannel_re (c : Nat) : (disableChannel s c).re = s.re := (recordingOnly_disableChannel _ (.refl s)).re
@[simp] theorem disableChannel_lc (c : Nat) : (disableChannel s c).lc = s.lc := (recordingOnly_disableChannel _ (.refl s)).lc
@[simp] theorem disableChannel_cc (c : Nat) : (disableChannel s c).cc = s.cc := (recordingOnly_disableChannel _ (.refl s)).cc
@[simp] theorem disableChannel_hc (c : Nat) : (disableChannel s c).hc = s.hc := (recordingOnly_disableChannel _ (.refl s)).hc
@[simp] theorem disableChannel_mx (c : Nat) : (disableChannel s c).mx = s.mx := (recordingOnly_disableChannel _ (.refl s)).mx
@[simp] theorem disableChannel_um (c : Nat) : (disableChannel s c).um = s.um := (recordingOnly_disableChannel _ (.refl s)).um
@[simp] theorem disableChannel_su (c : Nat) : (disableChannel s c).su = s.su := (recordingOnly_disableChannel _ (.refl s)).su
@[simp] theorem disableChannel_held (c : Nat) : (disableChannel s c).bi.held = s.bi.held := by
  have := (recordingOnly_disableChannel _ (.refl s) : RecordingOnly s (disableChannel s c)).bi
  simp_all
@[simp] theorem disableChannel_line (c : Nat) (m : Nat) : (disableChannel s c).line m = s.line m := State.line_congr (disableChannel_lc s c) m
@[simp] theorem disableChannel_key (c : Nat) (m : Nat) : (disableChannel s c).key m = s.key m := State.key_congr (disableChannel_lc s c) m
@[simp] theorem disableChannel_appEntries (c : Nat) (m : Nat) : (disableChannel s c).appEntries m = s.appEntries m := State.appEntries_congr (disableChannel_lc s c) m
@[simp] theorem disableChannel_alertList (c : Nat) (m : Nat) : (disableChannel s c).alertList m = s.alertList m := State.alertList_congr (disableChannel_lc s c) m
@[simp] theorem disableChannel_circuit (c : Nat) (m : Nat) : (disableChannel s c).circuit m = s.circuit m := State.circuit_congr (disableChannel_cc s c) m
@[simp] theorem disableChannel_path (c : Nat) (m : Nat) : (disableChannel s c).path m = s.path m := State.path_congr (disableChannel_cc s c) m
@[simp] theorem disableChannel_handset (c : Nat) (m : Party) : (disableChannel s c).handset m = s.handset m := State.handset_congr (disableChannel_hc s c) m
@[simp] theorem disableChannel_call (c : Nat) (m : Nat) : (disableChannel s c).call m = s.call m := State.call_congr (disableChannel_hc s c) m
@[simp] theorem disableChannel_position (c : Nat) (m : Nat) : (disableChannel s c).position m = s.position m := State.position_congr (disableChannel_hc s c) m
@[simp] theorem disableChannel_speaker (c : Nat) (m : Nat) : (disableChannel s c).speaker m = s.speaker m := State.speaker_congr (disableChannel_mx s c) m
@[simp] theorem disableChannel_bridge (c : Nat) (m : Nat) : (disableChannel s c).bridge m = s.bridge m := State.bridge_congr (disableChannel_mx s c) m
@[simp] theorem disableChannel_context (c : Nat) (m : Nat) : (disableChannel s c).context m = s.context m := State.context_congr (disableChannel_um s c) m

end Sys2Proof.Machine
end

