-- ==== Sys2Proof/Laws/CallWork.lean ====
section
/-!
SUPPORT. What the operations on lines, circuits, handsets and calls leave as it was: memory, the request ring, the mixer, the part state,
the fault log, and all of the Bus Interposer but its queue.
-/

namespace Sys2Proof.Machine

/-- Only lines, circuits, handsets, positions, recording, measurement, the event ring and the posted writes differ. -/
structure CallWork (s t : State) : Prop where
  mem     : t.mem = s.mem
  pending : t.pending = s.pending
  frame   : t.frame = s.frame
  re      : t.re = s.re
  mx      : t.mx = s.mx
  su      : t.su = s.su
  um      : (t.um.enable, t.um.format, t.um.inProgress) = (s.um.enable, s.um.format, s.um.inProgress)
  cc      : t.cc.sending = s.cc.sending
  bi      : (t.bi.base, t.bi.copies, t.bi.startCopy, t.bi.latch, t.bi.measHold, t.bi.held, t.bi.readData) =
    (s.bi.base, s.bi.copies, s.bi.startCopy, s.bi.latch, s.bi.measHold, s.bi.held, s.bi.readData)
  eu      : (t.eu.evtRead, t.eu.fault, t.eu.mask, t.eu.attention, t.eu.fltHead, t.eu.fltRead, t.eu.cause, t.eu.unlogged) =
    (s.eu.evtRead, s.eu.fault, s.eu.mask, s.eu.attention, s.eu.fltHead, s.eu.fltRead, s.eu.cause, s.eu.unlogged)
  words   : s.eu.evtHead < 256 → t.eu.evtHead < 256 ∧ ∀ off, regionOf off ≠ .owned → latestWord t off = latestWord s off
  lost    : s.eu.lost ≤ 65535 → s.eu.lost ≤ t.eu.lost ∧ t.eu.lost ≤ 65535

theorem CallWork.refl (s : State) : CallWork s s := ⟨rfl, rfl, rfl, rfl, rfl, rfl, rfl, rfl, rfl, rfl, fun h => ⟨h, fun _ _ => rfl⟩, fun h => ⟨Nat.le_refl _, h⟩⟩

theorem CallWork.trans {a b c : State} (h : CallWork a b) (k : CallWork b c) : CallWork a c :=
  ⟨k.1.trans h.1, k.2.trans h.2, k.3.trans h.3, k.4.trans h.4, k.5.trans h.5, k.6.trans h.6, k.7.trans h.7, k.8.trans h.8,
    k.9.trans h.9, k.10.trans h.10, fun e =>
      ⟨(k.words (h.words e).1).1, fun off ho => ((k.words (h.words e).1).2 off ho).trans ((h.words e).2 off ho)⟩,
    fun e => ⟨Nat.le_trans (h.lost e).1 (k.lost (h.lost e).2).1, (k.lost (h.lost e).2).2⟩⟩

theorem callWork_foldl {α : Type} {s₀ s : State} (f : State → α → State) (l : List α)
    (hf : ∀ s a, CallWork s₀ s → CallWork s₀ (f s a)) (h : CallWork s₀ s) : CallWork s₀ (l.foldl f s) := by
  induction l generalizing s with
  | nil => exact h
  | cons a l ih => exact ih (hf s a h)

theorem CallWork.held {s t : State} (h : CallWork s t) : t.bi.held = s.bi.held := by
  have := h.bi
  simp_all

variable {s₀ s : State}

/-- The event ring is an OWNED zone (R128, R154). -/
theorem eventOffset_owned (h : Nat) (hh : h < 256) (off : Nat) (hl : eventOffset h ≤ off) (hu : off < eventOffset h + 8) :
    regionOf off = .owned := by
  simp only [eventOffset] at hl hu
  unfold regionOf
  repeat rw [if_neg (by omega)]
  rw [if_pos (by omega)]

theorem eventWords_length (e : Event) (f : Frame) : (e.words f).length = 8 := by simp [Event.words]

theorem issue_words (e : Event) (hh : s.eu.evtHead < 256) :
    (issue s e).eu.evtHead < 256 ∧ ∀ off, regionOf off ≠ .owned → latestWord (issue s e) off = latestWord s off := by
  unfold issue
  dsimp only
  split
  · refine ⟨by simp only [postAll_eu]; omega, fun off ho => ?_⟩
    rw [latestWord_postAll]
    · rfl
    · intro x hx heq
      have hb := writesAt_offsets _ _ x hx
      rw [eventWords_length] at hb
      exact ho (heq ▸ eventOffset_owned _ hh x.1 hb.1 hb.2)
  · exact ⟨hh, fun _ _ => rfl⟩

/-- The lost count never falls, and stays in its range (R155). -/
theorem issue_lost (s : State) (e : Event) (h : s.eu.lost ≤ 65535) : s.eu.lost ≤ (issue s e).eu.lost ∧ (issue s e).eu.lost ≤ 65535 := by
  unfold issue
  dsimp only
  split
  · exact ⟨Nat.le_refl _, h⟩
  · exact ⟨by dsimp only; omega, by dsimp only; omega⟩

/-! ## Updates of records, events -/

@[simp] theorem callWork_setLine (n : Nat) (r : LineRec) : CallWork s₀ (s.setLine n r) ↔ CallWork s₀ s :=
  ⟨fun h => h.trans ⟨rfl, rfl, rfl, rfl, rfl, rfl, rfl, rfl, rfl, rfl, fun e => ⟨e, fun _ _ => rfl⟩, fun e => ⟨Nat.le_refl _, e⟩⟩,
   fun h => h.trans ⟨rfl, rfl, rfl, rfl, rfl, rfl, rfl, rfl, rfl, rfl, fun e => ⟨e, fun _ _ => rfl⟩, fun e => ⟨Nat.le_refl _, e⟩⟩⟩
@[simp] theorem callWork_setKeyVal (n : Nat) (r : KeyVal) : CallWork s₀ (s.setKeyVal n r) ↔ CallWork s₀ s :=
  ⟨fun h => h.trans ⟨rfl, rfl, rfl, rfl, rfl, rfl, rfl, rfl, rfl, rfl, fun e => ⟨e, fun _ _ => rfl⟩, fun e => ⟨Nat.le_refl _, e⟩⟩,
   fun h => h.trans ⟨rfl, rfl, rfl, rfl, rfl, rfl, rfl, rfl, rfl, rfl, fun e => ⟨e, fun _ _ => rfl⟩, fun e => ⟨Nat.le_refl _, e⟩⟩⟩
@[simp] theorem callWork_setAppEntries (n : Nat) (r : List AppEntry) : CallWork s₀ (s.setAppEntries n r) ↔ CallWork s₀ s :=
  ⟨fun h => h.trans ⟨rfl, rfl, rfl, rfl, rfl, rfl, rfl, rfl, rfl, rfl, fun e => ⟨e, fun _ _ => rfl⟩, fun e => ⟨Nat.le_refl _, e⟩⟩,
   fun h => h.trans ⟨rfl, rfl, rfl, rfl, rfl, rfl, rfl, rfl, rfl, rfl, fun e => ⟨e, fun _ _ => rfl⟩, fun e => ⟨Nat.le_refl _, e⟩⟩⟩
@[simp] theorem callWork_setAlertList (n : Nat) (r : List Nat) : CallWork s₀ (s.setAlertList n r) ↔ CallWork s₀ s :=
  ⟨fun h => h.trans ⟨rfl, rfl, rfl, rfl, rfl, rfl, rfl, rfl, rfl, rfl, fun e => ⟨e, fun _ _ => rfl⟩, fun e => ⟨Nat.le_refl _, e⟩⟩,
   fun h => h.trans ⟨rfl, rfl, rfl, rfl, rfl, rfl, rfl, rfl, rfl, rfl, fun e => ⟨e, fun _ _ => rfl⟩, fun e => ⟨Nat.le_refl _, e⟩⟩⟩
@[simp] theorem callWork_setCircuit (n : Nat) (r : CircuitRec) : CallWork s₀ (s.setCircuit n r) ↔ CallWork s₀ s :=
  ⟨fun h => h.trans ⟨rfl, rfl, rfl, rfl, rfl, rfl, rfl, rfl, rfl, rfl, fun e => ⟨e, fun _ _ => rfl⟩, fun e => ⟨Nat.le_refl _, e⟩⟩,
   fun h => h.trans ⟨rfl, rfl, rfl, rfl, rfl, rfl, rfl, rfl, rfl, rfl, fun e => ⟨e, fun _ _ => rfl⟩, fun e => ⟨Nat.le_refl _, e⟩⟩⟩
@[simp] theorem callWork_setPath (n : Nat) (r : PathRec) : CallWork s₀ (s.setPath n r) ↔ CallWork s₀ s :=
  ⟨fun h => h.trans ⟨rfl, rfl, rfl, rfl, rfl, rfl, rfl, rfl, rfl, rfl, fun e => ⟨e, fun _ _ => rfl⟩, fun e => ⟨Nat.le_refl _, e⟩⟩,
   fun h => h.trans ⟨rfl, rfl, rfl, rfl, rfl, rfl, rfl, rfl, rfl, rfl, fun e => ⟨e, fun _ _ => rfl⟩, fun e => ⟨Nat.le_refl _, e⟩⟩⟩
@[simp] theorem callWork_setPendingList (r : List Nat) : CallWork s₀ (s.setPendingList r) ↔ CallWork s₀ s :=
  ⟨fun h => h.trans ⟨rfl, rfl, rfl, rfl, rfl, rfl, rfl, rfl, rfl, rfl, fun e => ⟨e, fun _ _ => rfl⟩, fun e => ⟨Nat.le_refl _, e⟩⟩,
   fun h => h.trans ⟨rfl, rfl, rfl, rfl, rfl, rfl, rfl, rfl, rfl, rfl, fun e => ⟨e, fun _ _ => rfl⟩, fun e => ⟨Nat.le_refl _, e⟩⟩⟩
@[simp] theorem callWork_setHandset (n : Party) (r : HandsetRec) : CallWork s₀ (s.setHandset n r) ↔ CallWork s₀ s :=
  ⟨fun h => h.trans ⟨rfl, rfl, rfl, rfl, rfl, rfl, rfl, rfl, rfl, rfl, fun e => ⟨e, fun _ _ => rfl⟩, fun e => ⟨Nat.le_refl _, e⟩⟩,
   fun h => h.trans ⟨rfl, rfl, rfl, rfl, rfl, rfl, rfl, rfl, rfl, rfl, fun e => ⟨e, fun _ _ => rfl⟩, fun e => ⟨Nat.le_refl _, e⟩⟩⟩
@[simp] theorem callWork_setCall (n : Nat) (r : IcmRec) : CallWork s₀ (s.setCall n r) ↔ CallWork s₀ s :=
  ⟨fun h => h.trans ⟨rfl, rfl, rfl, rfl, rfl, rfl, rfl, rfl, rfl, rfl, fun e => ⟨e, fun _ _ => rfl⟩, fun e => ⟨Nat.le_refl _, e⟩⟩,
   fun h => h.trans ⟨rfl, rfl, rfl, rfl, rfl, rfl, rfl, rfl, rfl, rfl, fun e => ⟨e, fun _ _ => rfl⟩, fun e => ⟨Nat.le_refl _, e⟩⟩⟩
@[simp] theorem callWork_setPosition (n : Nat) (r : PosRec) : CallWork s₀ (s.setPosition n r) ↔ CallWork s₀ s :=
  ⟨fun h => h.trans ⟨rfl, rfl, rfl, rfl, rfl, rfl, rfl, rfl, rfl, rfl, fun e => ⟨e, fun _ _ => rfl⟩, fun e => ⟨Nat.le_refl _, e⟩⟩,
   fun h => h.trans ⟨rfl, rfl, rfl, rfl, rfl, rfl, rfl, rfl, rfl, rfl, fun e => ⟨e, fun _ _ => rfl⟩, fun e => ⟨Nat.le_refl _, e⟩⟩⟩
@[simp] theorem callWork_setChannel (n : Nat) (r : ChannelRec) : CallWork s₀ (s.setChannel n r) ↔ CallWork s₀ s :=
  ⟨fun h => h.trans ⟨rfl, rfl, rfl, rfl, rfl, rfl, rfl, rfl, rfl, rfl, fun e => ⟨e, fun _ _ => rfl⟩, fun e => ⟨Nat.le_refl _, e⟩⟩,
   fun h => h.trans ⟨rfl, rfl, rfl, rfl, rfl, rfl, rfl, rfl, rfl, rfl, fun e => ⟨e, fun _ _ => rfl⟩, fun e => ⟨Nat.le_refl _, e⟩⟩⟩
@[simp] theorem callWork_setPort (n : Nat) (r : PortRec) : CallWork s₀ (s.setPort n r) ↔ CallWork s₀ s :=
  ⟨fun h => h.trans ⟨rfl, rfl, rfl, rfl, rfl, rfl, rfl, rfl, rfl, rfl, fun e => ⟨e, fun _ _ => rfl⟩, fun e => ⟨Nat.le_refl _, e⟩⟩,
   fun h => h.trans ⟨rfl, rfl, rfl, rfl, rfl, rfl, rfl, rfl, rfl, rfl, fun e => ⟨e, fun _ _ => rfl⟩, fun e => ⟨Nat.le_refl _, e⟩⟩⟩
@[simp] theorem callWork_setFreeList (r : List Nat) : CallWork s₀ (s.setFreeList r) ↔ CallWork s₀ s :=
  ⟨fun h => h.trans ⟨rfl, rfl, rfl, rfl, rfl, rfl, rfl, rfl, rfl, rfl, fun e => ⟨e, fun _ _ => rfl⟩, fun e => ⟨Nat.le_refl _, e⟩⟩,
   fun h => h.trans ⟨rfl, rfl, rfl, rfl, rfl, rfl, rfl, rfl, rfl, rfl, fun e => ⟨e, fun _ _ => rfl⟩, fun e => ⟨Nat.le_refl _, e⟩⟩⟩
@[simp] theorem callWork_setWaitQueue (r : List Nat) : CallWork s₀ (s.setWaitQueue r) ↔ CallWork s₀ s :=
  ⟨fun h => h.trans ⟨rfl, rfl, rfl, rfl, rfl, rfl, rfl, rfl, rfl, rfl, fun e => ⟨e, fun _ _ => rfl⟩, fun e => ⟨Nat.le_refl _, e⟩⟩,
   fun h => h.trans ⟨rfl, rfl, rfl, rfl, rfl, rfl, rfl, rfl, rfl, rfl, fun e => ⟨e, fun _ _ => rfl⟩, fun e => ⟨Nat.le_refl _, e⟩⟩⟩
@[simp] theorem callWork_setOrder (r : List Nat) : CallWork s₀ (s.setOrder r) ↔ CallWork s₀ s :=
  ⟨fun h => h.trans ⟨rfl, rfl, rfl, rfl, rfl, rfl, rfl, rfl, rfl, rfl, fun e => ⟨e, fun _ _ => rfl⟩, fun e => ⟨Nat.le_refl _, e⟩⟩,
   fun h => h.trans ⟨rfl, rfl, rfl, rfl, rfl, rfl, rfl, rfl, rfl, rfl, fun e => ⟨e, fun _ _ => rfl⟩, fun e => ⟨Nat.le_refl _, e⟩⟩⟩
@[simp] theorem callWork_setContext (n : Nat) (r : Option MeasContext) : CallWork s₀ (s.setContext n r) ↔ CallWork s₀ s :=
  ⟨fun h => h.trans ⟨rfl, rfl, rfl, rfl, rfl, rfl, rfl, rfl, rfl, rfl, fun e => ⟨e, fun _ _ => rfl⟩, fun e => ⟨Nat.le_refl _, e⟩⟩,
   fun h => h.trans ⟨rfl, rfl, rfl, rfl, rfl, rfl, rfl, rfl, rfl, rfl, fun e => ⟨e, fun _ _ => rfl⟩, fun e => ⟨Nat.le_refl _, e⟩⟩⟩
@[simp] theorem callWork_setUpdates (r : List UpdateRec) : CallWork s₀ (s.setUpdates r) ↔ CallWork s₀ s :=
  ⟨fun h => h.trans ⟨rfl, rfl, rfl, rfl, rfl, rfl, rfl, rfl, rfl, rfl, fun e => ⟨e, fun _ _ => rfl⟩, fun e => ⟨Nat.le_refl _, e⟩⟩,
   fun h => h.trans ⟨rfl, rfl, rfl, rfl, rfl, rfl, rfl, rfl, rfl, rfl, fun e => ⟨e, fun _ _ => rfl⟩, fun e => ⟨Nat.le_refl _, e⟩⟩⟩
@[simp] theorem callWork_issue (e : Event) (h : CallWork s₀ s) : CallWork s₀ (issue s e) := by
  exact h.trans ⟨by simp, by simp, by simp, by simp, by simp, by simp, by simp, by simp, by simp, by simp, issue_words e, issue_lost s e⟩
@[simp] theorem callWork_recorderOccurrence (h : CallWork s₀ s) : CallWork s₀ (recorderOccurrence s) := by
  exact h.trans ⟨rfl, rfl, rfl, rfl, rfl, rfl, rfl, rfl, rfl, rfl, fun e => ⟨e, fun _ _ => rfl⟩, fun e => ⟨Nat.le_refl _, e⟩⟩
@[simp] theorem callWork_modContext (n : Nat) (f : MeasContext → MeasContext) (h : CallWork s₀ s) : CallWork s₀ (modContext s n f) := by
  unfold modContext; split <;> simp (maxDischargeDepth := 9) [*]

/-! ## Recording -/

@[simp] theorem callWork_enterClass (q : Nat) (l : Level) (h : CallWork s₀ s) : CallWork s₀ (enterClass s q l) := by
  unfold enterClass; split <;> simp (maxDischargeDepth := 9) [*]
@[simp] theorem callWork_leaveQueue (q : Nat) (h : CallWork s₀ s) : CallWork s₀ (leaveQueue s q) := by
  simp (maxDischargeDepth := 9) [leaveQueue, *]
@[simp] theorem callWork_markUnrecorded (q : Nat) (h : CallWork s₀ s) : CallWork s₀ (markUnrecorded s q) := by
  unfold markUnrecorded; split <;> simp (maxDischargeDepth := 9) [*]
@[simp] theorem callWork_clearUnrecorded (q : Nat) (c : Option Nat) (h : CallWork s₀ s) : CallWork s₀ (clearUnrecorded s q c) := by
  unfold clearUnrecorded; split <;> simp (maxDischargeDepth := 9) [*]
@[simp] theorem callWork_assignChannel (ch q : Nat) (p : Option Nat) (l : Bool) (h : CallWork s₀ s) : CallWork s₀ (assignChannel s ch q p l) := by
  simp (maxDischargeDepth := 9) [assignChannel, *]
@[simp] theorem callWork_giveFree (q : Nat) (h : CallWork s₀ s) : CallWork s₀ (giveFree s q) := by
  unfold giveFree; split <;> simp (maxDischargeDepth := 9) [*]
@[simp] theorem callWork_preempt (q v : Nat) (h : CallWork s₀ s) : CallWork s₀ (preempt s q v) := by
  unfold preempt; split <;> simp (maxDischargeDepth := 9) [*]
@[simp] theorem callWork_obtainChannel (q : Nat) (h : CallWork s₀ s) : CallWork s₀ (obtainChannel s q) := by
  unfold obtainChannel; (repeat' split) <;> simp (maxDischargeDepth := 9) [*]
@[simp] theorem callWork_releaseChannel (q : Nat) (h : CallWork s₀ s) : CallWork s₀ (releaseChannel s q) := by
  unfold releaseChannel; split <;> simp (maxDischargeDepth := 9) [*]
@[simp] theorem callWork_passFall (e : Nat × Level) (h : CallWork s₀ s) : CallWork s₀ (passFall s e) := by
  unfold passFall; split <;> simp (maxDischargeDepth := 9) [*]
@[simp] theorem callWork_passClass (e : Nat × Level) (h : CallWork s₀ s) : CallWork s₀ (passClass s e) := by
  unfold passClass; dsimp only; (repeat' split) <;> simp (maxDischargeDepth := 9) [*]
@[simp] theorem callWork_passRise (e : Nat × Level) (h : CallWork s₀ s) : CallWork s₀ (passRise s e) := by
  unfold passRise; dsimp only; (repeat' split) <;> simp (maxDischargeDepth := 9) [*]
theorem callWork_passServe (k : Nat) (h : CallWork s₀ s) : CallWork s₀ (passServe k s) := by
  induction k generalizing s with
  | zero => exact h
  | succ k ih => unfold passServe; split <;> simp [*]
@[simp] theorem callWork_passPreempt (q : Nat) (h : CallWork s₀ s) : CallWork s₀ (passPreempt s q) := by
  unfold passPreempt; (repeat' split) <;> simp (maxDischargeDepth := 9) [*]
@[simp] theorem callWork_recomputePorts (l : List Nat) (h : CallWork s₀ s) : CallWork s₀ (recomputePorts s l) := by
  unfold recomputePorts
  refine callWork_foldl _ _ (fun s a h => by simp [h]) (callWork_passServe _ ?_)
  refine callWork_foldl _ _ (fun s a h => by simp [h]) ?_
  refine callWork_foldl _ _ (fun s a h => by simp [h]) ?_
  exact callWork_foldl _ _ (fun s a h => by simp [h]) h

/-! ## Appearances and alerts -/

@[simp] theorem callWork_addAlert (p n : Nat) (h : CallWork s₀ s) : CallWork s₀ (addAlert s p n) := by
  unfold addAlert; dsimp only; split <;> simp (maxDischargeDepth := 9) [*]
@[simp] theorem callWork_backfill (p : Nat) (l : Option Nat) (h : CallWork s₀ s) : CallWork s₀ (backfill s p l) := by
  unfold backfill; split <;> simp (maxDischargeDepth := 9) [*]
@[simp] theorem callWork_removeAlert (p n : Nat) (l : Option Nat) (h : CallWork s₀ s) : CallWork s₀ (removeAlert s p n l) := by
  unfold removeAlert; split <;> simp (maxDischargeDepth := 9) [*]
@[simp] theorem callWork_leaveAlerts (n : Nat) (h : CallWork s₀ s) : CallWork s₀ (leaveAlerts s n) := by
  exact callWork_foldl _ _ (fun s a h => by simp [h]) h
@[simp] theorem callWork_enterAlerts (n : Nat) (h : CallWork s₀ s) : CallWork s₀ (enterAlerts s n) := by
  exact callWork_foldl _ _ (fun s a h => by split <;> simp [h]) h
@[simp] theorem callWork_fillAlerts (p : Nat) (h : CallWork s₀ s) : CallWork s₀ (fillAlerts s p) := by
  exact callWork_foldl _ _ (fun s a h => by simp [h]) h
@[simp] theorem callWork_indexLoses (n p : Nat) (h : CallWork s₀ s) : CallWork s₀ (indexLoses s n p) := by
  simp (maxDischargeDepth := 9) [indexLoses, *]
@[simp] theorem callWork_indexGains (n p : Nat) (h : CallWork s₀ s) : CallWork s₀ (indexGains s n p) := by
  simp (maxDischargeDepth := 9) [indexGains, *]
@[simp] theorem callWork_indexKey (p k : Nat) (v : KeyVal) (h : CallWork s₀ s) : CallWork s₀ (indexKey s p k v) := by
  unfold indexKey; dsimp only; (repeat' split) <;> simp (maxDischargeDepth := 9) [*]
theorem callWork_followAudible (before : State) (p n : Nat) (h : CallWork s₀ s) : CallWork s₀ (followAudible before p s n) := by
  unfold followAudible; (repeat' split) <;> simp [*]
@[simp] theorem callWork_applyKey (p k : Nat) (v : KeyVal) (h : CallWork s₀ s) : CallWork s₀ (applyKey s p k v) := by
  exact callWork_foldl _ _ (fun t n h => callWork_followAudible _ p n h) (by simp [h])

/-! ## Circuits -/

@[simp] theorem callWork_enterIdle (c : Nat) (h : CallWork s₀ s) : CallWork s₀ (enterIdle s c) := by
  simp (maxDischargeDepth := 9) [enterIdle, *]
@[simp] theorem callWork_renameCircuit (c : Nat) (h : CallWork s₀ s) : CallWork s₀ (renameCircuit s c) := by
  unfold renameCircuit; split <;> simp (maxDischargeDepth := 9) [*]
@[simp] theorem callWork_renameCircuits (cs : List Nat) (h : CallWork s₀ s) : CallWork s₀ (renameCircuits s cs) := by
  exact callWork_foldl _ _ (fun s a h => by simp [h]) h
@[simp] theorem callWork_refreshMasks (n : Nat) (a b : List Nat) (h : CallWork s₀ s) : CallWork s₀ (refreshMasks s n a b) := by
  simp (maxDischargeDepth := 9) [refreshMasks, *]
theorem callWork_forNaming (c : Nat) (f : State → Nat → Nat → State) (hf : ∀ s n i, CallWork s₀ s → CallWork s₀ (f s n i))
    (h : CallWork s₀ s) : CallWork s₀ (forNaming s c f) :=
  callWork_foldl _ _ (fun s a h => by split <;> simp [h, hf]) h

@[simp] theorem callWork_setAvailable (c : Nat) (b : Bool) (h : CallWork s₀ s) : CallWork s₀ (setAvailable s c b) := by
  exact callWork_forNaming _ _ (fun s n i h => by simp [h]) h
@[simp] theorem callWork_setOperational (c : Nat) (h : CallWork s₀ s) : CallWork s₀ (setOperational s c) := by
  exact callWork_forNaming _ _ (fun s n i h => by simp [h]) h
@[simp] theorem callWork_takeCallCopy (n : Nat) (h : CallWork s₀ s) : CallWork s₀ (takeCallCopy s n) := by
  simp (maxDischargeDepth := 9) [takeCallCopy, *]
@[simp] theorem callWork_dropCallCopy (n : Nat) (h : CallWork s₀ s) : CallWork s₀ (dropCallCopy s n) := by
  unfold dropCallCopy; split <;> simp (maxDischargeDepth := 9) [*]
@[simp] theorem callWork_relist (c : Nat) (h : CallWork s₀ s) : CallWork s₀ (relist s c) := by
  unfold relist; dsimp only; (repeat' split) <;> simp (maxDischargeDepth := 9) [*]
@[simp] theorem callWork_setDesired (c : Nat) (d : LinkState) (h : CallWork s₀ s) : CallWork s₀ (setDesired s c d) := by
  simp (maxDischargeDepth := 9) [setDesired, *]
@[simp] theorem callWork_finishRelease (c : Nat) (h : CallWork s₀ s) : CallWork s₀ (finishRelease s c) := by
  unfold finishRelease; dsimp only; split <;> simp (maxDischargeDepth := 9) [*]
@[simp] theorem callWork_releaseCircuit (c : Nat) (b : Bool) (o : Option Nat) (h : CallWork s₀ s) : CallWork s₀ (releaseCircuit s c b o) := by
  simp (maxDischargeDepth := 9) [releaseCircuit, *]
@[simp] theorem callWork_seizeAt (n i : Nat) (h : CallWork s₀ s) : CallWork s₀ (seizeAt s n i) := by
  unfold seizeAt; split <;> simp (maxDischargeDepth := 9) [*]
@[simp] theorem callWork_clearActive (n : Nat) (h : CallWork s₀ s) : CallWork s₀ (clearActive s n) := by
  simp (maxDischargeDepth := 9) [clearActive, *]
@[simp] theorem callWork_giveUpCircuit (n : Nat) (b : Bool) (h : CallWork s₀ s) : CallWork s₀ (giveUpCircuit s n b) := by
  unfold giveUpCircuit; split <;> simp (maxDischargeDepth := 9) [*]
@[simp] theorem callWork_wantActive (n : Nat) (d : LinkState) (h : CallWork s₀ s) : CallWork s₀ (wantActive s n d) := by
  unfold wantActive; split <;> simp (maxDischargeDepth := 9) [*]
@[simp] theorem callWork_startSignal (n : Nat) (p : SignalPurpose) (k : Nat) (h : CallWork s₀ s) : CallWork s₀ (startSignal s n p k) := by
  simp (maxDischargeDepth := 9) [startSignal, *]
@[simp] theorem callWork_startState (n : Nat) (p : StatePurpose) (k : Nat) (h : CallWork s₀ s) : CallWork s₀ (startState s n p k) := by
  simp (maxDischargeDepth := 9) [startState, *]
@[simp] theorem callWork_stopSignal (n : Nat) (h : CallWork s₀ s) : CallWork s₀ (stopSignal s n) := by
  simp (maxDischargeDepth := 9) [stopSignal, *]
@[simp] theorem callWork_stopState (n : Nat) (h : CallWork s₀ s) : CallWork s₀ (stopState s n) := by
  simp (maxDischargeDepth := 9) [stopState, *]
@[simp] theorem callWork_stopTimers (n : Nat) (h : CallWork s₀ s) : CallWork s₀ (stopTimers s n) := by
  simp (maxDischargeDepth := 9) [stopTimers, *]

/-! ## Measurement -/

@[simp] theorem callWork_latchContext (n k : Nat) (r : Option Frame) (h : CallWork s₀ s) : CallWork s₀ (latchContext s n k r) := by
  simp (maxDischargeDepth := 9) [latchContext, *]
@[simp] theorem callWork_countAnswered (n : Nat) (h : CallWork s₀ s) : CallWork s₀ (countAnswered s n) := by
  simp (maxDischargeDepth := 9) [countAnswered, *]
@[simp] theorem callWork_countUnanswered (n : Nat) (h : CallWork s₀ s) : CallWork s₀ (countUnanswered s n) := by
  simp (maxDischargeDepth := 9) [countUnanswered, *]
@[simp] theorem callWork_countBarge (n : Nat) (h : CallWork s₀ s) : CallWork s₀ (countBarge s n) := by
  simp (maxDischargeDepth := 9) [countBarge, *]
@[simp] theorem callWork_endRinging (n : Nat) (h : CallWork s₀ s) : CallWork s₀ (endRinging s n) := by
  simp (maxDischargeDepth := 9) [endRinging, *]
@[simp] theorem callWork_openConnection (n : Nat) (h : CallWork s₀ s) : CallWork s₀ (openConnection s n) := by
  simp (maxDischargeDepth := 9) [openConnection, *]
@[simp] theorem callWork_switchSegment (n : Nat) (h : CallWork s₀ s) : CallWork s₀ (switchSegment s n) := by
  simp (maxDischargeDepth := 9) [switchSegment, *]
@[simp] theorem callWork_formUpdate (n : Nat) (ops : Table UpdOp) (h : CallWork s₀ s) : CallWork s₀ (formUpdate s n ops) := by
  unfold formUpdate; split <;> simp (maxDischargeDepth := 9) [*]
@[simp] theorem callWork_countRefusal (n : Nat) (h : CallWork s₀ s) : CallWork s₀ (countRefusal s n) := by
  unfold countRefusal; dsimp only; split <;> simp (maxDischargeDepth := 9) [*]
@[simp] theorem callWork_countRejectedRing (n : Nat) (h : CallWork s₀ s) : CallWork s₀ (countRejectedRing s n) := by
  unfold countRejectedRing; split <;> simp (maxDischargeDepth := 9) [*]
@[simp] theorem callWork_endMeasurement (n : Nat) (h : CallWork s₀ s) : CallWork s₀ (endMeasurement s n).1 := by
  unfold endMeasurement; dsimp only; (repeat' split) <;> simp (maxDischargeDepth := 9) [*]

/-! ## Lines -/

@[simp] theorem callWork_refreshDim (p : Nat) (h : CallWork s₀ s) : CallWork s₀ (refreshDim s p) := by
  simp (maxDischargeDepth := 9) [refreshDim, *]
@[simp] theorem callWork_postMirrors (before : State) (h : CallWork s₀ s) : CallWork s₀ (postMirrors before s) :=
  h.trans ⟨rfl, rfl, rfl, rfl, rfl, rfl, rfl, rfl, rfl, rfl,
    fun e => ⟨e, fun off ho => postMirrors_latestWord before s off fun hm => ho (isMirror_owned off hm)⟩, fun h => ⟨Nat.le_refl _, h⟩⟩
@[simp] theorem callWork_complete (before : State) (h : CallWork s₀ s) : CallWork s₀ (complete before s) := by
  refine callWork_postMirrors before ?_
  unfold completePorts; split
  · exact h
  · exact callWork_foldl _ _ (fun s a h => by simp [h]) (by simp [h])
@[simp] theorem callWork_changeState (n : Nat) (new : LineState) (c : StateCause) (h : CallWork s₀ s) : CallWork s₀ (changeState s n new c) := by
  unfold changeState; dsimp only; (repeat' split) <;> simp (maxDischargeDepth := 9) [*]
@[simp] theorem callWork_applyModes (n : Nat) (h : CallWork s₀ s) : CallWork s₀ (applyModes s n) := by
  unfold applyModes; dsimp only; (repeat' split) <;> simp (maxDischargeDepth := 9) [*]
@[simp] theorem callWork_becomeConnected (n : Nat) (c : StateCause) (h : CallWork s₀ s) : CallWork s₀ (becomeConnected s n c) := by
  simp (maxDischargeDepth := 9) [becomeConnected, *]
@[simp] theorem callWork_callEnd (n : Nat) (w : ReleaseCause) (h : CallWork s₀ s) : CallWork s₀ (callEnd s n w) := by
  simp (maxDischargeDepth := 9) [callEnd, *]
@[simp] theorem callWork_enterClearing (n : Nat) (w : ReleaseCause) (c : StateCause) (b : Bool) (h : CallWork s₀ s) : CallWork s₀ (enterClearing s n w c b) := by
  unfold enterClearing; split <;> simp (maxDischargeDepth := 9) [*]
@[simp] theorem callWork_releaseIfEmpty (n : Nat) (h : CallWork s₀ s) : CallWork s₀ (releaseIfEmpty s n) := by
  unfold releaseIfEmpty; dsimp only; (repeat' split) <;> simp (maxDischargeDepth := 9) [*]
@[simp] theorem callWork_hcDrop (p : Party) (n : Nat) (h : CallWork s₀ s) : CallWork s₀ (hcDrop s p n) := by
  simp (maxDischargeDepth := 9) [hcDrop, *]
@[simp] theorem callWork_removeParticipant (n : Nat) (p : Party) (h : CallWork s₀ s) : CallWork s₀ (removeParticipant s n p) := by
  simp (maxDischargeDepth := 9) [removeParticipant, *]
@[simp] theorem callWork_leaveLine (p : Party) (n : Nat) (h : CallWork s₀ s) : CallWork s₀ (leaveLine s p n) := by
  unfold leaveLine; split <;> simp (maxDischargeDepth := 9) [*]
@[simp] theorem callWork_setMode (n : Nat) (p : Party) (m : Mode) (h : CallWork s₀ s) : CallWork s₀ (setMode s n p m) := by
  simp (maxDischargeDepth := 9) [setMode, *]
@[simp] theorem callWork_dropAll (n : Nat) (h : CallWork s₀ s) : CallWork s₀ (dropAll s n) := by
  simp only [dropAll, modLine_eq, callWork_setLine]; exact callWork_foldl _ _ (fun s a h => by simp [h]) h
@[simp] theorem callWork_dropAllComplete (n : Nat) (h : CallWork s₀ s) : CallWork s₀ (dropAllComplete s n) := by
  simp (maxDischargeDepth := 9) [dropAllComplete, *]
@[simp] theorem callWork_recomputeReach (h : CallWork s₀ s) : CallWork s₀ (recomputeReach s) := by
  exact callWork_foldl _ _ (fun s a h => by simp [h]) h
@[simp] theorem callWork_dropIntercom (p : Party) (c : Nat) (h : CallWork s₀ s) : CallWork s₀ (dropIntercom s p c) := by
  simp (maxDischargeDepth := 9) [dropIntercom, *]
@[simp] theorem callWork_endIntercom (c : Nat) (w : IcmEnd) (h : CallWork s₀ s) : CallWork s₀ (endIntercom s c w) := by
  unfold endIntercom
  have k : CallWork s₀ (((s.call c).caller.toList ++ (s.call c).answerer.toList).foldl (fun s p => dropIntercom s p c) s) :=
    callWork_foldl _ _ (fun s a h => by simp [h]) h
  exact callWork_recomputeReach (callWork_issue _ ((callWork_setCall _ _).mpr k))
@[simp] theorem callWork_pushEntry (p : Party) (e : CurEntry) (h : CallWork s₀ s) : CallWork s₀ (pushEntry p s e) := by
  cases e <;> simp (maxDischargeDepth := 9) [pushEntry, h]
@[simp] theorem callWork_pushCurrent (p : Party) (h : CallWork s₀ s) : CallWork s₀ (pushCurrent s p) := by
  exact callWork_foldl _ _ (fun s a h => by simp [h]) h
@[simp] theorem callWork_setCurrent (p : Party) (e : CurEntry) (h : CallWork s₀ s) : CallWork s₀ (setCurrent s p e) := by
  simp (maxDischargeDepth := 9) [setCurrent, *]
@[simp] theorem callWork_seizeLine (n i : Nat) (c : StateCause) (h : CallWork s₀ s) : CallWork s₀ (seizeLine s n i c) := by
  simp (maxDischargeDepth := 9) [seizeLine, *]
@[simp] theorem callWork_seizeNailed (n : Nat) (f g : StateCause) (h : CallWork s₀ s) : CallWork s₀ (seizeNailed s n f g) := by
  unfold seizeNailed; split <;> simp (maxDischargeDepth := 9) [*]
@[simp] theorem callWork_forceRelease (n : Nat) (h : CallWork s₀ s) : CallWork s₀ (forceRelease s n) := by
  unfold forceRelease; dsimp only; split <;> simp (maxDischargeDepth := 9) [*]
@[simp] theorem callWork_pathLost (n f : Nat) (h : CallWork s₀ s) : CallWork s₀ (pathLost s n f) := by
  unfold pathLost; dsimp only; (repeat' split) <;> simp (maxDischargeDepth := 9) [*]
@[simp] theorem callWork_ringEnds (n : Nat) (w : ReleaseCause) (c : StateCause) (h : CallWork s₀ s) : CallWork s₀ (ringEnds s n w c) := by
  simp (maxDischargeDepth := 9) [ringEnds, *]
@[simp] theorem callWork_circuitFailed_failover (n f i : Nat) (h : CallWork s₀ s) : CallWork s₀ (circuitFailed.failover n f i s) := by
  unfold circuitFailed.failover; dsimp only; split <;> simp (maxDischargeDepth := 9) [*]
@[simp] theorem callWork_circuitFailed (n f i : Nat) (c : StateCause) (h : CallWork s₀ s) : CallWork s₀ (circuitFailed s n f i c) := by
  unfold circuitFailed; dsimp only; (repeat' split) <;> simp (maxDischargeDepth := 9) [*]
@[simp] theorem callWork_ownerLoses (c : Nat) (o : Option Nat) (w : StateCause) (h : CallWork s₀ s) : CallWork s₀ (ownerLoses s c o w) := by
  unfold ownerLoses; split <;> simp (maxDischargeDepth := 9) [*]
@[simp] theorem callWork_completeSwitch (n c : Nat) (h : CallWork s₀ s) : CallWork s₀ (completeSwitch s n c) := by
  simp (maxDischargeDepth := 9) [completeSwitch, *]

/-! ## Handsets -/

@[simp] theorem callWork_provideChannel (p : Party) (n : Nat) (h : CallWork s₀ s) : CallWork s₀ (provideChannel s p n) := by
  unfold provideChannel; split <;> simp (maxDischargeDepth := 9) [*]
@[simp] theorem callWork_joinParticipant (p : Party) (n : Nat) (h : CallWork s₀ s) : CallWork s₀ (joinParticipant s p n) := by
  unfold joinParticipant; dsimp only; split <;> simp (maxDischargeDepth := 9) [*]
@[simp] theorem callWork_answerRing (n : Nat) (h : CallWork s₀ s) : CallWork s₀ (answerRing s n) := by
  simp (maxDischargeDepth := 9) [answerRing, *]
@[simp] theorem callWork_takeLine (n : Nat) (h : CallWork s₀ s) : CallWork s₀ (takeLine s n) := by
  unfold takeLine; (repeat' split) <;> simp (maxDischargeDepth := 9) [*]
@[simp] theorem callWork_joinLine (p : Party) (n : Nat) (h : CallWork s₀ s) : CallWork s₀ (joinLine s p n) := by
  simp (maxDischargeDepth := 9) [joinLine, *]
@[simp] theorem callWork_retrieveEffects (p : Party) (n : Nat) (h : CallWork s₀ s) : CallWork s₀ (retrieveEffects s p n) := by
  simp (maxDischargeDepth := 9) [retrieveEffects, *]
@[simp] theorem callWork_retrieveLine (p : Party) (n : Nat) (h : CallWork s₀ s) : CallWork s₀ (retrieveLine s p n).1 := by
  unfold retrieveLine; dsimp only; (repeat' split) <;> simp (maxDischargeDepth := 9) [*]
@[simp] theorem callWork_selectLine (p : Party) (n : Nat) (h : CallWork s₀ s) : CallWork s₀ (selectLine s p n).1 := by
  unfold selectLine; dsimp only; (repeat' split) <;> simp (maxDischargeDepth := 9) [*]
@[simp] theorem callWork_releaseEntry (p : Party) (e : CurEntry) (h : CallWork s₀ s) : CallWork s₀ (releaseEntry p s e) := by
  cases e <;> simp (maxDischargeDepth := 9) [releaseEntry, h]
@[simp] theorem callWork_resumeTop (p : Party) (h : CallWork s₀ s) : CallWork s₀ (resumeTop s p) := by
  unfold resumeTop; split <;> simp (maxDischargeDepth := 9) [*]
@[simp] theorem callWork_releaseHandset (p : Party) (h : CallWork s₀ s) : CallWork s₀ (releaseHandset s p) :=
  callWork_complete _ (callWork_resumeTop _ (callWork_foldl _ _ (fun s a h => by simp [h]) h))
@[simp] theorem callWork_dropHandset (p : Party) (h : CallWork s₀ s) : CallWork s₀ (dropHandset s p) := by
  exact callWork_foldl _ _ (fun s a h => by simp [h]) h
@[simp] theorem callWork_endCallsWhere (f : IcmRec → Bool) (w : IcmEnd) (h : CallWork s₀ s) : CallWork s₀ (endCallsWhere s f w) := by
  exact callWork_foldl _ _ (fun s a h => by dsimp only; split <;> simp [h]) h
@[simp] theorem callWork_setPending (n : Nat) (b : Bool) (h : CallWork s₀ s) : CallWork s₀ (setPending s n b) := by
  simp (maxDischargeDepth := 9) [setPending, *]
@[simp] theorem callWork_changeEnabled (n : Nat) (a b : Bool) (h : CallWork s₀ s) : CallWork s₀ (changeEnabled s n a b) := by
  unfold changeEnabled; dsimp only; (repeat' split) <;> simp (maxDischargeDepth := 9) [*]
@[simp] theorem callWork_applyLine (n : Nat) (c : LineConfig) (h : CallWork s₀ s) : CallWork s₀ (applyLine s n c) := by
  unfold applyLine; dsimp only; (repeat' split) <;> simp (maxDischargeDepth := 9) [*]

/-! ## The link -/

@[simp] theorem callWork_putInUse (c : Nat) (h : CallWork s₀ s) : CallWork s₀ (putInUse s c) := by
  simp (maxDischargeDepth := 9) [putInUse, *]
@[simp] theorem callWork_acknowledge (n c : Nat) (h : CallWork s₀ s) : CallWork s₀ (acknowledge s n c) := by
  unfold acknowledge; dsimp only; split <;> simp (maxDischargeDepth := 9) [*]
@[simp] theorem callWork_farAnswered (n c : Nat) (h : CallWork s₀ s) : CallWork s₀ (farAnswered s n c) := by
  simp (maxDischargeDepth := 9) [farAnswered, *]
@[simp] theorem callWork_failoverTaken (n c : Nat) (h : CallWork s₀ s) : CallWork s₀ (failoverTaken s n c) := by
  simp (maxDischargeDepth := 9) [failoverTaken, *]
@[simp] theorem callWork_acceptRing (n c : Nat) (h : CallWork s₀ s) : CallWork s₀ (acceptRing s n c) := by
  simp (maxDischargeDepth := 9) [acceptRing, *]
@[simp] theorem callWork_rejectRing (c : Nat) (t : Option Nat) (h : CallWork s₀ s) : CallWork s₀ (rejectRing s c t) := by
  unfold rejectRing; split <;> simp (maxDischargeDepth := 9) [*]
@[simp] theorem callWork_freeRinging (c : Nat) (h : CallWork s₀ s) : CallWork s₀ (freeRinging s c) := by
  simp (maxDischargeDepth := 9) [freeRinging, *]
@[simp] theorem callWork_clearCall (n c : Nat) (l : LineRec) (h : CallWork s₀ s) : CallWork s₀ (clearCall s n c l) := by
  unfold clearCall; (repeat' split) <;> simp (maxDischargeDepth := 9) [*]
@[simp] theorem callWork_bringBack (n : Nat) (h : CallWork s₀ s) : CallWork s₀ (bringBack s n) := by
  unfold bringBack; split <;> simp (maxDischargeDepth := 9) [*]
@[simp] theorem callWork_bringBackAll (c : Nat) (h : CallWork s₀ s) : CallWork s₀ (bringBackAll s c) := by
  unfold bringBackAll; split
  · exact callWork_foldl _ _ (fun s a h => by simp [h]) h
  · exact h
@[simp] theorem callWork_startAckWait (c : Nat) (h : CallWork s₀ s) : CallWork s₀ (startAckWait s c) := by
  unfold startAckWait; split <;> simp (maxDischargeDepth := 9) [*]
@[simp] theorem callWork_cadence (n : Nat) (w : LinkState) (p : SignalPurpose) (k : Nat) (h : CallWork s₀ s) : CallWork s₀ (cadence s n w p k) := by
  simp (maxDischargeDepth := 9) [cadence, *]
@[simp] theorem callWork_ackWaitExpires (n : Nat) (h : CallWork s₀ s) : CallWork s₀ (ackWaitExpires s n) := by
  unfold ackWaitExpires; split <;> simp (maxDischargeDepth := 9) [*]
@[simp] theorem callWork_noAnswerExpires (n : Nat) (h : CallWork s₀ s) : CallWork s₀ (noAnswerExpires s n) := by
  simp (maxDischargeDepth := 9) [noAnswerExpires, *]
@[simp] theorem callWork_ringInExpires (n : Nat) (h : CallWork s₀ s) : CallWork s₀ (ringInExpires s n) := by
  simp (maxDischargeDepth := 9) [ringInExpires, *]
@[simp] theorem callWork_freeCircuit (n : Nat) (h : CallWork s₀ s) : CallWork s₀ (freeCircuit s n) := by
  unfold freeCircuit; split <;> simp (maxDischargeDepth := 9) [*]
@[simp] theorem callWork_guardExpires (n : Nat) (h : CallWork s₀ s) : CallWork s₀ (guardExpires s n) := by
  unfold guardExpires; dsimp only; (repeat' split) <;> simp (maxDischargeDepth := 9) [*]
@[simp] theorem callWork_burstExpires (n : Nat) (h : CallWork s₀ s) : CallWork s₀ (burstExpires s n) := by
  simp (maxDischargeDepth := 9) [burstExpires, *]

/-! ## Requests -/

@[simp] theorem callWork_ownSelect (ws : List Word) (h : CallWork s₀ s) : CallWork s₀ (ownSelect s ws).1 := by
  unfold ownSelect; dsimp only; (repeat' split) <;> simp (maxDischargeDepth := 9) [*]
@[simp] theorem callWork_ownAnswer (ws : List Word) (h : CallWork s₀ s) : CallWork s₀ (ownAnswer s ws).1 := by
  unfold ownAnswer; dsimp only; split <;> simp (maxDischargeDepth := 9) [*]
@[simp] theorem callWork_setPrivacy (p : Party) (n : Nat) (b : Bool) (h : CallWork s₀ s) : CallWork s₀ (setPrivacy s p n b).1 := by
  unfold setPrivacy; dsimp only; (repeat' split) <;> simp (maxDischargeDepth := 9) [*]
@[simp] theorem callWork_ownPrivacy (ws : List Word) (h : CallWork s₀ s) : CallWork s₀ (ownPrivacy s ws).1 := by
  unfold ownPrivacy; dsimp only; (repeat' split) <;> simp (maxDischargeDepth := 9) [*]
@[simp] theorem callWork_ownForceRelease (ws : List Word) (h : CallWork s₀ s) : CallWork s₀ (ownForceRelease s ws).1 := by
  unfold ownForceRelease; dsimp only; (repeat' split) <;> simp (maxDischargeDepth := 9) [*]
@[simp] theorem callWork_serviceOut (n : Nat) (h : CallWork s₀ s) : CallWork s₀ (serviceOut s n).1 := by
  unfold serviceOut; dsimp only; (repeat' split) <;> simp (maxDischargeDepth := 9) [*]
@[simp] theorem callWork_serviceIn (n : Nat) (h : CallWork s₀ s) : CallWork s₀ (serviceIn s n).1 := by
  unfold serviceIn; dsimp only; (repeat' split) <;> simp (maxDischargeDepth := 9) [*]
@[simp] theorem callWork_ownLineService (ws : List Word) (h : CallWork s₀ s) : CallWork s₀ (ownLineService s ws).1 := by
  unfold ownLineService; dsimp only; (repeat' split) <;> simp (maxDischargeDepth := 9) [*]
@[simp] theorem callWork_startBurst (n : Nat) (h : CallWork s₀ s) : CallWork s₀ (startBurst s n) := by
  simp (maxDischargeDepth := 9) [startBurst, *]
@[simp] theorem callWork_ownSignal (ws : List Word) (h : CallWork s₀ s) : CallWork s₀ (ownSignal s ws).1 := by
  unfold ownSignal; dsimp only; (repeat' split) <;> simp (maxDischargeDepth := 9) [*]
@[simp] theorem callWork_resetCircuit (c : Nat) (h : CallWork s₀ s) : CallWork s₀ (resetCircuit s c) := by
  simp (maxDischargeDepth := 9) [resetCircuit, *]
@[simp] theorem callWork_ownCircuitReset (ws : List Word) (h : CallWork s₀ s) : CallWork s₀ (ownCircuitReset s ws).1 := by
  unfold ownCircuitReset; dsimp only; (repeat' split) <;> simp (maxDischargeDepth := 9) [*]
@[simp] theorem callWork_ownRelease (ws : List Word) (h : CallWork s₀ s) : CallWork s₀ (ownRelease s ws).1 := by
  unfold ownRelease; dsimp only; split <;> simp (maxDischargeDepth := 9) [*]
@[simp] theorem callWork_ownHold (ws : List Word) (h : CallWork s₀ s) : CallWork s₀ (ownHold s ws).1 := by
  unfold ownHold; dsimp only; (repeat' split) <;> simp (maxDischargeDepth := 9) [*]
@[simp] theorem callWork_ownRetrieve (ws : List Word) (h : CallWork s₀ s) : CallWork s₀ (ownRetrieve s ws).1 := by
  unfold ownRetrieve; dsimp only; split <;> simp (maxDischargeDepth := 9) [*]
@[simp] theorem callWork_joinTop (p : Party) (n : Nat) (h : CallWork s₀ s) : CallWork s₀ (joinTop s p n) := by
  simp (maxDischargeDepth := 9) [joinTop, *]
@[simp] theorem callWork_ownJoin (ws : List Word) (h : CallWork s₀ s) : CallWork s₀ (ownJoin s ws).1 := by
  unfold ownJoin; dsimp only; (repeat' split) <;> simp (maxDischargeDepth := 9) [*]
@[simp] theorem callWork_placeCall (p : Party) (t : IcmTarget) (h : CallWork s₀ s) : CallWork s₀ (placeCall s p t) := by
  unfold placeCall; dsimp only; split <;> simp (maxDischargeDepth := 9) [*]
@[simp] theorem callWork_ownIntercomCall (ws : List Word) (h : CallWork s₀ s) : CallWork s₀ (ownIntercomCall s ws).1 := by
  unfold ownIntercomCall; dsimp only; (repeat' split) <;> simp (maxDischargeDepth := 9) [*]
@[simp] theorem callWork_answerCall (p : Party) (c : Nat) (h : CallWork s₀ s) : CallWork s₀ (answerCall s p c) := by
  simp (maxDischargeDepth := 9) [answerCall, *]
@[simp] theorem callWork_ownIntercomAnswer (ws : List Word) (h : CallWork s₀ s) : CallWork s₀ (ownIntercomAnswer s ws).1 := by
  unfold ownIntercomAnswer; dsimp only; (repeat' split) <;> simp (maxDischargeDepth := 9) [*]

end Sys2Proof.Machine
end

