-- ==== Sys2Proof/Laws/Circuits.lean ====
section
/-!
SUPPORT. What the operations on circuits do: the pending list (R34), desired states (R33), releases (R35) and seizures (R30).
-/

namespace Sys2Proof.Machine

/-- Listing a circuit changes the pending list alone (R34). -/
theorem relist_eq (s : State) (c : Nat) : ∃ l, relist s c = s.setPendingList l := by
  unfold relist
  dsimp only
  split
  · exact ⟨s.cc.pendingList, rfl⟩
  · split
    · exact ⟨_, rfl⟩
    · split
      · exact ⟨s.cc.pendingList, rfl⟩
      · exact ⟨_, rfl⟩

/-- A change of desired state changes that and the pending list alone (R33, R34). -/
theorem setDesired_eq (s : State) (c : Nat) (d : LinkState) :
    ∃ l, setDesired s c d = (modCircuit s c fun r => { r with desired := d }).setPendingList l := relist_eq _ _

theorem wantActive_eq (s : State) (n c : Nat) (d : LinkState) (h : (s.line n).active = some c) :
    ∃ l, wantActive s n d = (modCircuit s c fun r => { r with desired := d }).setPendingList l := by
  rw [wantActive, h]
  exact setDesired_eq s c d

/-- A release ends in IDLE or UNINSTALLED at once, or not at all (R35). -/
theorem finishRelease_eq (s : State) (c : Nat) : finishRelease s c = s ∨ finishRelease s c = enterIdle s c := by
  unfold finishRelease
  dsimp only
  split
  · exact .inr rfl
  · exact .inl rfl

/-- A circuit with an owner stays RELEASING until its owner lets it go (R35). -/
theorem finishRelease_owned (s : State) (c n : Nat) (h : (s.circuit c).owner = some n) : finishRelease s c = s := by
  simp [finishRelease, h]

/-- A release for an owner: the circuit's record, and the pending list (R35). -/
theorem releaseCircuit_owned (s : State) (c n : Nat) (byFarClear : Bool) :
    ∃ l, releaseCircuit s c byFarClear (some n) = (modCircuit s c fun r =>
      { r with
        lastSent := if r.farHeld && !byFarClear then .seized else r.lastSent, desired := .idle, farHeld := false, state := .releasing
        owner := some n }).setPendingList l := by
  unfold releaseCircuit
  dsimp only
  obtain ⟨l, hl⟩ := relist_eq (modCircuit s c fun r =>
    { r with
      lastSent := if r.farHeld && !byFarClear then .seized else r.lastSent, desired := .idle, farHeld := false, state := .releasing
      owner := some n }) c
  refine ⟨l, ?_⟩
  rw [hl, finishRelease_owned _ c n (by simp)]

/-- A release without owner: the same, and perhaps the circuit is free at once (R35). -/
theorem releaseCircuit_unowned (s : State) (c : Nat) (byFarClear : Bool) :
    ∃ l, let u := (modCircuit s c fun r =>
      { r with
        lastSent := if r.farHeld && !byFarClear then .seized else r.lastSent, desired := .idle, farHeld := false, state := .releasing
        owner := none }).setPendingList l
    releaseCircuit s c byFarClear none = u ∨ releaseCircuit s c byFarClear none = enterIdle u c := by
  unfold releaseCircuit
  dsimp only
  obtain ⟨l, hl⟩ := relist_eq (modCircuit s c fun r =>
    { r with
      lastSent := if r.farHeld && !byFarClear then .seized else r.lastSent, desired := .idle, farHeld := false, state := .releasing
      owner := none }) c
  refine ⟨l, ?_⟩
  rw [hl]
  exact finishRelease_eq _ c

/-- A seizure: steps 1 and 2 of R30. -/
theorem seizeAt_eq (s : State) (n i c : Nat) (h : (s.line n).eff.path[i]? = some c) :
    ∃ l, seizeAt s n i =
      modLine (modPath ((modCircuit (modCircuit s c fun r => { r with owner := some n, state := .seizing }) c
        fun r => { r with desired := .seized }).setPendingList l) n fun p => { p with lastUsed := i }) n
        fun l => { l with active := some c } := by
  unfold seizeAt
  rw [h]
  dsimp only
  obtain ⟨l, hl⟩ := setDesired_eq (modCircuit s c fun r => { r with owner := some n, state := .seizing }) c .seized
  exact ⟨l, by rw [hl]⟩

/-- The position found is among those offered, and selectable (R30, R31). -/
theorem firstSelectable_some {s : State} {n i : Nat} {is : List Nat} (h : firstSelectable s n is = some i) :
    i ∈ is ∧ selectable s n i = true :=
  ⟨List.mem_of_find?_eq_some h, List.find?_some h⟩

/-- A selectable position names an IDLE circuit, and all three masks have its bit (R29, R30). -/
theorem selectable_circuit {s : State} {n i : Nat} (h : selectable s n i = true) :
    (∃ c, (s.line n).eff.path[i]? = some c ∧ (s.circuit c).state = .idle) ∧ (s.path n).installed.getLsbD i = true ∧
    (s.path n).available.getLsbD i = true ∧ (s.path n).operational.getLsbD i = true := by
  unfold selectable at h
  simp only [Bool.and_eq_true] at h
  obtain ⟨⟨⟨h1, h2⟩, h3⟩, h4⟩ := h
  refine ⟨?_, h1, h2, h3⟩
  split at h4
  · next c hc => exact ⟨c, hc, of_decide_eq_true h4⟩
  · exact absurd h4 (by simp)

end Sys2Proof.Machine
end

