-- ==== Sys2Proof/Laws/Kept.lean ====
section
/-!
SUPPORT. What no operation of the part's own blocks changes: the SRAM, the command queue, the frame count, the held accesses; and the
invariants that each keeps.
-/

namespace Sys2Proof.Machine

/-- What stands between two states of one command, up to the end of its own effects: the SRAM and everything outside the part as before,
and the invariants of Safety.lean carried over. -/
structure Kept (s t : State) : Prop where
  mem      : t.mem = s.mem
  pending  : t.pending = s.pending
  frame    : t.frame = s.frame
  base     : t.bi.base = s.bi.base
  held     : t.bi.held = s.bi.held
  readData : t.bi.readData = s.bi.readData
  queue    : QueueOk s.bi → QueueOk t.bi
  index    : IndexOk s → IndexOk t
  faults   : FaultLogOk s → FaultLogOk t

theorem Kept.rfl' (s : State) : Kept s s := ⟨rfl, rfl, rfl, rfl, rfl, rfl, id, id, id⟩

theorem Kept.trans {a b c : State} (h : Kept a b) (k : Kept b c) : Kept a c :=
  ⟨k.mem.trans h.mem, k.pending.trans h.pending, k.frame.trans h.frame, k.base.trans h.base, k.held.trans h.held,
    k.readData.trans h.readData, k.queue ∘ h.queue, k.index ∘ h.index, k.faults ∘ h.faults⟩

/-- The pieces of State that `Kept` looks at. -/
def core (s : State) : (List Host.Cell × List Instr × Frame) × (BI × EU) × (Nat × Nat) × PartState × Bool × Bool :=
  ((s.mem, s.pending, s.frame), (s.bi, s.eu), (s.re.head, s.re.tail), s.su.part, s.su.restartMark, s.su.draining)

theorem Kept.of_core {s t : State} (h : core t = core s) : Kept s t := by
  simp only [core, Prod.mk.injEq] at h
  obtain ⟨⟨h1, h2, h3⟩, ⟨h4, h5⟩, ⟨h6, h7⟩, h8, h9, h10⟩ := h
  refine ⟨h1, h2, h3, by rw [h4], by rw [h4], by rw [h4], fun k => by rw [h4]; exact k, fun k => ?_, fun k => ?_⟩
  · exact ⟨h5 ▸ k.evtHead, h5 ▸ k.evtRead, h5 ▸ k.fltHead, h5 ▸ k.fltRead, h5 ▸ k.lost, h5 ▸ k.unlogged, h6 ▸ k.reqHead, h7 ▸ k.reqTail⟩
  · exact ⟨h5 ▸ k.unread, by rw [h5, h8, h9]; exact k.first, by rw [h9, h10]; exact k.drain⟩

theorem kept_congr {s₀ s t : State} (h : core t = core s) : Kept s₀ t ↔ Kept s₀ s :=
  ⟨fun k => k.trans (.of_core h.symm), fun k => k.trans (.of_core h)⟩

theorem kept_foldl {α : Type} {s₀ s : State} (f : State → α → State) (l : List α)
    (hf : ∀ s a, Kept s₀ s → Kept s₀ (f s a)) (h : Kept s₀ s) : Kept s₀ (l.foldl f s) := by
  induction l generalizing s with
  | nil => exact h
  | cons a l ih => exact ih (hf s a h)

variable {s₀ s : State}

/-! ## Updates of records -/

@[simp] theorem kept_setLine (n : Nat) (r : LineRec) : Kept s₀ (s.setLine n r) ↔ Kept s₀ s := kept_congr rfl
@[simp] theorem kept_setKeyVal (n : Nat) (r : KeyVal) : Kept s₀ (s.setKeyVal n r) ↔ Kept s₀ s := kept_congr rfl
@[simp] theorem kept_setAppEntries (n : Nat) (r : List AppEntry) : Kept s₀ (s.setAppEntries n r) ↔ Kept s₀ s := kept_congr rfl
@[simp] theorem kept_setAlertList (n : Nat) (r : List Nat) : Kept s₀ (s.setAlertList n r) ↔ Kept s₀ s := kept_congr rfl
@[simp] theorem kept_setCircuit (n : Nat) (r : CircuitRec) : Kept s₀ (s.setCircuit n r) ↔ Kept s₀ s := kept_congr rfl
@[simp] theorem kept_setPath (n : Nat) (r : PathRec) : Kept s₀ (s.setPath n r) ↔ Kept s₀ s := kept_congr rfl
@[simp] theorem kept_setPendingList (r : List Nat) : Kept s₀ (s.setPendingList r) ↔ Kept s₀ s := kept_congr rfl
@[simp] theorem kept_setSending (r : Option Sending) : Kept s₀ (s.setSending r) ↔ Kept s₀ s := kept_congr rfl
@[simp] theorem kept_setHandset (n : Party) (r : HandsetRec) : Kept s₀ (s.setHandset n r) ↔ Kept s₀ s := kept_congr rfl
@[simp] theorem kept_setCall (n : Nat) (r : IcmRec) : Kept s₀ (s.setCall n r) ↔ Kept s₀ s := kept_congr rfl
@[simp] theorem kept_setPosition (n : Nat) (r : PosRec) : Kept s₀ (s.setPosition n r) ↔ Kept s₀ s := kept_congr rfl
@[simp] theorem kept_setSpeaker (n : Nat) (r : SpeakerRec) : Kept s₀ (s.setSpeaker n r) ↔ Kept s₀ s := kept_congr rfl
@[simp] theorem kept_setBridge (n : Nat) (r : BridgeRec) : Kept s₀ (s.setBridge n r) ↔ Kept s₀ s := kept_congr rfl
@[simp] theorem kept_setChannel (n : Nat) (r : ChannelRec) : Kept s₀ (s.setChannel n r) ↔ Kept s₀ s := kept_congr rfl
@[simp] theorem kept_setPort (n : Nat) (r : PortRec) : Kept s₀ (s.setPort n r) ↔ Kept s₀ s := kept_congr rfl
@[simp] theorem kept_setFreeList (r : List Nat) : Kept s₀ (s.setFreeList r) ↔ Kept s₀ s := kept_congr rfl
@[simp] theorem kept_setWaitQueue (r : List Nat) : Kept s₀ (s.setWaitQueue r) ↔ Kept s₀ s := kept_congr rfl
@[simp] theorem kept_setOrder (r : List Nat) : Kept s₀ (s.setOrder r) ↔ Kept s₀ s := kept_congr rfl
@[simp] theorem kept_setContext (n : Nat) (r : Option MeasContext) : Kept s₀ (s.setContext n r) ↔ Kept s₀ s := kept_congr rfl
@[simp] theorem kept_setUpdates (r : List UpdateRec) : Kept s₀ (s.setUpdates r) ↔ Kept s₀ s := kept_congr rfl
@[simp] theorem kept_setInProgress (r : Option Updating) : Kept s₀ (s.setInProgress r) ↔ Kept s₀ s := kept_congr rfl
@[simp] theorem kept_setTake (r : Take) : Kept s₀ (s.setTake r) ↔ Kept s₀ s := kept_congr rfl
@[simp] theorem kept_setLoad (r : Option LoadStep) : Kept s₀ (s.setLoad r) ↔ Kept s₀ s := kept_congr rfl

/-! ## Shared operations -/

@[simp] theorem kept_postAll (ws : List (Nat × Word)) (h : Kept s₀ s) : Kept s₀ (postAll s ws) :=
  h.trans ⟨rfl, rfl, rfl, rfl, rfl, rfl, fun k => postAll_ok s ws k.size, fun k => ⟨k.1, k.2, k.3, k.4, k.5, k.6, k.7, k.8⟩,
    fun k => ⟨k.1, k.2, k.3⟩⟩

@[simp] theorem kept_postMirrors (before : State) (h : Kept s₀ s) : Kept s₀ (postMirrors before s) := kept_postAll _ h

@[simp] theorem kept_issue (e : Event) (h : Kept s₀ s) : Kept s₀ (issue s e) := by
  refine h.trans ⟨by simp, by simp, by simp, by simp, by simp, by simp, fun k => ?_, fun k => ?_, fun k => ?_⟩
  · unfold issue
    dsimp only
    split
    · exact postAll_ok _ _ k.size
    · exact k
  · refine ⟨?_, by simpa using k.evtRead, by simpa using k.fltHead, by simpa using k.fltRead, ?_, by simpa using k.unlogged,
      by simpa using k.reqHead, by simpa using k.reqTail⟩
    · unfold issue
      dsimp only
      split
      · simp only [postAll_eu]; omega
      · exact k.evtHead
    · unfold issue
      dsimp only
      split
      · exact k.lost
      · exact Nat.min_le_right _ _
  · refine ⟨?_, by simpa using k.first, by simpa using k.drain⟩
    simpa [EU.unreadFaults] using k.unread

@[simp] theorem kept_recorderOccurrence (h : Kept s₀ s) : Kept s₀ (recorderOccurrence s) :=
  h.trans ⟨rfl, rfl, rfl, rfl, rfl, rfl, id, fun k => ⟨k.1, k.2, k.3, k.4, k.5, k.6, k.7, k.8⟩, fun k => ⟨k.1, k.2, k.3⟩⟩

/-- A fault that has room in the log (R165). -/
theorem kept_logFault (f : FaultReport) (d : Bool) (hroom : s.eu.unreadFaults ≤ 15) (h : Kept s₀ s) : Kept s₀ (logFault s f d) := by
  unfold logFault
  refine kept_issue _ (h.trans ⟨by simp, by simp, by simp, by simp, by simp, by simp, fun k => postAll_ok _ _ k.size, fun k => ?_, fun k => ?_⟩)
  · exact ⟨k.1, k.2, by simp only; omega, k.4, k.5, k.6, k.7, k.8⟩
  · refine ⟨?_, k.2, k.3⟩
    simp only [EU.unreadFaults, postAll_eu] at *
    omega

theorem kept_enterLockdown (c : FaultCode) (h : Kept s₀ s) : Kept s₀ (enterLockdown s c) := by
  unfold enterLockdown
  refine kept_issue _ (h.trans ⟨rfl, rfl, rfl, rfl, rfl, rfl, id, fun k => ⟨k.1, k.2, k.3, k.4, k.5, ?_, k.7, k.8⟩, fun k => ?_⟩)
  · exact (by decide : 1 ≤ 65535)
  · exact ⟨k.1, by simp, k.3⟩

@[simp] theorem kept_raiseFault (f : FaultReport) (h : Kept s₀ s) : Kept s₀ (raiseFault s f) := by
  unfold raiseFault
  split
  · refine h.trans ⟨rfl, rfl, rfl, rfl, rfl, rfl, id, fun k => ⟨k.1, k.2, k.3, k.4, k.5, Nat.min_le_right _ _, k.7, k.8⟩, fun k => ⟨k.1, k.2, k.3⟩⟩
  · split
    · exact kept_logFault f _ (by omega) h
    · split
      · exact kept_logFault f _ (by omega) h
      · exact kept_enterLockdown _ h

@[simp] theorem kept_rejectEntry (w : Rejected) (h : Kept s₀ s) : Kept s₀ (rejectEntry s w) := by
  unfold rejectEntry
  dsimp only
  split
  · refine (kept_congr (s := issue s (.configReject w)) ?_).mpr (kept_issue _ h)
    rfl
  · exact kept_issue _ h

@[simp] theorem kept_modContext (n : Nat) (f : MeasContext → MeasContext) (h : Kept s₀ s) : Kept s₀ (modContext s n f) := by
  unfold modContext; split <;> simp (maxDischargeDepth := 9) [*]

/-! ## Request Engine -/

@[simp] theorem kept_beginTake (h : Kept s₀ s) : Kept s₀ (beginTake s) := by
  unfold beginTake; (repeat' split) <;> simp (maxDischargeDepth := 9) [*]
@[simp] theorem kept_fetchIfIdle (h : Kept s₀ s) : Kept s₀ (fetchIfIdle s) := by
  unfold fetchIfIdle; split <;> simp (maxDischargeDepth := 9) [*]
@[simp] theorem kept_lookAgain (h : Kept s₀ s) : Kept s₀ (lookAgain s) := by unfold lookAgain; split <;> simp (maxDischargeDepth := 9) [*]
@[simp] theorem kept_fetchWord (h : Kept s₀ s) : Kept s₀ (fetchWord s) := by
  unfold fetchWord; (repeat' split) <;> simp (maxDischargeDepth := 9) [*]

/-- REQ_DONE and the advance of the head (R151). -/
@[simp] theorem kept_completeRequest (ws : List Word) (r : Result) (d : Word × Word) (h : Kept s₀ s) :
    Kept s₀ (completeRequest s ws r d) := by
  unfold completeRequest
  have k := kept_issue (.reqDone s.re.head (wordOf ws 0) r d.1 d.2) h
  refine k.trans ⟨rfl, rfl, rfl, rfl, rfl, rfl, id, fun k => ⟨k.1, k.2, k.3, k.4, k.5, k.6, by simp only; omega, k.8⟩, fun k => ⟨k.1, k.2, k.3⟩⟩

theorem kept_takeRequest (code : Nat) (names : Names) (own : State → List Word → State × Result) (detail : State → Word × Word)
    (hown : ∀ ws, Kept s₀ (own s ws).1) (h : Kept s₀ s) : Kept s₀ (takeRequest s code names own detail) := by
  unfold takeRequest
  dsimp only
  (repeat' split) <;> simp [*]

/-! ## Appearances and alerts -/

@[simp] theorem kept_addAlert (p n : Nat) (h : Kept s₀ s) : Kept s₀ (addAlert s p n) := by
  unfold addAlert; dsimp only; split <;> simp (maxDischargeDepth := 9) [*]
@[simp] theorem kept_backfill (p : Nat) (l : Option Nat) (h : Kept s₀ s) : Kept s₀ (backfill s p l) := by
  unfold backfill; split <;> simp (maxDischargeDepth := 9) [*]
@[simp] theorem kept_removeAlert (p n : Nat) (l : Option Nat) (h : Kept s₀ s) : Kept s₀ (removeAlert s p n l) := by
  unfold removeAlert; split <;> simp (maxDischargeDepth := 9) [*]
@[simp] theorem kept_leaveAlerts (n : Nat) (h : Kept s₀ s) : Kept s₀ (leaveAlerts s n) := by
  exact kept_foldl _ _ (fun s a h => by simp [h]) h
@[simp] theorem kept_enterAlerts (n : Nat) (h : Kept s₀ s) : Kept s₀ (enterAlerts s n) := by
  exact kept_foldl _ _ (fun s a h => by split <;> simp [h]) h
@[simp] theorem kept_fillAlerts (p : Nat) (h : Kept s₀ s) : Kept s₀ (fillAlerts s p) := by exact kept_foldl _ _ (fun s a h => by simp [h]) h
@[simp] theorem kept_indexLoses (n p : Nat) (h : Kept s₀ s) : Kept s₀ (indexLoses s n p) := by simp (maxDischargeDepth := 9) [indexLoses, *]
@[simp] theorem kept_indexGains (n p : Nat) (h : Kept s₀ s) : Kept s₀ (indexGains s n p) := by simp (maxDischargeDepth := 9) [indexGains, *]
@[simp] theorem kept_indexKey (p k : Nat) (v : KeyVal) (h : Kept s₀ s) : Kept s₀ (indexKey s p k v) := by
  unfold indexKey; dsimp only; (repeat' split) <;> simp (maxDischargeDepth := 9) [*]
theorem kept_followAudible (before : State) (p n : Nat) (h : Kept s₀ s) : Kept s₀ (followAudible before p s n) := by
  unfold followAudible; (repeat' split) <;> simp [*]
@[simp] theorem kept_applyKey (p k : Nat) (v : KeyVal) (h : Kept s₀ s) : Kept s₀ (applyKey s p k v) := by
  exact kept_foldl _ _ (fun t n h => kept_followAudible _ p n h) (by simp [h])

/-! ## Circuits -/

@[simp] theorem kept_enterIdle (c : Nat) (h : Kept s₀ s) : Kept s₀ (enterIdle s c) := by simp (maxDischargeDepth := 9) [enterIdle, *]
@[simp] theorem kept_renameCircuit (c : Nat) (h : Kept s₀ s) : Kept s₀ (renameCircuit s c) := by
  unfold renameCircuit; split <;> simp (maxDischargeDepth := 9) [*]
@[simp] theorem kept_renameCircuits (cs : List Nat) (h : Kept s₀ s) : Kept s₀ (renameCircuits s cs) := by
  exact kept_foldl _ _ (fun s a h => by simp [h]) h
@[simp] theorem kept_refreshMasks (n : Nat) (a b : List Nat) (h : Kept s₀ s) : Kept s₀ (refreshMasks s n a b) := by
  simp (maxDischargeDepth := 9) [refreshMasks, *]
theorem kept_forNaming (c : Nat) (f : State → Nat → Nat → State) (hf : ∀ s n i, Kept s₀ s → Kept s₀ (f s n i)) (h : Kept s₀ s) :
    Kept s₀ (forNaming s c f) :=
  kept_foldl _ _ (fun s a h => by split <;> simp [h, hf]) h

@[simp] theorem kept_setAvailable (c : Nat) (b : Bool) (h : Kept s₀ s) : Kept s₀ (setAvailable s c b) := by
  exact kept_forNaming _ _ (fun s n i h => by simp [h]) h
@[simp] theorem kept_setOperational (c : Nat) (h : Kept s₀ s) : Kept s₀ (setOperational s c) := by
  exact kept_forNaming _ _ (fun s n i h => by simp [h]) h
@[simp] theorem kept_takeCallCopy (n : Nat) (h : Kept s₀ s) : Kept s₀ (takeCallCopy s n) := by
  simp (maxDischargeDepth := 9) [takeCallCopy, *]
@[simp] theorem kept_dropCallCopy (n : Nat) (h : Kept s₀ s) : Kept s₀ (dropCallCopy s n) := by
  unfold dropCallCopy; split <;> simp (maxDischargeDepth := 9) [*]
@[simp] theorem kept_relist (c : Nat) (h : Kept s₀ s) : Kept s₀ (relist s c) := by
  unfold relist; dsimp only; (repeat' split) <;> simp (maxDischargeDepth := 9) [*]
@[simp] theorem kept_setDesired (c : Nat) (d : LinkState) (h : Kept s₀ s) : Kept s₀ (setDesired s c d) := by
  simp (maxDischargeDepth := 9) [setDesired, *]
@[simp] theorem kept_startSending (h : Kept s₀ s) : Kept s₀ (startSending s) := by
  unfold startSending; dsimp only; (repeat' split) <;> simp (maxDischargeDepth := 9) [*]
@[simp] theorem kept_finishRelease (c : Nat) (h : Kept s₀ s) : Kept s₀ (finishRelease s c) := by
  unfold finishRelease; dsimp only; split <;> simp (maxDischargeDepth := 9) [*]
@[simp] theorem kept_releaseCircuit (c : Nat) (b : Bool) (o : Option Nat) (h : Kept s₀ s) : Kept s₀ (releaseCircuit s c b o) := by
  simp (maxDischargeDepth := 9) [releaseCircuit, *]
@[simp] theorem kept_seizeAt (n i : Nat) (h : Kept s₀ s) : Kept s₀ (seizeAt s n i) := by
  unfold seizeAt; split <;> simp (maxDischargeDepth := 9) [*]
@[simp] theorem kept_clearActive (n : Nat) (h : Kept s₀ s) : Kept s₀ (clearActive s n) := by simp (maxDischargeDepth := 9) [clearActive, *]
@[simp] theorem kept_giveUpCircuit (n : Nat) (b : Bool) (h : Kept s₀ s) : Kept s₀ (giveUpCircuit s n b) := by
  unfold giveUpCircuit; split <;> simp (maxDischargeDepth := 9) [*]
@[simp] theorem kept_wantActive (n : Nat) (d : LinkState) (h : Kept s₀ s) : Kept s₀ (wantActive s n d) := by
  unfold wantActive; split <;> simp (maxDischargeDepth := 9) [*]
@[simp] theorem kept_startSignal (n : Nat) (p : SignalPurpose) (k : Nat) (h : Kept s₀ s) : Kept s₀ (startSignal s n p k) := by
  simp (maxDischargeDepth := 9) [startSignal, *]
@[simp] theorem kept_startState (n : Nat) (p : StatePurpose) (k : Nat) (h : Kept s₀ s) : Kept s₀ (startState s n p k) := by
  simp (maxDischargeDepth := 9) [startState, *]
@[simp] theorem kept_stopSignal (n : Nat) (h : Kept s₀ s) : Kept s₀ (stopSignal s n) := by simp (maxDischargeDepth := 9) [stopSignal, *]
@[simp] theorem kept_stopState (n : Nat) (h : Kept s₀ s) : Kept s₀ (stopState s n) := by simp (maxDischargeDepth := 9) [stopState, *]
@[simp] theorem kept_stopTimers (n : Nat) (h : Kept s₀ s) : Kept s₀ (stopTimers s n) := by simp (maxDischargeDepth := 9) [stopTimers, *]

/-! ## Measurement -/

@[simp] theorem kept_latchContext (n k : Nat) (r : Option Frame) (h : Kept s₀ s) : Kept s₀ (latchContext s n k r) := by
  simp (maxDischargeDepth := 9) [latchContext, *]
@[simp] theorem kept_countAnswered (n : Nat) (h : Kept s₀ s) : Kept s₀ (countAnswered s n) := by
  simp (maxDischargeDepth := 9) [countAnswered, *]
@[simp] theorem kept_countUnanswered (n : Nat) (h : Kept s₀ s) : Kept s₀ (countUnanswered s n) := by
  simp (maxDischargeDepth := 9) [countUnanswered, *]
@[simp] theorem kept_countBarge (n : Nat) (h : Kept s₀ s) : Kept s₀ (countBarge s n) := by simp (maxDischargeDepth := 9) [countBarge, *]
@[simp] theorem kept_endRinging (n : Nat) (h : Kept s₀ s) : Kept s₀ (endRinging s n) := by simp (maxDischargeDepth := 9) [endRinging, *]
@[simp] theorem kept_openConnection (n : Nat) (h : Kept s₀ s) : Kept s₀ (openConnection s n) := by
  simp (maxDischargeDepth := 9) [openConnection, *]
@[simp] theorem kept_switchSegment (n : Nat) (h : Kept s₀ s) : Kept s₀ (switchSegment s n) := by
  simp (maxDischargeDepth := 9) [switchSegment, *]
@[simp] theorem kept_formUpdate (n : Nat) (ops : Table UpdOp) (h : Kept s₀ s) : Kept s₀ (formUpdate s n ops) := by
  unfold formUpdate; split <;> simp (maxDischargeDepth := 9) [*]
@[simp] theorem kept_countRefusal (n : Nat) (h : Kept s₀ s) : Kept s₀ (countRefusal s n) := by
  unfold countRefusal; dsimp only; split <;> simp (maxDischargeDepth := 9) [*]
@[simp] theorem kept_countRejectedRing (n : Nat) (h : Kept s₀ s) : Kept s₀ (countRejectedRing s n) := by
  unfold countRejectedRing; split <;> simp (maxDischargeDepth := 9) [*]
@[simp] theorem kept_endMeasurement (n : Nat) (h : Kept s₀ s) : Kept s₀ (endMeasurement s n).1 := by
  unfold endMeasurement; dsimp only; (repeat' split) <;> simp (maxDischargeDepth := 9) [*]
@[simp] theorem kept_followUnrecorded (n : Nat) (h : Kept s₀ s) : Kept s₀ (followUnrecorded s n) := by
  simp (maxDischargeDepth := 9) [followUnrecorded, *]
@[simp] theorem kept_followAllUnrecorded (h : Kept s₀ s) : Kept s₀ (followAllUnrecorded s) := by
  exact kept_foldl _ _ (fun s a h => by simp [h]) h

@[simp] theorem kept_endUpdateIfDone (h : Kept s₀ s) : Kept s₀ (endUpdateIfDone s) := by
  unfold endUpdateIfDone
  (repeat' split) <;> try exact h
  exact h.trans ⟨rfl, rfl, rfl, rfl, rfl, rfl, fun k => ⟨k.1, k.2, k.3, k.4⟩, fun k => ⟨k.1, k.2, k.3, k.4, k.5, k.6, k.7, k.8⟩, fun k => ⟨k.1, k.2, k.3⟩⟩

/-! ## Recording -/

@[simp] theorem kept_enterClass (q : Nat) (l : Level) (h : Kept s₀ s) : Kept s₀ (enterClass s q l) := by
  unfold enterClass; split <;> simp (maxDischargeDepth := 9) [*]
@[simp] theorem kept_leaveQueue (q : Nat) (h : Kept s₀ s) : Kept s₀ (leaveQueue s q) := by simp (maxDischargeDepth := 9) [leaveQueue, *]
@[simp] theorem kept_markUnrecorded (q : Nat) (h : Kept s₀ s) : Kept s₀ (markUnrecorded s q) := by
  unfold markUnrecorded; split <;> simp (maxDischargeDepth := 9) [*]
@[simp] theorem kept_clearUnrecorded (q : Nat) (c : Option Nat) (h : Kept s₀ s) : Kept s₀ (clearUnrecorded s q c) := by
  unfold clearUnrecorded; split <;> simp (maxDischargeDepth := 9) [*]
@[simp] theorem kept_assignChannel (ch q : Nat) (p : Option Nat) (l : Bool) (h : Kept s₀ s) : Kept s₀ (assignChannel s ch q p l) := by
  simp (maxDischargeDepth := 9) [assignChannel, *]
@[simp] theorem kept_giveFree (q : Nat) (h : Kept s₀ s) : Kept s₀ (giveFree s q) := by
  unfold giveFree; split <;> simp (maxDischargeDepth := 9) [*]
@[simp] theorem kept_preempt (q v : Nat) (h : Kept s₀ s) : Kept s₀ (preempt s q v) := by
  unfold preempt; split <;> simp (maxDischargeDepth := 9) [*]
@[simp] theorem kept_obtainChannel (q : Nat) (h : Kept s₀ s) : Kept s₀ (obtainChannel s q) := by
  unfold obtainChannel; (repeat' split) <;> simp (maxDischargeDepth := 9) [*]
@[simp] theorem kept_releaseChannel (q : Nat) (h : Kept s₀ s) : Kept s₀ (releaseChannel s q) := by
  unfold releaseChannel; split <;> simp (maxDischargeDepth := 9) [*]
@[simp] theorem kept_passFall (e : Nat × Level) (h : Kept s₀ s) : Kept s₀ (passFall s e) := by
  unfold passFall; split <;> simp (maxDischargeDepth := 9) [*]
@[simp] theorem kept_passClass (e : Nat × Level) (h : Kept s₀ s) : Kept s₀ (passClass s e) := by
  unfold passClass; dsimp only; (repeat' split) <;> simp (maxDischargeDepth := 9) [*]
@[simp] theorem kept_passRise (e : Nat × Level) (h : Kept s₀ s) : Kept s₀ (passRise s e) := by
  unfold passRise; dsimp only; (repeat' split) <;> simp (maxDischargeDepth := 9) [*]
theorem kept_passServe (k : Nat) (h : Kept s₀ s) : Kept s₀ (passServe k s) := by
  induction k generalizing s with
  | zero => exact h
  | succ k ih => unfold passServe; split <;> simp [*]
@[simp] theorem kept_passPreempt (q : Nat) (h : Kept s₀ s) : Kept s₀ (passPreempt s q) := by
  unfold passPreempt; (repeat' split) <;> simp (maxDischargeDepth := 9) [*]
@[simp] theorem kept_recomputePorts (l : List Nat) (h : Kept s₀ s) : Kept s₀ (recomputePorts s l) := by
  unfold recomputePorts
  refine kept_foldl _ _ (fun s a h => by simp [h]) (kept_passServe _ ?_)
  refine kept_foldl _ _ (fun s a h => by simp [h]) ?_
  refine kept_foldl _ _ (fun s a h => by simp [h]) ?_
  exact kept_foldl _ _ (fun s a h => by simp [h]) h
@[simp] theorem kept_disableChannel (ch : Nat) (h : Kept s₀ s) : Kept s₀ (disableChannel s ch) := by
  unfold disableChannel; dsimp only; split <;> simp (maxDischargeDepth := 9) [*]
@[simp] theorem kept_enableChannel (ch : Nat) (h : Kept s₀ s) : Kept s₀ (enableChannel s ch) := by
  unfold enableChannel; dsimp only; split <;> simp (maxDischargeDepth := 9) [*]

end Sys2Proof.Machine
end

