-- ==== Sys2Proof/Laws/KeptBlocks.lean ====
section
/-!
SUPPORT. `Kept` for the operations on lines, handsets, speakers, configuration entries, the link and the requests.
-/

namespace Sys2Proof.Machine

variable {s₀ s : State}

theorem kept_ite {c : Prop} [Decidable c] {t u : State} (ht : Kept s₀ t) (hu : Kept s₀ u) : Kept s₀ (if c then t else u) := by
  split <;> assumption

/-! ## Lines -/

@[simp] theorem kept_refreshDim (p : Nat) (h : Kept s₀ s) : Kept s₀ (refreshDim s p) := by simp (maxDischargeDepth := 9) [refreshDim, *]
@[simp] theorem kept_complete (before : State) (h : Kept s₀ s) : Kept s₀ (complete before s) := by
  refine kept_postMirrors before ?_
  unfold completePorts; split
  · exact h
  · exact kept_foldl _ _ (fun s a h => by simp [h]) (by simp [h])
@[simp] theorem kept_changeState (n : Nat) (new : LineState) (c : StateCause) (h : Kept s₀ s) : Kept s₀ (changeState s n new c) := by
  unfold changeState; dsimp only; (repeat' split) <;> simp (maxDischargeDepth := 9) [*]
@[simp] theorem kept_applyModes (n : Nat) (h : Kept s₀ s) : Kept s₀ (applyModes s n) := by
  unfold applyModes; dsimp only; (repeat' split) <;> simp (maxDischargeDepth := 9) [*]
@[simp] theorem kept_becomeConnected (n : Nat) (c : StateCause) (h : Kept s₀ s) : Kept s₀ (becomeConnected s n c) := by
  simp (maxDischargeDepth := 9) [becomeConnected, *]
@[simp] theorem kept_callEnd (n : Nat) (w : ReleaseCause) (h : Kept s₀ s) : Kept s₀ (callEnd s n w) := by
  simp (maxDischargeDepth := 9) [callEnd, *]
@[simp] theorem kept_enterClearing (n : Nat) (w : ReleaseCause) (c : StateCause) (b : Bool) (h : Kept s₀ s) : Kept s₀ (enterClearing s n w c b) := by
  unfold enterClearing; split <;> simp (maxDischargeDepth := 9) [*]
@[simp] theorem kept_releaseIfEmpty (n : Nat) (h : Kept s₀ s) : Kept s₀ (releaseIfEmpty s n) := by
  unfold releaseIfEmpty; dsimp only; (repeat' split) <;> simp (maxDischargeDepth := 9) [*]
@[simp] theorem kept_hcDrop (p : Party) (n : Nat) (h : Kept s₀ s) : Kept s₀ (hcDrop s p n) := by simp (maxDischargeDepth := 9) [hcDrop, *]
@[simp] theorem kept_removeParticipant (n : Nat) (p : Party) (h : Kept s₀ s) : Kept s₀ (removeParticipant s n p) := by
  simp (maxDischargeDepth := 9) [removeParticipant, *]
@[simp] theorem kept_leaveLine (p : Party) (n : Nat) (h : Kept s₀ s) : Kept s₀ (leaveLine s p n) := by
  unfold leaveLine; split <;> simp (maxDischargeDepth := 9) [*]
@[simp] theorem kept_setMode (n : Nat) (p : Party) (m : Mode) (h : Kept s₀ s) : Kept s₀ (setMode s n p m) := by
  simp (maxDischargeDepth := 9) [setMode, *]
@[simp] theorem kept_dropAll (n : Nat) (h : Kept s₀ s) : Kept s₀ (dropAll s n) := by
  simp only [dropAll, modLine_eq, kept_setLine]; exact kept_foldl _ _ (fun s a h => by simp [h]) h
@[simp] theorem kept_dropAllComplete (n : Nat) (h : Kept s₀ s) : Kept s₀ (dropAllComplete s n) := by
  simp (maxDischargeDepth := 9) [dropAllComplete, *]
@[simp] theorem kept_recomputeReach (h : Kept s₀ s) : Kept s₀ (recomputeReach s) := by exact kept_foldl _ _ (fun s a h => by simp [h]) h
@[simp] theorem kept_dropIntercom (p : Party) (c : Nat) (h : Kept s₀ s) : Kept s₀ (dropIntercom s p c) := by
  simp (maxDischargeDepth := 9) [dropIntercom, *]
@[simp] theorem kept_endIntercom (c : Nat) (w : IcmEnd) (h : Kept s₀ s) : Kept s₀ (endIntercom s c w) := by
  unfold endIntercom
  have k : Kept s₀ (((s.call c).caller.toList ++ (s.call c).answerer.toList).foldl (fun s p => dropIntercom s p c) s) :=
    kept_foldl _ _ (fun s a h => by simp [h]) h
  exact kept_recomputeReach (kept_issue _ ((kept_setCall _ _).mpr k))
@[simp] theorem kept_pushEntry (p : Party) (e : CurEntry) (h : Kept s₀ s) : Kept s₀ (pushEntry p s e) := by
  cases e <;> simp (maxDischargeDepth := 9) [pushEntry, h]
@[simp] theorem kept_pushCurrent (p : Party) (h : Kept s₀ s) : Kept s₀ (pushCurrent s p) := by
  exact kept_foldl _ _ (fun s a h => by simp [h]) h
@[simp] theorem kept_setCurrent (p : Party) (e : CurEntry) (h : Kept s₀ s) : Kept s₀ (setCurrent s p e) := by
  simp (maxDischargeDepth := 9) [setCurrent, *]
@[simp] theorem kept_seizeLine (n i : Nat) (c : StateCause) (h : Kept s₀ s) : Kept s₀ (seizeLine s n i c) := by
  simp (maxDischargeDepth := 9) [seizeLine, *]
@[simp] theorem kept_seizeNailed (n : Nat) (f g : StateCause) (h : Kept s₀ s) : Kept s₀ (seizeNailed s n f g) := by
  unfold seizeNailed; split <;> simp (maxDischargeDepth := 9) [*]
@[simp] theorem kept_forceRelease (n : Nat) (h : Kept s₀ s) : Kept s₀ (forceRelease s n) := by
  unfold forceRelease; dsimp only; split <;> simp (maxDischargeDepth := 9) [*]
@[simp] theorem kept_pathLost (n f : Nat) (h : Kept s₀ s) : Kept s₀ (pathLost s n f) := by
  unfold pathLost; dsimp only; (repeat' split) <;> simp (maxDischargeDepth := 9) [*]
@[simp] theorem kept_ringEnds (n : Nat) (w : ReleaseCause) (c : StateCause) (h : Kept s₀ s) : Kept s₀ (ringEnds s n w c) := by
  simp (maxDischargeDepth := 9) [ringEnds, *]
@[simp] theorem kept_circuitFailed_failover (n f i : Nat) (h : Kept s₀ s) : Kept s₀ (circuitFailed.failover n f i s) := by
  unfold circuitFailed.failover; dsimp only; split <;> simp (maxDischargeDepth := 9) [*]
@[simp] theorem kept_circuitFailed (n f i : Nat) (c : StateCause) (h : Kept s₀ s) : Kept s₀ (circuitFailed s n f i c) := by
  unfold circuitFailed; dsimp only; (repeat' split) <;> simp (maxDischargeDepth := 9) [*]
@[simp] theorem kept_ownerLoses (c : Nat) (o : Option Nat) (w : StateCause) (h : Kept s₀ s) : Kept s₀ (ownerLoses s c o w) := by
  unfold ownerLoses; split <;> simp (maxDischargeDepth := 9) [*]
@[simp] theorem kept_completeSwitch (n c : Nat) (h : Kept s₀ s) : Kept s₀ (completeSwitch s n c) := by
  simp (maxDischargeDepth := 9) [completeSwitch, *]

/-! ## Handsets and positions -/

@[simp] theorem kept_provideChannel (p : Party) (n : Nat) (h : Kept s₀ s) : Kept s₀ (provideChannel s p n) := by
  unfold provideChannel; split <;> simp (maxDischargeDepth := 9) [*]
@[simp] theorem kept_joinParticipant (p : Party) (n : Nat) (h : Kept s₀ s) : Kept s₀ (joinParticipant s p n) := by
  unfold joinParticipant; dsimp only; split <;> simp (maxDischargeDepth := 9) [*]
@[simp] theorem kept_answerRing (n : Nat) (h : Kept s₀ s) : Kept s₀ (answerRing s n) := by simp (maxDischargeDepth := 9) [answerRing, *]
@[simp] theorem kept_takeLine (n : Nat) (h : Kept s₀ s) : Kept s₀ (takeLine s n) := by
  unfold takeLine; (repeat' split) <;> simp (maxDischargeDepth := 9) [*]
@[simp] theorem kept_joinLine (p : Party) (n : Nat) (h : Kept s₀ s) : Kept s₀ (joinLine s p n) := by
  simp (maxDischargeDepth := 9) [joinLine, *]
@[simp] theorem kept_retrieveEffects (p : Party) (n : Nat) (h : Kept s₀ s) : Kept s₀ (retrieveEffects s p n) := by
  simp (maxDischargeDepth := 9) [retrieveEffects, *]
@[simp] theorem kept_retrieveLine (p : Party) (n : Nat) (h : Kept s₀ s) : Kept s₀ (retrieveLine s p n).1 := by
  unfold retrieveLine; dsimp only; (repeat' split) <;> simp (maxDischargeDepth := 9) [*]
@[simp] theorem kept_selectLine (p : Party) (n : Nat) (h : Kept s₀ s) : Kept s₀ (selectLine s p n).1 := by
  unfold selectLine; dsimp only; (repeat' split) <;> simp (maxDischargeDepth := 9) [*]
@[simp] theorem kept_releaseEntry (p : Party) (e : CurEntry) (h : Kept s₀ s) : Kept s₀ (releaseEntry p s e) := by
  cases e <;> simp (maxDischargeDepth := 9) [releaseEntry, h]
@[simp] theorem kept_resumeTop (p : Party) (h : Kept s₀ s) : Kept s₀ (resumeTop s p) := by
  unfold resumeTop; split <;> simp (maxDischargeDepth := 9) [*]
@[simp] theorem kept_releaseHandset (p : Party) (h : Kept s₀ s) : Kept s₀ (releaseHandset s p) :=
  kept_complete _ (kept_resumeTop _ (kept_foldl _ _ (fun s a h => by simp [h]) h))
@[simp] theorem kept_dropHandset (p : Party) (h : Kept s₀ s) : Kept s₀ (dropHandset s p) := by
  exact kept_foldl _ _ (fun s a h => by simp [h]) h
@[simp] theorem kept_endCallsWhere (f : IcmRec → Bool) (w : IcmEnd) (h : Kept s₀ s) : Kept s₀ (endCallsWhere s f w) := by
  exact kept_foldl _ _ (fun s a h => by dsimp only; split <;> simp [h]) h
@[simp] theorem kept_disablePosition (p : Nat) (h : Kept s₀ s) : Kept s₀ (disablePosition s p) := by
  simp (maxDischargeDepth := 9) [disablePosition, *]
@[simp] theorem kept_enablePosition (p : Nat) (h : Kept s₀ s) : Kept s₀ (enablePosition s p) := by
  simp (maxDischargeDepth := 9) [enablePosition, *]
@[simp] theorem kept_removeHandset (p : Party) (h : Kept s₀ s) : Kept s₀ (removeHandset s p) := by
  simp (maxDischargeDepth := 9) [removeHandset, *]
@[simp] theorem kept_replaceChannel (p i : Nat) (c : ChanConfig) (h : Kept s₀ s) : Kept s₀ (replaceChannel s p i c) := by
  simp (maxDischargeDepth := 9) [replaceChannel, *]
@[simp] theorem kept_changePosition (p : Nat) (old new : PosConfig) (h : Kept s₀ s) : Kept s₀ (changePosition s p old new) := by
  unfold changePosition
  dsimp only
  have k : ∀ t, Kept s₀ t → Kept s₀ ((changedChannels old new).foldl
      (fun s i => replaceChannel s p i (Table.get ChanConfig.cold new.channels i)) t) :=
    fun t ht => kept_foldl _ _ (fun s a h => by simp [h]) ht
  have k2 := k _ (kept_ite (c := old.present1 = true ∧ new.present1 = false)
    (kept_removeHandset { pos := p, hs := 1 } (kept_ite (c := old.present0 = true ∧ new.present0 = false)
      (kept_removeHandset { pos := p, hs := 0 } h) h))
    (kept_ite (c := old.present0 = true ∧ new.present0 = false) (kept_removeHandset { pos := p, hs := 0 } h) h))
  exact kept_recomputeReach (kept_foldl _ _ (fun s a h => by simp [h]) (kept_ite k2 (kept_recomputePorts _ k2)))
@[simp] theorem kept_applyPosition (p : Nat) (c : PosConfig) (h : Kept s₀ s) : Kept s₀ (applyPosition s p c) := by
  unfold applyPosition; dsimp only; split <;> simp (maxDischargeDepth := 9) [*]

/-! ## Mixer and speakers -/

@[simp] theorem kept_runFrame (i : Table Sample) (h : Kept s₀ s) : Kept s₀ (runFrame s i) := by exact h.trans (.of_core rfl)
@[simp] theorem kept_stopMixer (h : Kept s₀ s) : Kept s₀ (stopMixer s) := by exact h.trans (.of_core rfl)
@[simp] theorem kept_turnOffPtts (b : Nat) (c : BridgeConfig) (h : Kept s₀ s) : Kept s₀ (turnOffPtts s b c) := by
  exact h.trans (.of_core rfl)
@[simp] theorem kept_applyBridge (b : Nat) (c : BridgeConfig) (h : Kept s₀ s) : Kept s₀ (applyBridge s b c) := by
  simp (maxDischargeDepth := 9) [applyBridge, *]
@[simp] theorem kept_Machine_setSpeaker (p i : Nat) (r : Source) (m : Mix) (h : Kept s₀ s) : Kept s₀ (Machine.setSpeaker s p i r m).1 := by
  unfold Machine.setSpeaker; dsimp only; (repeat' split) <;> simp (maxDischargeDepth := 9) [*]
@[simp] theorem kept_setVolume (p i c : Nat) (h : Kept s₀ s) : Kept s₀ (setVolume s p i c).1 := by
  unfold setVolume; dsimp only; split <;> simp (maxDischargeDepth := 9) [*]
@[simp] theorem kept_setPtt (p i : Nat) (b : Bool) (h : Kept s₀ s) : Kept s₀ (setPtt s p i b).1 := by
  unfold setPtt; dsimp only; (repeat' split) <;> simp (maxDischargeDepth := 9) [*]

/-! ## Configuration entries -/

@[simp] theorem kept_setCopy (o : Nat) (w : Word) (h : Kept s₀ s) : Kept s₀ (setCopy s o w) := by
  exact h.trans ⟨rfl, rfl, rfl, rfl, rfl, rfl, fun k => ⟨k.1, k.2, k.3, k.4⟩, fun k => ⟨k.1, k.2, k.3, k.4, k.5, k.6, k.7, k.8⟩,
    fun k => ⟨k.1, k.2, k.3⟩⟩
@[simp] theorem kept_mergeCopy (o : Nat) (d : Word) (e : ByteEnables) (h : Kept s₀ s) : Kept s₀ (mergeCopy s o d e) := by
  simp (maxDischargeDepth := 9) [mergeCopy, *]
@[simp] theorem kept_setPending (n : Nat) (b : Bool) (h : Kept s₀ s) : Kept s₀ (setPending s n b) := by
  simp (maxDischargeDepth := 9) [setPending, *]
@[simp] theorem kept_changeEnabled (n : Nat) (a b : Bool) (h : Kept s₀ s) : Kept s₀ (changeEnabled s n a b) := by
  unfold changeEnabled; dsimp only; (repeat' split) <;> simp (maxDischargeDepth := 9) [*]
@[simp] theorem kept_applyLine (n : Nat) (c : LineConfig) (h : Kept s₀ s) : Kept s₀ (applyLine s n c) := by
  unfold applyLine; dsimp only; (repeat' split) <;> simp (maxDischargeDepth := 9) [*]
@[simp] theorem kept_rejectCommit (ws : List (Nat × Word)) (what : Rejected) (h : Kept s₀ s) : Kept s₀ (rejectCommit s ws what) := by
  unfold rejectCommit; simp (maxDischargeDepth := 9) [*]
@[simp] theorem kept_commitLine (n : Nat) (h : Kept s₀ s) : Kept s₀ (commitLine s n) := by
  unfold commitLine; split <;> simp (maxDischargeDepth := 9) [*]
@[simp] theorem kept_commitPosition (p : Nat) (h : Kept s₀ s) : Kept s₀ (commitPosition s p) := by
  unfold commitPosition; split <;> simp (maxDischargeDepth := 9) [*]
@[simp] theorem kept_commitBridge (b : Nat) (h : Kept s₀ s) : Kept s₀ (commitBridge s b) := by
  unfold commitBridge; split <;> simp (maxDischargeDepth := 9) [*]
@[simp] theorem kept_writeKey (p k : Nat) (h : Kept s₀ s) : Kept s₀ (writeKey s p k) := by
  unfold writeKey; dsimp only; split <;> simp (maxDischargeDepth := 9) [*]
@[simp] theorem kept_setChannelEnabled (c : Nat) (b : Bool) (h : Kept s₀ s) : Kept s₀ (setChannelEnabled s c b) := by
  unfold setChannelEnabled; split <;> simp (maxDischargeDepth := 9) [*]
@[simp] theorem kept_writeRecorder (c : Nat) (h : Kept s₀ s) : Kept s₀ (writeRecorder s c) := by
  unfold writeRecorder; dsimp only; (repeat' split) <;> simp (maxDischargeDepth := 9) [*]

/-! ## The link -/

@[simp] theorem kept_signalUnknown (c : Nat) (h : Kept s₀ s) : Kept s₀ (signalUnknown s c) := by
  simp (maxDischargeDepth := 9) [signalUnknown, *]
@[simp] theorem kept_signalState (c : Nat) (h : Kept s₀ s) : Kept s₀ (signalState s c) := by simp (maxDischargeDepth := 9) [signalState, *]
@[simp] theorem kept_putInUse (c : Nat) (h : Kept s₀ s) : Kept s₀ (putInUse s c) := by simp (maxDischargeDepth := 9) [putInUse, *]
@[simp] theorem kept_acknowledge (n c : Nat) (h : Kept s₀ s) : Kept s₀ (acknowledge s n c) := by
  unfold acknowledge; dsimp only; split <;> simp (maxDischargeDepth := 9) [*]
@[simp] theorem kept_farAnswered (n c : Nat) (h : Kept s₀ s) : Kept s₀ (farAnswered s n c) := by
  simp (maxDischargeDepth := 9) [farAnswered, *]
@[simp] theorem kept_failoverTaken (n c : Nat) (h : Kept s₀ s) : Kept s₀ (failoverTaken s n c) := by
  simp (maxDischargeDepth := 9) [failoverTaken, *]
@[simp] theorem kept_seizeAckOn (c : Nat) (h : Kept s₀ s) : Kept s₀ (seizeAckOn s c) := by
  unfold seizeAckOn; dsimp only; (repeat' split) <;> simp (maxDischargeDepth := 9) [*]
@[simp] theorem kept_farAnswerOn (c : Nat) (h : Kept s₀ s) : Kept s₀ (farAnswerOn s c) := by
  unfold farAnswerOn; dsimp only; (repeat' split) <;> simp (maxDischargeDepth := 9) [*]
@[simp] theorem kept_acceptRing (n c : Nat) (h : Kept s₀ s) : Kept s₀ (acceptRing s n c) := by simp (maxDischargeDepth := 9) [acceptRing, *]
@[simp] theorem kept_rejectRing (c : Nat) (t : Option Nat) (h : Kept s₀ s) : Kept s₀ (rejectRing s c t) := by
  unfold rejectRing; split <;> simp (maxDischargeDepth := 9) [*]
@[simp] theorem kept_ringDetectOn (c : Nat) (h : Kept s₀ s) : Kept s₀ (ringDetectOn s c) := by
  unfold ringDetectOn; (repeat' split) <;> simp (maxDischargeDepth := 9) [*]
@[simp] theorem kept_freeRinging (c : Nat) (h : Kept s₀ s) : Kept s₀ (freeRinging s c) := by simp (maxDischargeDepth := 9) [freeRinging, *]
@[simp] theorem kept_clearCall (n c : Nat) (l : LineRec) (h : Kept s₀ s) : Kept s₀ (clearCall s n c l) := by
  unfold clearCall; (repeat' split) <;> simp (maxDischargeDepth := 9) [*]
@[simp] theorem kept_farClearOn (c : Nat) (h : Kept s₀ s) : Kept s₀ (farClearOn s c) := by
  unfold farClearOn; dsimp only; (repeat' split) <;> simp (maxDischargeDepth := 9) [*]
@[simp] theorem kept_markWentDown (c : Nat) (h : Kept s₀ s) : Kept s₀ (markWentDown s c) := by
  unfold markWentDown; (repeat' split) <;> simp (maxDischargeDepth := 9) [*]
@[simp] theorem kept_takeDown (c : Nat) (h : Kept s₀ s) : Kept s₀ (takeDown s c) := by simp (maxDischargeDepth := 9) [takeDown, *]
@[simp] theorem kept_circuitDownOn (c : Nat) (h : Kept s₀ s) : Kept s₀ (circuitDownOn s c) := by
  unfold circuitDownOn; (repeat' split) <;> simp (maxDischargeDepth := 9) [*]
@[simp] theorem kept_bringBack (n : Nat) (h : Kept s₀ s) : Kept s₀ (bringBack s n) := by
  unfold bringBack; split <;> simp (maxDischargeDepth := 9) [*]
@[simp] theorem kept_bringBackAll (c : Nat) (h : Kept s₀ s) : Kept s₀ (bringBackAll s c) := by
  unfold bringBackAll; split
  · exact kept_foldl _ _ (fun s a h => by simp [h]) h
  · exact h
@[simp] theorem kept_circuitUpOn (c : Nat) (h : Kept s₀ s) : Kept s₀ (circuitUpOn s c) := by
  unfold circuitUpOn; (repeat' split) <;> simp (maxDischargeDepth := 9) [*]
@[simp] theorem kept_resetDoneOn (c : Nat) (h : Kept s₀ s) : Kept s₀ (resetDoneOn s c) := by
  unfold resetDoneOn; dsimp only; (repeat' split) <;> simp (maxDischargeDepth := 9) [*]
theorem kept_whenLinkActive (f : State → State) (hf : Kept s₀ (f s)) (h : Kept s₀ s) : Kept s₀ (whenLinkActive s f) := by
  unfold whenLinkActive; split <;> assumption
@[simp] theorem kept_startAckWait (c : Nat) (h : Kept s₀ s) : Kept s₀ (startAckWait s c) := by
  unfold startAckWait; split <;> simp (maxDischargeDepth := 9) [*]
@[simp] theorem kept_sendEnds (m : LinkMsg) (h : Kept s₀ s) : Kept s₀ (sendEnds s m) := by
  unfold sendEnds; (repeat' split) <;> simp (maxDischargeDepth := 9) [*]
@[simp] theorem kept_cadence (n : Nat) (w : LinkState) (p : SignalPurpose) (k : Nat) (h : Kept s₀ s) : Kept s₀ (cadence s n w p k) := by
  simp (maxDischargeDepth := 9) [cadence, *]
@[simp] theorem kept_ackWaitExpires (n : Nat) (h : Kept s₀ s) : Kept s₀ (ackWaitExpires s n) := by
  unfold ackWaitExpires; split <;> simp (maxDischargeDepth := 9) [*]
@[simp] theorem kept_noAnswerExpires (n : Nat) (h : Kept s₀ s) : Kept s₀ (noAnswerExpires s n) := by
  simp (maxDischargeDepth := 9) [noAnswerExpires, *]
@[simp] theorem kept_ringInExpires (n : Nat) (h : Kept s₀ s) : Kept s₀ (ringInExpires s n) := by
  simp (maxDischargeDepth := 9) [ringInExpires, *]
@[simp] theorem kept_freeCircuit (n : Nat) (h : Kept s₀ s) : Kept s₀ (freeCircuit s n) := by
  unfold freeCircuit; split <;> simp (maxDischargeDepth := 9) [*]
@[simp] theorem kept_guardExpires (n : Nat) (h : Kept s₀ s) : Kept s₀ (guardExpires s n) := by
  unfold guardExpires; dsimp only; (repeat' split) <;> simp (maxDischargeDepth := 9) [*]
@[simp] theorem kept_burstExpires (n : Nat) (h : Kept s₀ s) : Kept s₀ (burstExpires s n) := by
  simp (maxDischargeDepth := 9) [burstExpires, *]

/-! ## Requests -/

@[simp] theorem kept_ownSelect (ws : List Word) (h : Kept s₀ s) : Kept s₀ (ownSelect s ws).1 := by
  unfold ownSelect; dsimp only; (repeat' split) <;> simp (maxDischargeDepth := 9) [*]
@[simp] theorem kept_ownAnswer (ws : List Word) (h : Kept s₀ s) : Kept s₀ (ownAnswer s ws).1 := by
  unfold ownAnswer; dsimp only; split <;> simp (maxDischargeDepth := 9) [*]
@[simp] theorem kept_setPrivacy (p : Party) (n : Nat) (b : Bool) (h : Kept s₀ s) : Kept s₀ (setPrivacy s p n b).1 := by
  unfold setPrivacy; dsimp only; (repeat' split) <;> simp (maxDischargeDepth := 9) [*]
@[simp] theorem kept_ownPrivacy (ws : List Word) (h : Kept s₀ s) : Kept s₀ (ownPrivacy s ws).1 := by
  unfold ownPrivacy; dsimp only; (repeat' split) <;> simp (maxDischargeDepth := 9) [*]
@[simp] theorem kept_ownForceRelease (ws : List Word) (h : Kept s₀ s) : Kept s₀ (ownForceRelease s ws).1 := by
  unfold ownForceRelease; dsimp only; (repeat' split) <;> simp (maxDischargeDepth := 9) [*]
@[simp] theorem kept_serviceOut (n : Nat) (h : Kept s₀ s) : Kept s₀ (serviceOut s n).1 := by
  unfold serviceOut; dsimp only; (repeat' split) <;> simp (maxDischargeDepth := 9) [*]
@[simp] theorem kept_serviceIn (n : Nat) (h : Kept s₀ s) : Kept s₀ (serviceIn s n).1 := by
  unfold serviceIn; dsimp only; (repeat' split) <;> simp (maxDischargeDepth := 9) [*]
@[simp] theorem kept_ownLineService (ws : List Word) (h : Kept s₀ s) : Kept s₀ (ownLineService s ws).1 := by
  unfold ownLineService; dsimp only; (repeat' split) <;> simp (maxDischargeDepth := 9) [*]
@[simp] theorem kept_startBurst (n : Nat) (h : Kept s₀ s) : Kept s₀ (startBurst s n) := by simp (maxDischargeDepth := 9) [startBurst, *]
@[simp] theorem kept_ownSignal (ws : List Word) (h : Kept s₀ s) : Kept s₀ (ownSignal s ws).1 := by
  unfold ownSignal; dsimp only; (repeat' split) <;> simp (maxDischargeDepth := 9) [*]
@[simp] theorem kept_resetCircuit (c : Nat) (h : Kept s₀ s) : Kept s₀ (resetCircuit s c) := by
  simp (maxDischargeDepth := 9) [resetCircuit, *]
@[simp] theorem kept_ownCircuitReset (ws : List Word) (h : Kept s₀ s) : Kept s₀ (ownCircuitReset s ws).1 := by
  unfold ownCircuitReset; dsimp only; (repeat' split) <;> simp (maxDischargeDepth := 9) [*]
@[simp] theorem kept_ownRelease (ws : List Word) (h : Kept s₀ s) : Kept s₀ (ownRelease s ws).1 := by
  unfold ownRelease; dsimp only; split <;> simp (maxDischargeDepth := 9) [*]
@[simp] theorem kept_ownHold (ws : List Word) (h : Kept s₀ s) : Kept s₀ (ownHold s ws).1 := by
  unfold ownHold; dsimp only; (repeat' split) <;> simp (maxDischargeDepth := 9) [*]
@[simp] theorem kept_ownRetrieve (ws : List Word) (h : Kept s₀ s) : Kept s₀ (ownRetrieve s ws).1 := by
  unfold ownRetrieve; dsimp only; split <;> simp (maxDischargeDepth := 9) [*]
@[simp] theorem kept_joinTop (p : Party) (n : Nat) (h : Kept s₀ s) : Kept s₀ (joinTop s p n) := by
  simp (maxDischargeDepth := 9) [joinTop, *]
@[simp] theorem kept_ownJoin (ws : List Word) (h : Kept s₀ s) : Kept s₀ (ownJoin s ws).1 := by
  unfold ownJoin; dsimp only; (repeat' split) <;> simp (maxDischargeDepth := 9) [*]
@[simp] theorem kept_placeCall (p : Party) (t : IcmTarget) (h : Kept s₀ s) : Kept s₀ (placeCall s p t) := by
  unfold placeCall; dsimp only; split <;> simp (maxDischargeDepth := 9) [*]
@[simp] theorem kept_ownIntercomCall (ws : List Word) (h : Kept s₀ s) : Kept s₀ (ownIntercomCall s ws).1 := by
  unfold ownIntercomCall; dsimp only; (repeat' split) <;> simp (maxDischargeDepth := 9) [*]
@[simp] theorem kept_answerCall (p : Party) (c : Nat) (h : Kept s₀ s) : Kept s₀ (answerCall s p c) := by
  simp (maxDischargeDepth := 9) [answerCall, *]
@[simp] theorem kept_ownIntercomAnswer (ws : List Word) (h : Kept s₀ s) : Kept s₀ (ownIntercomAnswer s ws).1 := by
  unfold ownIntercomAnswer; dsimp only; (repeat' split) <;> simp (maxDischargeDepth := 9) [*]
@[simp] theorem kept_ownNop (ws : List Word) (h : Kept s₀ s) : Kept s₀ (ownNop s ws).1 := by simp (maxDischargeDepth := 9) [ownNop, *]
@[simp] theorem kept_ownSpeakerSet (ws : List Word) (h : Kept s₀ s) : Kept s₀ (ownSpeakerSet s ws).1 := by
  unfold ownSpeakerSet; dsimp only; (repeat' split) <;> simp_all
@[simp] theorem kept_ownSpeakerVolume (ws : List Word) (h : Kept s₀ s) : Kept s₀ (ownSpeakerVolume s ws).1 := by
  unfold ownSpeakerVolume; dsimp only; split <;> simp (maxDischargeDepth := 9) [*]
@[simp] theorem kept_ownPtt (ws : List Word) (h : Kept s₀ s) : Kept s₀ (ownPtt s ws).1 := by
  unfold ownPtt; dsimp only; (repeat' split) <;> simp (maxDischargeDepth := 9) [*]
@[simp] theorem kept_ownMeasureMode (ws : List Word) (h : Kept s₀ s) : Kept s₀ (ownMeasureMode s ws).1 := by
  unfold ownMeasureMode; dsimp only; (repeat' split) <;> first | exact h | exact h.trans (.of_core rfl)
@[simp] theorem kept_ownSetAttention (ws : List Word) (h : Kept s₀ s) : Kept s₀ (ownSetAttention s ws).1 := by
  unfold ownSetAttention
  dsimp only
  split
  · exact h
  · exact h.trans ⟨rfl, rfl, rfl, rfl, rfl, rfl, id, fun k => ⟨k.1, k.2, k.3, k.4, k.5, k.6, k.7, k.8⟩, fun k => ⟨k.1, k.2, k.3⟩⟩

/-- A change between RUNNING and QUIESCED (R179, R180). -/
theorem kept_setPart_serving (p : PartState) (hp : p = .running ∨ p = .quiesced) (h : Kept s₀ s) : Kept s₀ (s.setPart p) := by
  refine h.trans ⟨rfl, rfl, rfl, rfl, rfl, rfl, id, fun k => ⟨k.1, k.2, k.3, k.4, k.5, k.6, k.7, k.8⟩, fun k => ⟨k.1, fun _ hw => ?_, k.3⟩⟩
  rcases hp with rfl | rfl <;> simp [State.setPart] at hw

@[simp] theorem kept_ownQuiesce (ws : List Word) (h : Kept s₀ s) : Kept s₀ (ownQuiesce s ws).1 := by
  unfold ownQuiesce
  split
  · exact kept_issue _ (kept_setPart_serving _ (.inr rfl) h)
  · exact h
@[simp] theorem kept_ownResume (ws : List Word) (h : Kept s₀ s) : Kept s₀ (ownResume s ws).1 := by
  unfold ownResume
  split
  · exact kept_issue _ (kept_setPart_serving _ (.inl rfl) h)
  · exact h
@[simp] theorem kept_takeBadCode (h : Kept s₀ s) : Kept s₀ (takeBadCode s) := by
  unfold takeBadCode; (repeat' split) <;> simp (maxDischargeDepth := 9) [*]

end Sys2Proof.Machine
end

