-- ==== Sys2Proof/Laws/Configuration.lean ====
section
/-!
SUPPORT. What no operation on calls, and no request, message or expiry changes: the applied configuration.
-/

namespace Sys2Proof.Machine

/-- The applied configuration of every line and position, the keys and the appearance index are as they were (R1, R12, R13, R62). -/
structure ConfigKept (s t : State) : Prop where
  line     : ∀ n, (t.line n).applied = (s.line n).applied ∧ (t.line n).configRejected = (s.line n).configRejected
  position : ∀ p, (t.position p).applied = (s.position p).applied ∧ (t.position p).configRejected = (s.position p).configRejected
  keys     : t.lc.keys = s.lc.keys
  index    : t.lc.appIndex = s.lc.appIndex
  bridge   : ∀ b, (t.bridge b).applied = (s.bridge b).applied ∧ (t.bridge b).configRejected = (s.bridge b).configRejected
  copies   : t.bi.copies = s.bi.copies

theorem ConfigKept.refl (s : State) : ConfigKept s s := ⟨fun _ => ⟨rfl, rfl⟩, fun _ => ⟨rfl, rfl⟩, rfl, rfl, fun _ => ⟨rfl, rfl⟩, rfl⟩

theorem ConfigKept.trans {a b c : State} (h : ConfigKept a b) (k : ConfigKept b c) : ConfigKept a c :=
  ⟨fun n => ⟨(k.1 n).1.trans (h.1 n).1, (k.1 n).2.trans (h.1 n).2⟩, fun n => ⟨(k.2 n).1.trans (h.2 n).1, (k.2 n).2.trans (h.2 n).2⟩,
    k.3.trans h.3, k.4.trans h.4, fun n => ⟨(k.5 n).1.trans (h.5 n).1, (k.5 n).2.trans (h.5 n).2⟩, k.6.trans h.6⟩

theorem configKept_foldl {α : Type} {s₀ s : State} (f : State → α → State) (l : List α)
    (hf : ∀ s a, ConfigKept s₀ s → ConfigKept s₀ (f s a)) (h : ConfigKept s₀ s) : ConfigKept s₀ (l.foldl f s) := by
  induction l generalizing s with
  | nil => exact h
  | cons a l ih => exact ih (hf s a h)

variable {s₀ s : State}

/-- A change of a line's record that leaves its applied copy. -/
@[simp] theorem configKept_modLine (n : Nat) (f : LineRec → LineRec) (hr : ∀ r, (f r).applied = r.applied ∧ (f r).configRejected = r.configRejected)
    (h : ConfigKept s₀ s) : ConfigKept s₀ (modLine s n f) :=
  h.trans ⟨fun m => by by_cases hm : m = n <;> simp [hm, hr], fun _ => ⟨rfl, rfl⟩, rfl, rfl, fun _ => ⟨rfl, rfl⟩, rfl⟩

/-- A change of a position's record that leaves its applied copy. -/
@[simp] theorem configKept_modPosition (n : Nat) (f : PosRec → PosRec)
    (hr : ∀ r, (f r).applied = r.applied ∧ (f r).configRejected = r.configRejected)
    (h : ConfigKept s₀ s) : ConfigKept s₀ (modPosition s n f) :=
  h.trans ⟨fun _ => ⟨rfl, rfl⟩, fun m => by by_cases hm : m = n <;> simp [hm, hr], rfl, rfl, fun _ => ⟨rfl, rfl⟩, rfl⟩

/-! ## Updates of records, events -/

@[simp] theorem configKept_setAlertList (n : Nat) (r : List Nat) : ConfigKept s₀ (s.setAlertList n r) ↔ ConfigKept s₀ s :=
  ⟨fun h => h.trans ⟨fun _ => ⟨rfl, rfl⟩, fun _ => ⟨rfl, rfl⟩, rfl, rfl, fun _ => ⟨rfl, rfl⟩, rfl⟩,
   fun h => h.trans ⟨fun _ => ⟨rfl, rfl⟩, fun _ => ⟨rfl, rfl⟩, rfl, rfl, fun _ => ⟨rfl, rfl⟩, rfl⟩⟩
@[simp] theorem configKept_setCircuit (n : Nat) (r : CircuitRec) : ConfigKept s₀ (s.setCircuit n r) ↔ ConfigKept s₀ s :=
  ⟨fun h => h.trans ⟨fun _ => ⟨rfl, rfl⟩, fun _ => ⟨rfl, rfl⟩, rfl, rfl, fun _ => ⟨rfl, rfl⟩, rfl⟩,
   fun h => h.trans ⟨fun _ => ⟨rfl, rfl⟩, fun _ => ⟨rfl, rfl⟩, rfl, rfl, fun _ => ⟨rfl, rfl⟩, rfl⟩⟩
@[simp] theorem configKept_setPath (n : Nat) (r : PathRec) : ConfigKept s₀ (s.setPath n r) ↔ ConfigKept s₀ s :=
  ⟨fun h => h.trans ⟨fun _ => ⟨rfl, rfl⟩, fun _ => ⟨rfl, rfl⟩, rfl, rfl, fun _ => ⟨rfl, rfl⟩, rfl⟩,
   fun h => h.trans ⟨fun _ => ⟨rfl, rfl⟩, fun _ => ⟨rfl, rfl⟩, rfl, rfl, fun _ => ⟨rfl, rfl⟩, rfl⟩⟩
@[simp] theorem configKept_setPendingList (r : List Nat) : ConfigKept s₀ (s.setPendingList r) ↔ ConfigKept s₀ s :=
  ⟨fun h => h.trans ⟨fun _ => ⟨rfl, rfl⟩, fun _ => ⟨rfl, rfl⟩, rfl, rfl, fun _ => ⟨rfl, rfl⟩, rfl⟩,
   fun h => h.trans ⟨fun _ => ⟨rfl, rfl⟩, fun _ => ⟨rfl, rfl⟩, rfl, rfl, fun _ => ⟨rfl, rfl⟩, rfl⟩⟩
@[simp] theorem configKept_setSending (r : Option Sending) : ConfigKept s₀ (s.setSending r) ↔ ConfigKept s₀ s :=
  ⟨fun h => h.trans ⟨fun _ => ⟨rfl, rfl⟩, fun _ => ⟨rfl, rfl⟩, rfl, rfl, fun _ => ⟨rfl, rfl⟩, rfl⟩,
   fun h => h.trans ⟨fun _ => ⟨rfl, rfl⟩, fun _ => ⟨rfl, rfl⟩, rfl, rfl, fun _ => ⟨rfl, rfl⟩, rfl⟩⟩
@[simp] theorem configKept_setHandset (n : Party) (r : HandsetRec) : ConfigKept s₀ (s.setHandset n r) ↔ ConfigKept s₀ s :=
  ⟨fun h => h.trans ⟨fun _ => ⟨rfl, rfl⟩, fun _ => ⟨rfl, rfl⟩, rfl, rfl, fun _ => ⟨rfl, rfl⟩, rfl⟩,
   fun h => h.trans ⟨fun _ => ⟨rfl, rfl⟩, fun _ => ⟨rfl, rfl⟩, rfl, rfl, fun _ => ⟨rfl, rfl⟩, rfl⟩⟩
@[simp] theorem configKept_setCall (n : Nat) (r : IcmRec) : ConfigKept s₀ (s.setCall n r) ↔ ConfigKept s₀ s :=
  ⟨fun h => h.trans ⟨fun _ => ⟨rfl, rfl⟩, fun _ => ⟨rfl, rfl⟩, rfl, rfl, fun _ => ⟨rfl, rfl⟩, rfl⟩,
   fun h => h.trans ⟨fun _ => ⟨rfl, rfl⟩, fun _ => ⟨rfl, rfl⟩, rfl, rfl, fun _ => ⟨rfl, rfl⟩, rfl⟩⟩
@[simp] theorem configKept_setSpeaker (n : Nat) (r : SpeakerRec) : ConfigKept s₀ (s.setSpeaker n r) ↔ ConfigKept s₀ s :=
  ⟨fun h => h.trans ⟨fun _ => ⟨rfl, rfl⟩, fun _ => ⟨rfl, rfl⟩, rfl, rfl, fun _ => ⟨rfl, rfl⟩, rfl⟩,
   fun h => h.trans ⟨fun _ => ⟨rfl, rfl⟩, fun _ => ⟨rfl, rfl⟩, rfl, rfl, fun _ => ⟨rfl, rfl⟩, rfl⟩⟩
@[simp] theorem configKept_setChannel (n : Nat) (r : ChannelRec) : ConfigKept s₀ (s.setChannel n r) ↔ ConfigKept s₀ s :=
  ⟨fun h => h.trans ⟨fun _ => ⟨rfl, rfl⟩, fun _ => ⟨rfl, rfl⟩, rfl, rfl, fun _ => ⟨rfl, rfl⟩, rfl⟩,
   fun h => h.trans ⟨fun _ => ⟨rfl, rfl⟩, fun _ => ⟨rfl, rfl⟩, rfl, rfl, fun _ => ⟨rfl, rfl⟩, rfl⟩⟩
@[simp] theorem configKept_setPort (n : Nat) (r : PortRec) : ConfigKept s₀ (s.setPort n r) ↔ ConfigKept s₀ s :=
  ⟨fun h => h.trans ⟨fun _ => ⟨rfl, rfl⟩, fun _ => ⟨rfl, rfl⟩, rfl, rfl, fun _ => ⟨rfl, rfl⟩, rfl⟩,
   fun h => h.trans ⟨fun _ => ⟨rfl, rfl⟩, fun _ => ⟨rfl, rfl⟩, rfl, rfl, fun _ => ⟨rfl, rfl⟩, rfl⟩⟩
@[simp] theorem configKept_setFreeList (r : List Nat) : ConfigKept s₀ (s.setFreeList r) ↔ ConfigKept s₀ s :=
  ⟨fun h => h.trans ⟨fun _ => ⟨rfl, rfl⟩, fun _ => ⟨rfl, rfl⟩, rfl, rfl, fun _ => ⟨rfl, rfl⟩, rfl⟩,
   fun h => h.trans ⟨fun _ => ⟨rfl, rfl⟩, fun _ => ⟨rfl, rfl⟩, rfl, rfl, fun _ => ⟨rfl, rfl⟩, rfl⟩⟩
@[simp] theorem configKept_setWaitQueue (r : List Nat) : ConfigKept s₀ (s.setWaitQueue r) ↔ ConfigKept s₀ s :=
  ⟨fun h => h.trans ⟨fun _ => ⟨rfl, rfl⟩, fun _ => ⟨rfl, rfl⟩, rfl, rfl, fun _ => ⟨rfl, rfl⟩, rfl⟩,
   fun h => h.trans ⟨fun _ => ⟨rfl, rfl⟩, fun _ => ⟨rfl, rfl⟩, rfl, rfl, fun _ => ⟨rfl, rfl⟩, rfl⟩⟩
@[simp] theorem configKept_setOrder (r : List Nat) : ConfigKept s₀ (s.setOrder r) ↔ ConfigKept s₀ s :=
  ⟨fun h => h.trans ⟨fun _ => ⟨rfl, rfl⟩, fun _ => ⟨rfl, rfl⟩, rfl, rfl, fun _ => ⟨rfl, rfl⟩, rfl⟩,
   fun h => h.trans ⟨fun _ => ⟨rfl, rfl⟩, fun _ => ⟨rfl, rfl⟩, rfl, rfl, fun _ => ⟨rfl, rfl⟩, rfl⟩⟩
@[simp] theorem configKept_setContext (n : Nat) (r : Option MeasContext) : ConfigKept s₀ (s.setContext n r) ↔ ConfigKept s₀ s :=
  ⟨fun h => h.trans ⟨fun _ => ⟨rfl, rfl⟩, fun _ => ⟨rfl, rfl⟩, rfl, rfl, fun _ => ⟨rfl, rfl⟩, rfl⟩,
   fun h => h.trans ⟨fun _ => ⟨rfl, rfl⟩, fun _ => ⟨rfl, rfl⟩, rfl, rfl, fun _ => ⟨rfl, rfl⟩, rfl⟩⟩
@[simp] theorem configKept_setUpdates (r : List UpdateRec) : ConfigKept s₀ (s.setUpdates r) ↔ ConfigKept s₀ s :=
  ⟨fun h => h.trans ⟨fun _ => ⟨rfl, rfl⟩, fun _ => ⟨rfl, rfl⟩, rfl, rfl, fun _ => ⟨rfl, rfl⟩, rfl⟩,
   fun h => h.trans ⟨fun _ => ⟨rfl, rfl⟩, fun _ => ⟨rfl, rfl⟩, rfl, rfl, fun _ => ⟨rfl, rfl⟩, rfl⟩⟩
@[simp] theorem configKept_setInProgress (r : Option Updating) : ConfigKept s₀ (s.setInProgress r) ↔ ConfigKept s₀ s :=
  ⟨fun h => h.trans ⟨fun _ => ⟨rfl, rfl⟩, fun _ => ⟨rfl, rfl⟩, rfl, rfl, fun _ => ⟨rfl, rfl⟩, rfl⟩,
   fun h => h.trans ⟨fun _ => ⟨rfl, rfl⟩, fun _ => ⟨rfl, rfl⟩, rfl, rfl, fun _ => ⟨rfl, rfl⟩, rfl⟩⟩
@[simp] theorem configKept_setTake (r : Take) : ConfigKept s₀ (s.setTake r) ↔ ConfigKept s₀ s :=
  ⟨fun h => h.trans ⟨fun _ => ⟨rfl, rfl⟩, fun _ => ⟨rfl, rfl⟩, rfl, rfl, fun _ => ⟨rfl, rfl⟩, rfl⟩,
   fun h => h.trans ⟨fun _ => ⟨rfl, rfl⟩, fun _ => ⟨rfl, rfl⟩, rfl, rfl, fun _ => ⟨rfl, rfl⟩, rfl⟩⟩
@[simp] theorem configKept_setPart (r : PartState) : ConfigKept s₀ (s.setPart r) ↔ ConfigKept s₀ s :=
  ⟨fun h => h.trans ⟨fun _ => ⟨rfl, rfl⟩, fun _ => ⟨rfl, rfl⟩, rfl, rfl, fun _ => ⟨rfl, rfl⟩, rfl⟩,
   fun h => h.trans ⟨fun _ => ⟨rfl, rfl⟩, fun _ => ⟨rfl, rfl⟩, rfl, rfl, fun _ => ⟨rfl, rfl⟩, rfl⟩⟩
@[simp] theorem configKept_setLoad (r : Option LoadStep) : ConfigKept s₀ (s.setLoad r) ↔ ConfigKept s₀ s :=
  ⟨fun h => h.trans ⟨fun _ => ⟨rfl, rfl⟩, fun _ => ⟨rfl, rfl⟩, rfl, rfl, fun _ => ⟨rfl, rfl⟩, rfl⟩,
   fun h => h.trans ⟨fun _ => ⟨rfl, rfl⟩, fun _ => ⟨rfl, rfl⟩, rfl, rfl, fun _ => ⟨rfl, rfl⟩, rfl⟩⟩
@[simp] theorem configKept_postAll (ws : List (Nat × Word)) (h : ConfigKept s₀ s) : ConfigKept s₀ (postAll s ws) :=
  h.trans ⟨fun _ => ⟨rfl, rfl⟩, fun _ => ⟨rfl, rfl⟩, rfl, rfl, fun _ => ⟨rfl, rfl⟩, rfl⟩
@[simp] theorem configKept_postMirrors (before : State) (h : ConfigKept s₀ s) : ConfigKept s₀ (postMirrors before s) := configKept_postAll _ h
@[simp] theorem configKept_issue (e : Event) (h : ConfigKept s₀ s) : ConfigKept s₀ (issue s e) := by
  exact h.trans ⟨by simp, by simp, by simp, by simp, by simp, by simp⟩
@[simp] theorem configKept_recorderOccurrence (h : ConfigKept s₀ s) : ConfigKept s₀ (recorderOccurrence s) := by
  exact h.trans ⟨by simp, by simp, by simp, by simp, by simp, rfl⟩
@[simp] theorem configKept_raiseFault (f : FaultReport) (h : ConfigKept s₀ s) : ConfigKept s₀ (raiseFault s f) := by
  exact h.trans ⟨by simp, by simp, by simp, by simp, by simp, by simp⟩
@[simp] theorem configKept_modContext (n : Nat) (f : MeasContext → MeasContext) (h : ConfigKept s₀ s) : ConfigKept s₀ (modContext s n f) := by
  unfold modContext; split <;> simp (maxDischargeDepth := 20) [-modLine_eq, -modPosition_eq, *]

/-! ## Recording -/

@[simp] theorem configKept_enterClass (q : Nat) (l : Level) (h : ConfigKept s₀ s) : ConfigKept s₀ (enterClass s q l) := by
  unfold enterClass; split <;> simp (maxDischargeDepth := 20) [-modLine_eq, -modPosition_eq, *]
@[simp] theorem configKept_leaveQueue (q : Nat) (h : ConfigKept s₀ s) : ConfigKept s₀ (leaveQueue s q) := by
  simp (maxDischargeDepth := 20) [-modLine_eq, -modPosition_eq, leaveQueue, *]
@[simp] theorem configKept_markUnrecorded (q : Nat) (h : ConfigKept s₀ s) : ConfigKept s₀ (markUnrecorded s q) := by
  unfold markUnrecorded; split <;> simp (maxDischargeDepth := 20) [-modLine_eq, -modPosition_eq, *]
@[simp] theorem configKept_clearUnrecorded (q : Nat) (c : Option Nat) (h : ConfigKept s₀ s) : ConfigKept s₀ (clearUnrecorded s q c) := by
  unfold clearUnrecorded; split <;> simp (maxDischargeDepth := 20) [-modLine_eq, -modPosition_eq, *]
@[simp] theorem configKept_assignChannel (ch q : Nat) (p : Option Nat) (l : Bool) (h : ConfigKept s₀ s) : ConfigKept s₀ (assignChannel s ch q p l) := by
  simp (maxDischargeDepth := 20) [-modLine_eq, -modPosition_eq, assignChannel, *]
@[simp] theorem configKept_giveFree (q : Nat) (h : ConfigKept s₀ s) : ConfigKept s₀ (giveFree s q) := by
  unfold giveFree; split <;> simp (maxDischargeDepth := 20) [-modLine_eq, -modPosition_eq, *]
@[simp] theorem configKept_preempt (q v : Nat) (h : ConfigKept s₀ s) : ConfigKept s₀ (preempt s q v) := by
  unfold preempt; split <;> simp (maxDischargeDepth := 20) [-modLine_eq, -modPosition_eq, *]
@[simp] theorem configKept_obtainChannel (q : Nat) (h : ConfigKept s₀ s) : ConfigKept s₀ (obtainChannel s q) := by
  unfold obtainChannel; (repeat' split) <;> simp (maxDischargeDepth := 20) [-modLine_eq, -modPosition_eq, *]
@[simp] theorem configKept_releaseChannel (q : Nat) (h : ConfigKept s₀ s) : ConfigKept s₀ (releaseChannel s q) := by
  unfold releaseChannel; split <;> simp (maxDischargeDepth := 20) [-modLine_eq, -modPosition_eq, *]
@[simp] theorem configKept_passFall (e : Nat × Level) (h : ConfigKept s₀ s) : ConfigKept s₀ (passFall s e) := by
  unfold passFall; split <;> simp (maxDischargeDepth := 20) [-modLine_eq, -modPosition_eq, *]
@[simp] theorem configKept_passClass (e : Nat × Level) (h : ConfigKept s₀ s) : ConfigKept s₀ (passClass s e) := by
  unfold passClass; dsimp only; (repeat' split) <;> simp (maxDischargeDepth := 20) [-modLine_eq, -modPosition_eq, *]
@[simp] theorem configKept_passRise (e : Nat × Level) (h : ConfigKept s₀ s) : ConfigKept s₀ (passRise s e) := by
  unfold passRise; dsimp only; (repeat' split) <;> simp (maxDischargeDepth := 20) [-modLine_eq, -modPosition_eq, *]
theorem configKept_passServe (k : Nat) (h : ConfigKept s₀ s) : ConfigKept s₀ (passServe k s) := by
  induction k generalizing s with
  | zero => exact h
  | succ k ih => unfold passServe; split <;> simp [*]
@[simp] theorem configKept_passPreempt (q : Nat) (h : ConfigKept s₀ s) : ConfigKept s₀ (passPreempt s q) := by
  unfold passPreempt; (repeat' split) <;> simp (maxDischargeDepth := 20) [-modLine_eq, -modPosition_eq, *]
@[simp] theorem configKept_recomputePorts (l : List Nat) (h : ConfigKept s₀ s) : ConfigKept s₀ (recomputePorts s l) := by
  unfold recomputePorts
  refine configKept_foldl _ _ (fun s a h => by simp [-modLine_eq, -modPosition_eq, h]) (configKept_passServe _ ?_)
  refine configKept_foldl _ _ (fun s a h => by simp [-modLine_eq, -modPosition_eq, h]) ?_
  refine configKept_foldl _ _ (fun s a h => by simp [-modLine_eq, -modPosition_eq, h]) ?_
  exact configKept_foldl _ _ (fun s a h => by simp [-modLine_eq, -modPosition_eq, h]) h

/-! ## Appearances and alerts -/

@[simp] theorem configKept_addAlert (p n : Nat) (h : ConfigKept s₀ s) : ConfigKept s₀ (addAlert s p n) := by
  unfold addAlert; dsimp only; split <;> simp (maxDischargeDepth := 20) [-modLine_eq, -modPosition_eq, *]
@[simp] theorem configKept_backfill (p : Nat) (l : Option Nat) (h : ConfigKept s₀ s) : ConfigKept s₀ (backfill s p l) := by
  unfold backfill; split <;> simp (maxDischargeDepth := 20) [-modLine_eq, -modPosition_eq, *]
@[simp] theorem configKept_removeAlert (p n : Nat) (l : Option Nat) (h : ConfigKept s₀ s) : ConfigKept s₀ (removeAlert s p n l) := by
  unfold removeAlert; split <;> simp (maxDischargeDepth := 20) [-modLine_eq, -modPosition_eq, *]
@[simp] theorem configKept_leaveAlerts (n : Nat) (h : ConfigKept s₀ s) : ConfigKept s₀ (leaveAlerts s n) := by
  exact configKept_foldl _ _ (fun s a h => by simp [-modLine_eq, -modPosition_eq, h]) h
@[simp] theorem configKept_enterAlerts (n : Nat) (h : ConfigKept s₀ s) : ConfigKept s₀ (enterAlerts s n) := by
  exact configKept_foldl _ _ (fun s a h => by split <;> simp [h]) h
@[simp] theorem configKept_fillAlerts (p : Nat) (h : ConfigKept s₀ s) : ConfigKept s₀ (fillAlerts s p) := by
  exact configKept_foldl _ _ (fun s a h => by simp [-modLine_eq, -modPosition_eq, h]) h

/-! ## Circuits -/

@[simp] theorem configKept_enterIdle (c : Nat) (h : ConfigKept s₀ s) : ConfigKept s₀ (enterIdle s c) := by
  simp (maxDischargeDepth := 20) [-modLine_eq, -modPosition_eq, enterIdle, *]
@[simp] theorem configKept_renameCircuit (c : Nat) (h : ConfigKept s₀ s) : ConfigKept s₀ (renameCircuit s c) := by
  unfold renameCircuit; split <;> simp (maxDischargeDepth := 20) [-modLine_eq, -modPosition_eq, *]
@[simp] theorem configKept_renameCircuits (cs : List Nat) (h : ConfigKept s₀ s) : ConfigKept s₀ (renameCircuits s cs) := by
  exact configKept_foldl _ _ (fun s a h => by simp [-modLine_eq, -modPosition_eq, h]) h
@[simp] theorem configKept_refreshMasks (n : Nat) (a b : List Nat) (h : ConfigKept s₀ s) : ConfigKept s₀ (refreshMasks s n a b) := by
  simp (maxDischargeDepth := 20) [-modLine_eq, -modPosition_eq, refreshMasks, *]
theorem configKept_forNaming (c : Nat) (f : State → Nat → Nat → State) (hf : ∀ s n i, ConfigKept s₀ s → ConfigKept s₀ (f s n i))
    (h : ConfigKept s₀ s) : ConfigKept s₀ (forNaming s c f) :=
  configKept_foldl _ _ (fun s a h => by split <;> simp [h, hf]) h

@[simp] theorem configKept_setAvailable (c : Nat) (b : Bool) (h : ConfigKept s₀ s) : ConfigKept s₀ (setAvailable s c b) := by
  exact configKept_forNaming _ _ (fun s n i h => by simp [-modLine_eq, -modPosition_eq, h]) h
@[simp] theorem configKept_setOperational (c : Nat) (h : ConfigKept s₀ s) : ConfigKept s₀ (setOperational s c) := by
  exact configKept_forNaming _ _ (fun s n i h => by simp [-modLine_eq, -modPosition_eq, h]) h
@[simp] theorem configKept_takeCallCopy (n : Nat) (h : ConfigKept s₀ s) : ConfigKept s₀ (takeCallCopy s n) := by
  simp (maxDischargeDepth := 20) [-modLine_eq, -modPosition_eq, takeCallCopy, *]
@[simp] theorem configKept_dropCallCopy (n : Nat) (h : ConfigKept s₀ s) : ConfigKept s₀ (dropCallCopy s n) := by
  unfold dropCallCopy; split <;> simp (maxDischargeDepth := 20) [-modLine_eq, -modPosition_eq, *]
@[simp] theorem configKept_relist (c : Nat) (h : ConfigKept s₀ s) : ConfigKept s₀ (relist s c) := by
  unfold relist; dsimp only; (repeat' split) <;> simp (maxDischargeDepth := 20) [-modLine_eq, -modPosition_eq, *]
@[simp] theorem configKept_setDesired (c : Nat) (d : LinkState) (h : ConfigKept s₀ s) : ConfigKept s₀ (setDesired s c d) := by
  simp (maxDischargeDepth := 20) [-modLine_eq, -modPosition_eq, setDesired, *]
@[simp] theorem configKept_finishRelease (c : Nat) (h : ConfigKept s₀ s) : ConfigKept s₀ (finishRelease s c) := by
  unfold finishRelease; dsimp only; split <;> simp (maxDischargeDepth := 20) [-modLine_eq, -modPosition_eq, *]
@[simp] theorem configKept_releaseCircuit (c : Nat) (b : Bool) (o : Option Nat) (h : ConfigKept s₀ s) : ConfigKept s₀ (releaseCircuit s c b o) := by
  simp (maxDischargeDepth := 20) [-modLine_eq, -modPosition_eq, releaseCircuit, *]
@[simp] theorem configKept_seizeAt (n i : Nat) (h : ConfigKept s₀ s) : ConfigKept s₀ (seizeAt s n i) := by
  unfold seizeAt; split <;> simp (maxDischargeDepth := 20) [-modLine_eq, -modPosition_eq, *]
@[simp] theorem configKept_clearActive (n : Nat) (h : ConfigKept s₀ s) : ConfigKept s₀ (clearActive s n) := by
  simp (maxDischargeDepth := 20) [-modLine_eq, -modPosition_eq, clearActive, *]
@[simp] theorem configKept_giveUpCircuit (n : Nat) (b : Bool) (h : ConfigKept s₀ s) : ConfigKept s₀ (giveUpCircuit s n b) := by
  unfold giveUpCircuit; split <;> simp (maxDischargeDepth := 20) [-modLine_eq, -modPosition_eq, *]
@[simp] theorem configKept_wantActive (n : Nat) (d : LinkState) (h : ConfigKept s₀ s) : ConfigKept s₀ (wantActive s n d) := by
  unfold wantActive; split <;> simp (maxDischargeDepth := 20) [-modLine_eq, -modPosition_eq, *]
@[simp] theorem configKept_startSignal (n : Nat) (p : SignalPurpose) (k : Nat) (h : ConfigKept s₀ s) : ConfigKept s₀ (startSignal s n p k) := by
  simp (maxDischargeDepth := 20) [-modLine_eq, -modPosition_eq, startSignal, *]
@[simp] theorem configKept_startState (n : Nat) (p : StatePurpose) (k : Nat) (h : ConfigKept s₀ s) : ConfigKept s₀ (startState s n p k) := by
  simp (maxDischargeDepth := 20) [-modLine_eq, -modPosition_eq, startState, *]
@[simp] theorem configKept_stopSignal (n : Nat) (h : ConfigKept s₀ s) : ConfigKept s₀ (stopSignal s n) := by
  simp (maxDischargeDepth := 20) [-modLine_eq, -modPosition_eq, stopSignal, *]
@[simp] theorem configKept_stopState (n : Nat) (h : ConfigKept s₀ s) : ConfigKept s₀ (stopState s n) := by
  simp (maxDischargeDepth := 20) [-modLine_eq, -modPosition_eq, stopState, *]
@[simp] theorem configKept_stopTimers (n : Nat) (h : ConfigKept s₀ s) : ConfigKept s₀ (stopTimers s n) := by
  simp (maxDischargeDepth := 20) [-modLine_eq, -modPosition_eq, stopTimers, *]

/-! ## Measurement -/

@[simp] theorem configKept_latchContext (n k : Nat) (r : Option Frame) (h : ConfigKept s₀ s) : ConfigKept s₀ (latchContext s n k r) := by
  simp (maxDischargeDepth := 20) [-modLine_eq, -modPosition_eq, latchContext, *]
@[simp] theorem configKept_countAnswered (n : Nat) (h : ConfigKept s₀ s) : ConfigKept s₀ (countAnswered s n) := by
  simp (maxDischargeDepth := 20) [-modLine_eq, -modPosition_eq, countAnswered, *]
@[simp] theorem configKept_countUnanswered (n : Nat) (h : ConfigKept s₀ s) : ConfigKept s₀ (countUnanswered s n) := by
  simp (maxDischargeDepth := 20) [-modLine_eq, -modPosition_eq, countUnanswered, *]
@[simp] theorem configKept_countBarge (n : Nat) (h : ConfigKept s₀ s) : ConfigKept s₀ (countBarge s n) := by
  simp (maxDischargeDepth := 20) [-modLine_eq, -modPosition_eq, countBarge, *]
@[simp] theorem configKept_endRinging (n : Nat) (h : ConfigKept s₀ s) : ConfigKept s₀ (endRinging s n) := by
  simp (maxDischargeDepth := 20) [-modLine_eq, -modPosition_eq, endRinging, *]
@[simp] theorem configKept_openConnection (n : Nat) (h : ConfigKept s₀ s) : ConfigKept s₀ (openConnection s n) := by
  simp (maxDischargeDepth := 20) [-modLine_eq, -modPosition_eq, openConnection, *]
@[simp] theorem configKept_switchSegment (n : Nat) (h : ConfigKept s₀ s) : ConfigKept s₀ (switchSegment s n) := by
  simp (maxDischargeDepth := 20) [-modLine_eq, -modPosition_eq, switchSegment, *]
@[simp] theorem configKept_formUpdate (n : Nat) (ops : Table UpdOp) (h : ConfigKept s₀ s) : ConfigKept s₀ (formUpdate s n ops) := by
  unfold formUpdate; split <;> simp (maxDischargeDepth := 20) [-modLine_eq, -modPosition_eq, *]
@[simp] theorem configKept_countRefusal (n : Nat) (h : ConfigKept s₀ s) : ConfigKept s₀ (countRefusal s n) := by
  unfold countRefusal; dsimp only; split <;> simp (maxDischargeDepth := 20) [-modLine_eq, -modPosition_eq, *]
@[simp] theorem configKept_countRejectedRing (n : Nat) (h : ConfigKept s₀ s) : ConfigKept s₀ (countRejectedRing s n) := by
  unfold countRejectedRing; split <;> simp (maxDischargeDepth := 20) [-modLine_eq, -modPosition_eq, *]
@[simp] theorem configKept_endMeasurement (n : Nat) (h : ConfigKept s₀ s) : ConfigKept s₀ (endMeasurement s n).1 := by
  unfold endMeasurement; dsimp only; (repeat' split) <;> simp (maxDischargeDepth := 20) [-modLine_eq, -modPosition_eq, *]

/-! ## Lines -/

@[simp] theorem configKept_refreshDim (p : Nat) (h : ConfigKept s₀ s) : ConfigKept s₀ (refreshDim s p) := by
  simp (maxDischargeDepth := 20) [-modLine_eq, -modPosition_eq, refreshDim, *]
@[simp] theorem configKept_complete (before : State) (h : ConfigKept s₀ s) : ConfigKept s₀ (complete before s) := by
  refine configKept_postMirrors before ?_
  unfold completePorts; split
  · exact h
  · exact configKept_foldl _ _ (fun s a h => by simp [-modLine_eq, -modPosition_eq, h]) (by simp [-modLine_eq, -modPosition_eq, h])
@[simp] theorem configKept_changeState (n : Nat) (new : LineState) (c : StateCause) (h : ConfigKept s₀ s) : ConfigKept s₀ (changeState s n new c) := by
  unfold changeState; dsimp only; (repeat' split) <;> simp (maxDischargeDepth := 20) [-modLine_eq, -modPosition_eq, *]
@[simp] theorem configKept_applyModes (n : Nat) (h : ConfigKept s₀ s) : ConfigKept s₀ (applyModes s n) := by
  unfold applyModes; dsimp only; (repeat' split) <;> simp (maxDischargeDepth := 20) [-modLine_eq, -modPosition_eq, *]
@[simp] theorem configKept_becomeConnected (n : Nat) (c : StateCause) (h : ConfigKept s₀ s) : ConfigKept s₀ (becomeConnected s n c) := by
  simp (maxDischargeDepth := 20) [-modLine_eq, -modPosition_eq, becomeConnected, *]
@[simp] theorem configKept_callEnd (n : Nat) (w : ReleaseCause) (h : ConfigKept s₀ s) : ConfigKept s₀ (callEnd s n w) := by
  simp (maxDischargeDepth := 20) [-modLine_eq, -modPosition_eq, callEnd, *]
@[simp] theorem configKept_enterClearing (n : Nat) (w : ReleaseCause) (c : StateCause) (b : Bool) (h : ConfigKept s₀ s) : ConfigKept s₀ (enterClearing s n w c b) := by
  unfold enterClearing; split <;> simp (maxDischargeDepth := 20) [-modLine_eq, -modPosition_eq, *]
@[simp] theorem configKept_releaseIfEmpty (n : Nat) (h : ConfigKept s₀ s) : ConfigKept s₀ (releaseIfEmpty s n) := by
  unfold releaseIfEmpty; dsimp only; (repeat' split) <;> simp (maxDischargeDepth := 20) [-modLine_eq, -modPosition_eq, *]
@[simp] theorem configKept_hcDrop (p : Party) (n : Nat) (h : ConfigKept s₀ s) : ConfigKept s₀ (hcDrop s p n) := by
  simp (maxDischargeDepth := 20) [-modLine_eq, -modPosition_eq, hcDrop, *]
@[simp] theorem configKept_removeParticipant (n : Nat) (p : Party) (h : ConfigKept s₀ s) : ConfigKept s₀ (removeParticipant s n p) := by
  simp (maxDischargeDepth := 20) [-modLine_eq, -modPosition_eq, removeParticipant, *]
@[simp] theorem configKept_leaveLine (p : Party) (n : Nat) (h : ConfigKept s₀ s) : ConfigKept s₀ (leaveLine s p n) := by
  unfold leaveLine; split <;> simp (maxDischargeDepth := 20) [-modLine_eq, -modPosition_eq, *]
@[simp] theorem configKept_setMode (n : Nat) (p : Party) (m : Mode) (h : ConfigKept s₀ s) : ConfigKept s₀ (setMode s n p m) := by
  simp (maxDischargeDepth := 20) [-modLine_eq, -modPosition_eq, setMode, *]
@[simp] theorem configKept_dropAll (n : Nat) (h : ConfigKept s₀ s) : ConfigKept s₀ (dropAll s n) := by
  unfold dropAll; refine configKept_modLine _ _ (fun _ => ⟨rfl, rfl⟩) ?_; exact configKept_foldl _ _ (fun s a h => by simp [-modLine_eq, -modPosition_eq, h]) h
@[simp] theorem configKept_dropAllComplete (n : Nat) (h : ConfigKept s₀ s) : ConfigKept s₀ (dropAllComplete s n) := by
  simp (maxDischargeDepth := 20) [-modLine_eq, -modPosition_eq, dropAllComplete, *]
@[simp] theorem configKept_recomputeReach (h : ConfigKept s₀ s) : ConfigKept s₀ (recomputeReach s) := by
  exact configKept_foldl _ _ (fun s a h => by simp [-modLine_eq, -modPosition_eq, h]) h
@[simp] theorem configKept_dropIntercom (p : Party) (c : Nat) (h : ConfigKept s₀ s) : ConfigKept s₀ (dropIntercom s p c) := by
  simp (maxDischargeDepth := 20) [-modLine_eq, -modPosition_eq, dropIntercom, *]
@[simp] theorem configKept_endIntercom (c : Nat) (w : IcmEnd) (h : ConfigKept s₀ s) : ConfigKept s₀ (endIntercom s c w) := by
  unfold endIntercom
  have k : ConfigKept s₀ (((s.call c).caller.toList ++ (s.call c).answerer.toList).foldl (fun s p => dropIntercom s p c) s) :=
    configKept_foldl _ _ (fun s a h => by simp [-modLine_eq, -modPosition_eq, h]) h
  exact configKept_recomputeReach (configKept_issue _ ((configKept_setCall _ _).mpr k))
@[simp] theorem configKept_pushEntry (p : Party) (e : CurEntry) (h : ConfigKept s₀ s) : ConfigKept s₀ (pushEntry p s e) := by
  cases e <;> simp (maxDischargeDepth := 20) [-modLine_eq, pushEntry, h]
@[simp] theorem configKept_pushCurrent (p : Party) (h : ConfigKept s₀ s) : ConfigKept s₀ (pushCurrent s p) := by
  exact configKept_foldl _ _ (fun s a h => by simp [-modLine_eq, -modPosition_eq, h]) h
@[simp] theorem configKept_setCurrent (p : Party) (e : CurEntry) (h : ConfigKept s₀ s) : ConfigKept s₀ (setCurrent s p e) := by
  simp (maxDischargeDepth := 20) [-modLine_eq, -modPosition_eq, setCurrent, *]
@[simp] theorem configKept_seizeLine (n i : Nat) (c : StateCause) (h : ConfigKept s₀ s) : ConfigKept s₀ (seizeLine s n i c) := by
  simp (maxDischargeDepth := 20) [-modLine_eq, -modPosition_eq, seizeLine, *]
@[simp] theorem configKept_seizeNailed (n : Nat) (f g : StateCause) (h : ConfigKept s₀ s) : ConfigKept s₀ (seizeNailed s n f g) := by
  unfold seizeNailed; split <;> simp (maxDischargeDepth := 20) [-modLine_eq, -modPosition_eq, *]
@[simp] theorem configKept_forceRelease (n : Nat) (h : ConfigKept s₀ s) : ConfigKept s₀ (forceRelease s n) := by
  unfold forceRelease; dsimp only; split <;> simp (maxDischargeDepth := 20) [-modLine_eq, -modPosition_eq, *]
@[simp] theorem configKept_pathLost (n f : Nat) (h : ConfigKept s₀ s) : ConfigKept s₀ (pathLost s n f) := by
  unfold pathLost; dsimp only; (repeat' split) <;> simp (maxDischargeDepth := 20) [-modLine_eq, -modPosition_eq, *]
@[simp] theorem configKept_ringEnds (n : Nat) (w : ReleaseCause) (c : StateCause) (h : ConfigKept s₀ s) : ConfigKept s₀ (ringEnds s n w c) := by
  simp (maxDischargeDepth := 20) [-modLine_eq, -modPosition_eq, ringEnds, *]
@[simp] theorem configKept_circuitFailed_failover (n f i : Nat) (h : ConfigKept s₀ s) : ConfigKept s₀ (circuitFailed.failover n f i s) := by
  unfold circuitFailed.failover; dsimp only; split <;> simp (maxDischargeDepth := 20) [-modLine_eq, -modPosition_eq, *]
@[simp] theorem configKept_circuitFailed (n f i : Nat) (c : StateCause) (h : ConfigKept s₀ s) : ConfigKept s₀ (circuitFailed s n f i c) := by
  unfold circuitFailed; dsimp only; (repeat' split) <;> simp (maxDischargeDepth := 20) [-modLine_eq, -modPosition_eq, *]
@[simp] theorem configKept_ownerLoses (c : Nat) (o : Option Nat) (w : StateCause) (h : ConfigKept s₀ s) : ConfigKept s₀ (ownerLoses s c o w) := by
  unfold ownerLoses; split <;> simp (maxDischargeDepth := 20) [-modLine_eq, -modPosition_eq, *]
@[simp] theorem configKept_completeSwitch (n c : Nat) (h : ConfigKept s₀ s) : ConfigKept s₀ (completeSwitch s n c) := by
  simp (maxDischargeDepth := 20) [-modLine_eq, -modPosition_eq, completeSwitch, *]

/-! ## Handsets -/

@[simp] theorem configKept_provideChannel (p : Party) (n : Nat) (h : ConfigKept s₀ s) : ConfigKept s₀ (provideChannel s p n) := by
  unfold provideChannel; split <;> simp (maxDischargeDepth := 20) [-modLine_eq, -modPosition_eq, *]
@[simp] theorem configKept_joinParticipant (p : Party) (n : Nat) (h : ConfigKept s₀ s) : ConfigKept s₀ (joinParticipant s p n) := by
  unfold joinParticipant; dsimp only; split <;> simp (maxDischargeDepth := 20) [-modLine_eq, -modPosition_eq, *]
@[simp] theorem configKept_answerRing (n : Nat) (h : ConfigKept s₀ s) : ConfigKept s₀ (answerRing s n) := by
  simp (maxDischargeDepth := 20) [-modLine_eq, -modPosition_eq, answerRing, *]
@[simp] theorem configKept_takeLine (n : Nat) (h : ConfigKept s₀ s) : ConfigKept s₀ (takeLine s n) := by
  unfold takeLine; (repeat' split) <;> simp (maxDischargeDepth := 20) [-modLine_eq, -modPosition_eq, *]
@[simp] theorem configKept_joinLine (p : Party) (n : Nat) (h : ConfigKept s₀ s) : ConfigKept s₀ (joinLine s p n) := by
  simp (maxDischargeDepth := 20) [-modLine_eq, -modPosition_eq, joinLine, *]
@[simp] theorem configKept_retrieveEffects (p : Party) (n : Nat) (h : ConfigKept s₀ s) : ConfigKept s₀ (retrieveEffects s p n) := by
  simp (maxDischargeDepth := 20) [-modLine_eq, -modPosition_eq, retrieveEffects, *]
@[simp] theorem configKept_retrieveLine (p : Party) (n : Nat) (h : ConfigKept s₀ s) : ConfigKept s₀ (retrieveLine s p n).1 := by
  unfold retrieveLine; dsimp only; (repeat' split) <;> simp (maxDischargeDepth := 20) [-modLine_eq, -modPosition_eq, *]
@[simp] theorem configKept_selectLine (p : Party) (n : Nat) (h : ConfigKept s₀ s) : ConfigKept s₀ (selectLine s p n).1 := by
  unfold selectLine; dsimp only; (repeat' split) <;> simp (maxDischargeDepth := 20) [-modLine_eq, -modPosition_eq, *]
@[simp] theorem configKept_releaseEntry (p : Party) (e : CurEntry) (h : ConfigKept s₀ s) : ConfigKept s₀ (releaseEntry p s e) := by
  cases e <;> simp (maxDischargeDepth := 20) [releaseEntry, h]
@[simp] theorem configKept_resumeTop (p : Party) (h : ConfigKept s₀ s) : ConfigKept s₀ (resumeTop s p) := by
  unfold resumeTop; split <;> simp (maxDischargeDepth := 20) [-modLine_eq, -modPosition_eq, *]
@[simp] theorem configKept_releaseHandset (p : Party) (h : ConfigKept s₀ s) : ConfigKept s₀ (releaseHandset s p) :=
  configKept_complete _ (configKept_resumeTop _ (configKept_foldl _ _ (fun s a h => by simp [-modLine_eq, -modPosition_eq, h]) h))
@[simp] theorem configKept_dropHandset (p : Party) (h : ConfigKept s₀ s) : ConfigKept s₀ (dropHandset s p) := by
  exact configKept_foldl _ _ (fun s a h => by simp [-modLine_eq, -modPosition_eq, h]) h
@[simp] theorem configKept_endCallsWhere (f : IcmRec → Bool) (w : IcmEnd) (h : ConfigKept s₀ s) : ConfigKept s₀ (endCallsWhere s f w) := by
  exact configKept_foldl _ _ (fun s a h => by dsimp only; split <;> simp [h]) h
@[simp] theorem configKept_setPending (n : Nat) (b : Bool) (h : ConfigKept s₀ s) : ConfigKept s₀ (setPending s n b) := by
  simp (maxDischargeDepth := 20) [-modLine_eq, -modPosition_eq, setPending, *]
@[simp] theorem configKept_changeEnabled (n : Nat) (a b : Bool) (h : ConfigKept s₀ s) : ConfigKept s₀ (changeEnabled s n a b) := by
  unfold changeEnabled; dsimp only; (repeat' split) <;> simp (maxDischargeDepth := 20) [-modLine_eq, -modPosition_eq, *]
@[simp] theorem configKept_disablePosition (p : Nat) (h : ConfigKept s₀ s) : ConfigKept s₀ (disablePosition s p) := by
  simp (maxDischargeDepth := 20) [-modLine_eq, -modPosition_eq, disablePosition, *]
@[simp] theorem configKept_enablePosition (p : Nat) (h : ConfigKept s₀ s) : ConfigKept s₀ (enablePosition s p) := by
  simp (maxDischargeDepth := 20) [-modLine_eq, -modPosition_eq, enablePosition, *]
@[simp] theorem configKept_removeHandset (p : Party) (h : ConfigKept s₀ s) : ConfigKept s₀ (removeHandset s p) := by
  simp (maxDischargeDepth := 20) [-modLine_eq, -modPosition_eq, removeHandset, *]
@[simp] theorem configKept_replaceChannel (p i : Nat) (c : ChanConfig) (h : ConfigKept s₀ s) : ConfigKept s₀ (replaceChannel s p i c) := by
  simp (maxDischargeDepth := 20) [-modLine_eq, -modPosition_eq, replaceChannel, *]
theorem configKept_ite {c : Prop} [Decidable c] {t u : State} (ht : ConfigKept s₀ t) (hu : ConfigKept s₀ u) :
    ConfigKept s₀ (if c then t else u) := by
  split <;> assumption

@[simp] theorem configKept_changePosition (p : Nat) (old new : PosConfig) (h : ConfigKept s₀ s) : ConfigKept s₀ (changePosition s p old new) := by
  unfold changePosition
  dsimp only
  have k : ∀ t, ConfigKept s₀ t → ConfigKept s₀ ((changedChannels old new).foldl
      (fun s i => replaceChannel s p i (Table.get ChanConfig.cold new.channels i)) t) :=
    fun t ht => configKept_foldl _ _ (fun s a h => by simp [-modLine_eq, -modPosition_eq, h]) ht
  have k2 := k _ (configKept_ite (c := old.present1 = true ∧ new.present1 = false)
    (configKept_removeHandset { pos := p, hs := 1 } (configKept_ite (c := old.present0 = true ∧ new.present0 = false)
      (configKept_removeHandset { pos := p, hs := 0 } h) h))
    (configKept_ite (c := old.present0 = true ∧ new.present0 = false) (configKept_removeHandset { pos := p, hs := 0 } h) h))
  exact configKept_recomputeReach (configKept_foldl _ _ (fun s a h => by simp [-modLine_eq, -modPosition_eq, h]) (configKept_ite k2 (configKept_recomputePorts _ k2)))
@[simp] theorem configKept_disableChannel (ch : Nat) (h : ConfigKept s₀ s) : ConfigKept s₀ (disableChannel s ch) := by
  unfold disableChannel; dsimp only; split <;> simp (maxDischargeDepth := 20) [-modLine_eq, -modPosition_eq, *]
@[simp] theorem configKept_enableChannel (ch : Nat) (h : ConfigKept s₀ s) : ConfigKept s₀ (enableChannel s ch) := by
  unfold enableChannel; dsimp only; split <;> simp (maxDischargeDepth := 20) [-modLine_eq, -modPosition_eq, *]
@[simp] theorem configKept_Machine_setSpeaker (p i : Nat) (r : Source) (m : Mix) (h : ConfigKept s₀ s) : ConfigKept s₀ (Machine.setSpeaker s p i r m).1 := by
  unfold Machine.setSpeaker; dsimp only; (repeat' split) <;> simp (maxDischargeDepth := 20) [-modLine_eq, -modPosition_eq, *]
@[simp] theorem configKept_setVolume (p i c : Nat) (h : ConfigKept s₀ s) : ConfigKept s₀ (setVolume s p i c).1 := by
  unfold setVolume; dsimp only; split <;> simp (maxDischargeDepth := 20) [-modLine_eq, -modPosition_eq, *]
@[simp] theorem configKept_setPtt (p i : Nat) (b : Bool) (h : ConfigKept s₀ s) : ConfigKept s₀ (setPtt s p i b).1 := by
  unfold setPtt; dsimp only; (repeat' split) <;> simp (maxDischargeDepth := 20) [-modLine_eq, -modPosition_eq, *]

/-! ## The link -/

@[simp] theorem configKept_signalUnknown (c : Nat) (h : ConfigKept s₀ s) : ConfigKept s₀ (signalUnknown s c) := by
  simp (maxDischargeDepth := 20) [-modLine_eq, -modPosition_eq, signalUnknown, *]
@[simp] theorem configKept_signalState (c : Nat) (h : ConfigKept s₀ s) : ConfigKept s₀ (signalState s c) := by
  simp (maxDischargeDepth := 20) [-modLine_eq, -modPosition_eq, signalState, *]
@[simp] theorem configKept_putInUse (c : Nat) (h : ConfigKept s₀ s) : ConfigKept s₀ (putInUse s c) := by
  simp (maxDischargeDepth := 20) [-modLine_eq, -modPosition_eq, putInUse, *]
@[simp] theorem configKept_acknowledge (n c : Nat) (h : ConfigKept s₀ s) : ConfigKept s₀ (acknowledge s n c) := by
  unfold acknowledge; dsimp only; split <;> simp (maxDischargeDepth := 20) [-modLine_eq, -modPosition_eq, *]
@[simp] theorem configKept_farAnswered (n c : Nat) (h : ConfigKept s₀ s) : ConfigKept s₀ (farAnswered s n c) := by
  simp (maxDischargeDepth := 20) [-modLine_eq, -modPosition_eq, farAnswered, *]
@[simp] theorem configKept_failoverTaken (n c : Nat) (h : ConfigKept s₀ s) : ConfigKept s₀ (failoverTaken s n c) := by
  simp (maxDischargeDepth := 20) [-modLine_eq, -modPosition_eq, failoverTaken, *]
@[simp] theorem configKept_seizeAckOn (c : Nat) (h : ConfigKept s₀ s) : ConfigKept s₀ (seizeAckOn s c) := by
  unfold seizeAckOn; dsimp only; (repeat' split) <;> simp (maxDischargeDepth := 20) [-modLine_eq, -modPosition_eq, *]
@[simp] theorem configKept_farAnswerOn (c : Nat) (h : ConfigKept s₀ s) : ConfigKept s₀ (farAnswerOn s c) := by
  unfold farAnswerOn; dsimp only; (repeat' split) <;> simp (maxDischargeDepth := 20) [-modLine_eq, -modPosition_eq, *]
@[simp] theorem configKept_acceptRing (n c : Nat) (h : ConfigKept s₀ s) : ConfigKept s₀ (acceptRing s n c) := by
  simp (maxDischargeDepth := 20) [-modLine_eq, -modPosition_eq, acceptRing, *]
@[simp] theorem configKept_rejectRing (c : Nat) (t : Option Nat) (h : ConfigKept s₀ s) : ConfigKept s₀ (rejectRing s c t) := by
  unfold rejectRing; split <;> simp (maxDischargeDepth := 20) [-modLine_eq, -modPosition_eq, *]
@[simp] theorem configKept_ringDetectOn (c : Nat) (h : ConfigKept s₀ s) : ConfigKept s₀ (ringDetectOn s c) := by
  unfold ringDetectOn; (repeat' split) <;> simp (maxDischargeDepth := 20) [-modLine_eq, -modPosition_eq, *]
@[simp] theorem configKept_freeRinging (c : Nat) (h : ConfigKept s₀ s) : ConfigKept s₀ (freeRinging s c) := by
  simp (maxDischargeDepth := 20) [-modLine_eq, -modPosition_eq, freeRinging, *]
@[simp] theorem configKept_clearCall (n c : Nat) (l : LineRec) (h : ConfigKept s₀ s) : ConfigKept s₀ (clearCall s n c l) := by
  unfold clearCall; (repeat' split) <;> simp (maxDischargeDepth := 20) [-modLine_eq, -modPosition_eq, *]
@[simp] theorem configKept_farClearOn (c : Nat) (h : ConfigKept s₀ s) : ConfigKept s₀ (farClearOn s c) := by
  unfold farClearOn; dsimp only; (repeat' split) <;> simp (maxDischargeDepth := 20) [-modLine_eq, -modPosition_eq, *]
@[simp] theorem configKept_markWentDown (c : Nat) (h : ConfigKept s₀ s) : ConfigKept s₀ (markWentDown s c) := by
  unfold markWentDown; (repeat' split) <;> simp (maxDischargeDepth := 20) [-modLine_eq, -modPosition_eq, *]
@[simp] theorem configKept_takeDown (c : Nat) (h : ConfigKept s₀ s) : ConfigKept s₀ (takeDown s c) := by
  simp (maxDischargeDepth := 20) [-modLine_eq, -modPosition_eq, takeDown, *]
@[simp] theorem configKept_circuitDownOn (c : Nat) (h : ConfigKept s₀ s) : ConfigKept s₀ (circuitDownOn s c) := by
  unfold circuitDownOn; (repeat' split) <;> simp (maxDischargeDepth := 20) [-modLine_eq, -modPosition_eq, *]
@[simp] theorem configKept_bringBack (n : Nat) (h : ConfigKept s₀ s) : ConfigKept s₀ (bringBack s n) := by
  unfold bringBack; split <;> simp (maxDischargeDepth := 20) [-modLine_eq, -modPosition_eq, *]
@[simp] theorem configKept_bringBackAll (c : Nat) (h : ConfigKept s₀ s) : ConfigKept s₀ (bringBackAll s c) := by
  unfold bringBackAll; split
  · exact configKept_foldl _ _ (fun s a h => by simp [-modLine_eq, -modPosition_eq, h]) h
  · exact h
@[simp] theorem configKept_circuitUpOn (c : Nat) (h : ConfigKept s₀ s) : ConfigKept s₀ (circuitUpOn s c) := by
  unfold circuitUpOn; (repeat' split) <;> simp (maxDischargeDepth := 20) [-modLine_eq, -modPosition_eq, *]
@[simp] theorem configKept_resetDoneOn (c : Nat) (h : ConfigKept s₀ s) : ConfigKept s₀ (resetDoneOn s c) := by
  unfold resetDoneOn; dsimp only; (repeat' split) <;> simp (maxDischargeDepth := 20) [-modLine_eq, -modPosition_eq, *]
@[simp] theorem configKept_startAckWait (c : Nat) (h : ConfigKept s₀ s) : ConfigKept s₀ (startAckWait s c) := by
  unfold startAckWait; split <;> simp (maxDischargeDepth := 20) [-modLine_eq, -modPosition_eq, *]
@[simp] theorem configKept_sendEnds (m : LinkMsg) (h : ConfigKept s₀ s) : ConfigKept s₀ (sendEnds s m) := by
  unfold sendEnds; (repeat' split) <;> simp (maxDischargeDepth := 20) [-modLine_eq, -modPosition_eq, *]
@[simp] theorem configKept_cadence (n : Nat) (w : LinkState) (p : SignalPurpose) (k : Nat) (h : ConfigKept s₀ s) : ConfigKept s₀ (cadence s n w p k) := by
  simp (maxDischargeDepth := 20) [-modLine_eq, -modPosition_eq, cadence, *]
@[simp] theorem configKept_ackWaitExpires (n : Nat) (h : ConfigKept s₀ s) : ConfigKept s₀ (ackWaitExpires s n) := by
  unfold ackWaitExpires; split <;> simp (maxDischargeDepth := 20) [-modLine_eq, -modPosition_eq, *]
@[simp] theorem configKept_noAnswerExpires (n : Nat) (h : ConfigKept s₀ s) : ConfigKept s₀ (noAnswerExpires s n) := by
  simp (maxDischargeDepth := 20) [-modLine_eq, -modPosition_eq, noAnswerExpires, *]
@[simp] theorem configKept_ringInExpires (n : Nat) (h : ConfigKept s₀ s) : ConfigKept s₀ (ringInExpires s n) := by
  simp (maxDischargeDepth := 20) [-modLine_eq, -modPosition_eq, ringInExpires, *]
@[simp] theorem configKept_freeCircuit (n : Nat) (h : ConfigKept s₀ s) : ConfigKept s₀ (freeCircuit s n) := by
  unfold freeCircuit; split <;> simp (maxDischargeDepth := 20) [-modLine_eq, -modPosition_eq, *]
@[simp] theorem configKept_guardExpires (n : Nat) (h : ConfigKept s₀ s) : ConfigKept s₀ (guardExpires s n) := by
  unfold guardExpires; dsimp only; (repeat' split) <;> simp (maxDischargeDepth := 20) [-modLine_eq, -modPosition_eq, *]
@[simp] theorem configKept_burstExpires (n : Nat) (h : ConfigKept s₀ s) : ConfigKept s₀ (burstExpires s n) := by
  simp (maxDischargeDepth := 20) [-modLine_eq, -modPosition_eq, burstExpires, *]

/-! ## Requests -/

@[simp] theorem configKept_ownSelect (ws : List Word) (h : ConfigKept s₀ s) : ConfigKept s₀ (ownSelect s ws).1 := by
  unfold ownSelect; dsimp only; (repeat' split) <;> simp (maxDischargeDepth := 20) [-modLine_eq, -modPosition_eq, *]
@[simp] theorem configKept_ownAnswer (ws : List Word) (h : ConfigKept s₀ s) : ConfigKept s₀ (ownAnswer s ws).1 := by
  unfold ownAnswer; dsimp only; split <;> simp (maxDischargeDepth := 20) [-modLine_eq, -modPosition_eq, *]
@[simp] theorem configKept_setPrivacy (p : Party) (n : Nat) (b : Bool) (h : ConfigKept s₀ s) : ConfigKept s₀ (setPrivacy s p n b).1 := by
  unfold setPrivacy; dsimp only; (repeat' split) <;> simp (maxDischargeDepth := 20) [-modLine_eq, -modPosition_eq, *]
@[simp] theorem configKept_ownPrivacy (ws : List Word) (h : ConfigKept s₀ s) : ConfigKept s₀ (ownPrivacy s ws).1 := by
  unfold ownPrivacy; dsimp only; (repeat' split) <;> simp (maxDischargeDepth := 20) [-modLine_eq, -modPosition_eq, *]
@[simp] theorem configKept_ownForceRelease (ws : List Word) (h : ConfigKept s₀ s) : ConfigKept s₀ (ownForceRelease s ws).1 := by
  unfold ownForceRelease; dsimp only; (repeat' split) <;> simp (maxDischargeDepth := 20) [-modLine_eq, -modPosition_eq, *]
@[simp] theorem configKept_serviceOut (n : Nat) (h : ConfigKept s₀ s) : ConfigKept s₀ (serviceOut s n).1 := by
  unfold serviceOut; dsimp only; (repeat' split) <;> simp (maxDischargeDepth := 20) [-modLine_eq, -modPosition_eq, *]
@[simp] theorem configKept_serviceIn (n : Nat) (h : ConfigKept s₀ s) : ConfigKept s₀ (serviceIn s n).1 := by
  unfold serviceIn; dsimp only; (repeat' split) <;> simp (maxDischargeDepth := 20) [-modLine_eq, -modPosition_eq, *]
@[simp] theorem configKept_ownLineService (ws : List Word) (h : ConfigKept s₀ s) : ConfigKept s₀ (ownLineService s ws).1 := by
  unfold ownLineService; dsimp only; (repeat' split) <;> simp (maxDischargeDepth := 20) [-modLine_eq, -modPosition_eq, *]
@[simp] theorem configKept_startBurst (n : Nat) (h : ConfigKept s₀ s) : ConfigKept s₀ (startBurst s n) := by
  simp (maxDischargeDepth := 20) [-modLine_eq, -modPosition_eq, startBurst, *]
@[simp] theorem configKept_ownSignal (ws : List Word) (h : ConfigKept s₀ s) : ConfigKept s₀ (ownSignal s ws).1 := by
  unfold ownSignal; dsimp only; (repeat' split) <;> simp (maxDischargeDepth := 20) [-modLine_eq, -modPosition_eq, *]
@[simp] theorem configKept_resetCircuit (c : Nat) (h : ConfigKept s₀ s) : ConfigKept s₀ (resetCircuit s c) := by
  simp (maxDischargeDepth := 20) [-modLine_eq, -modPosition_eq, resetCircuit, *]
@[simp] theorem configKept_ownCircuitReset (ws : List Word) (h : ConfigKept s₀ s) : ConfigKept s₀ (ownCircuitReset s ws).1 := by
  unfold ownCircuitReset; dsimp only; (repeat' split) <;> simp (maxDischargeDepth := 20) [-modLine_eq, -modPosition_eq, *]
@[simp] theorem configKept_ownRelease (ws : List Word) (h : ConfigKept s₀ s) : ConfigKept s₀ (ownRelease s ws).1 := by
  unfold ownRelease; dsimp only; split <;> simp (maxDischargeDepth := 20) [-modLine_eq, -modPosition_eq, *]
@[simp] theorem configKept_ownHold (ws : List Word) (h : ConfigKept s₀ s) : ConfigKept s₀ (ownHold s ws).1 := by
  unfold ownHold; dsimp only; (repeat' split) <;> simp (maxDischargeDepth := 20) [-modLine_eq, -modPosition_eq, *]
@[simp] theorem configKept_ownRetrieve (ws : List Word) (h : ConfigKept s₀ s) : ConfigKept s₀ (ownRetrieve s ws).1 := by
  unfold ownRetrieve; dsimp only; split <;> simp (maxDischargeDepth := 20) [-modLine_eq, -modPosition_eq, *]
@[simp] theorem configKept_joinTop (p : Party) (n : Nat) (h : ConfigKept s₀ s) : ConfigKept s₀ (joinTop s p n) := by
  simp (maxDischargeDepth := 20) [-modLine_eq, -modPosition_eq, joinTop, *]
@[simp] theorem configKept_ownJoin (ws : List Word) (h : ConfigKept s₀ s) : ConfigKept s₀ (ownJoin s ws).1 := by
  unfold ownJoin; dsimp only; (repeat' split) <;> simp (maxDischargeDepth := 20) [-modLine_eq, -modPosition_eq, *]
@[simp] theorem configKept_placeCall (p : Party) (t : IcmTarget) (h : ConfigKept s₀ s) : ConfigKept s₀ (placeCall s p t) := by
  unfold placeCall; dsimp only; split <;> simp (maxDischargeDepth := 20) [-modLine_eq, -modPosition_eq, *]
@[simp] theorem configKept_ownIntercomCall (ws : List Word) (h : ConfigKept s₀ s) : ConfigKept s₀ (ownIntercomCall s ws).1 := by
  unfold ownIntercomCall; dsimp only; (repeat' split) <;> simp (maxDischargeDepth := 20) [-modLine_eq, -modPosition_eq, *]
@[simp] theorem configKept_answerCall (p : Party) (c : Nat) (h : ConfigKept s₀ s) : ConfigKept s₀ (answerCall s p c) := by
  simp (maxDischargeDepth := 20) [-modLine_eq, -modPosition_eq, answerCall, *]
@[simp] theorem configKept_ownIntercomAnswer (ws : List Word) (h : ConfigKept s₀ s) : ConfigKept s₀ (ownIntercomAnswer s ws).1 := by
  unfold ownIntercomAnswer; dsimp only; (repeat' split) <;> simp (maxDischargeDepth := 20) [-modLine_eq, -modPosition_eq, *]
@[simp] theorem configKept_ownNop (ws : List Word) (h : ConfigKept s₀ s) : ConfigKept s₀ (ownNop s ws).1 := by
  simp (maxDischargeDepth := 20) [-modLine_eq, -modPosition_eq, ownNop, *]
@[simp] theorem configKept_ownSpeakerSet (ws : List Word) (h : ConfigKept s₀ s) : ConfigKept s₀ (ownSpeakerSet s ws).1 := by
  unfold ownSpeakerSet; dsimp only; (repeat' split) <;> simp (maxDischargeDepth := 20) [-modLine_eq, -modPosition_eq, *]
@[simp] theorem configKept_ownSpeakerVolume (ws : List Word) (h : ConfigKept s₀ s) : ConfigKept s₀ (ownSpeakerVolume s ws).1 := by
  unfold ownSpeakerVolume; dsimp only; split <;> simp (maxDischargeDepth := 20) [-modLine_eq, -modPosition_eq, *]
@[simp] theorem configKept_ownPtt (ws : List Word) (h : ConfigKept s₀ s) : ConfigKept s₀ (ownPtt s ws).1 := by
  unfold ownPtt; dsimp only; (repeat' split) <;> simp (maxDischargeDepth := 20) [-modLine_eq, -modPosition_eq, *]
@[simp] theorem configKept_ownMeasureMode (ws : List Word) (h : ConfigKept s₀ s) : ConfigKept s₀ (ownMeasureMode s ws).1 := by
  unfold ownMeasureMode; dsimp only; (repeat' split) <;> exact h.trans ⟨fun _ => ⟨rfl, rfl⟩, fun _ => ⟨rfl, rfl⟩, rfl, rfl, fun _ => ⟨rfl, rfl⟩, rfl⟩
@[simp] theorem configKept_ownSetAttention (ws : List Word) (h : ConfigKept s₀ s) : ConfigKept s₀ (ownSetAttention s ws).1 := by
  unfold ownSetAttention; dsimp only; split <;> exact h.trans ⟨fun _ => ⟨rfl, rfl⟩, fun _ => ⟨rfl, rfl⟩, rfl, rfl, fun _ => ⟨rfl, rfl⟩, rfl⟩
@[simp] theorem configKept_ownQuiesce (ws : List Word) (h : ConfigKept s₀ s) : ConfigKept s₀ (ownQuiesce s ws).1 := by
  unfold ownQuiesce; split <;> simp (maxDischargeDepth := 20) [-modLine_eq, -modPosition_eq, *]
@[simp] theorem configKept_ownResume (ws : List Word) (h : ConfigKept s₀ s) : ConfigKept s₀ (ownResume s ws).1 := by
  unfold ownResume; split <;> simp (maxDischargeDepth := 20) [-modLine_eq, -modPosition_eq, *]

end Sys2Proof.Machine
end

