-- ==== Sys2Proof/Laws/Invariants.lean ====
section
/-!
SUPPORT. `Kept` for start-up, restart and the end of a command, and what processor accesses and the memory port keep.
-/

namespace Sys2Proof.Machine

variable {s₀ s : State}

/-! ## Start-up -/

/-- Entry to LOADING, from WAITING or from the end of a restart drain (R171, R177). -/
theorem kept_enterLoading (hw : s.su.part = .waiting ∨ s.su.draining = true) (h : Kept s₀ s) : Kept s₀ (enterLoading s) := by
  refine h.trans ⟨rfl, rfl, rfl, rfl, rfl, rfl, fun k => ⟨k.1, k.2, k.3, k.4⟩, fun k => ?_, fun k => ?_⟩
  · refine ⟨k.1, k.2, ?_, k.4, k.5, k.6, k.7, k.8⟩
    have := k.fltHead
    cases hm : s.su.restartMark <;> simp [enterLoading, stopMixer, hm, this]
  · cases hm : s.su.restartMark with
    | true => exact ⟨by simpa [enterLoading, stopMixer, hm, EU.unreadFaults] using k.unread, by simp [enterLoading, stopMixer, hm], by simp [enterLoading]⟩
    | false =>
      have hd : s.su.draining ≠ true := fun hd => by simp [k.drain hd] at hm
      have hz := k.first hm (.inl (hw.resolve_right hd))
      exact ⟨by simp [enterLoading, stopMixer, hm, EU.unreadFaults, hz], fun _ _ => hz, by simp [enterLoading]⟩

@[simp] theorem kept_failLoad (n : Nat) (b : Bool) (h : Kept s₀ s) : Kept s₀ (failLoad s n b) := by
  unfold failLoad
  dsimp only
  have k := kept_raiseFault { code := .configLoad, ext := false, table := b, subject := n } h
  split
  · next hl => exact k.trans ⟨rfl, rfl, rfl, rfl, rfl, rfl, id, fun k => ⟨k.1, k.2, k.3, k.4, k.5, k.6, k.7, k.8⟩,
      fun k => ⟨k.1, fun hm _ => k.first hm (.inr hl), k.3⟩⟩
  · exact k

@[simp] theorem kept_adoptDescriptor (ws : List Word) (h : Kept s₀ s) : Kept s₀ (adoptDescriptor s ws) := by
  unfold adoptDescriptor
  refine kept_postAll _ (h.trans ⟨rfl, rfl, rfl, rfl, rfl, rfl, id, fun k => ?_, fun k => ⟨k.1, k.2, k.3⟩⟩)
  exact ⟨Nat.zero_lt_succ _, Nat.zero_lt_succ _, k.3, k.4, Nat.zero_le _, k.6, Nat.zero_lt_succ _, Nat.zero_lt_succ _⟩

@[simp] theorem kept_startTables (h : Kept s₀ s) : Kept s₀ (startTables s) :=
  h.trans ⟨rfl, rfl, rfl, rfl, rfl, rfl, fun k => ⟨k.1, k.2, k.3, k.4⟩, fun k => ⟨k.1, k.2, k.3, k.4, k.5, k.6, k.7, k.8⟩,
    fun k => ⟨k.1, k.2, k.3⟩⟩

@[simp] theorem kept_checkDescriptor (h : Kept s₀ s) : Kept s₀ (checkDescriptor s) := by
  unfold checkDescriptor
  dsimp only
  have k : Kept s₀ { s with bi := { s.bi with startCopy := wordOf ((List.range 64).map (partRead s)) 0 } } :=
    h.trans ⟨rfl, rfl, rfl, rfl, rfl, rfl, fun k => ⟨k.1, k.2, k.3, k.4⟩, fun k => ⟨k.1, k.2, k.3, k.4, k.5, k.6, k.7, k.8⟩,
      fun k => ⟨k.1, k.2, k.3⟩⟩
  split
  · exact kept_failLoad _ _ k
  · exact kept_startTables (kept_adoptDescriptor _ k)

@[simp] theorem kept_readEntry (a b : Nat) (h : Kept s₀ s) : Kept s₀ (readEntry s a b) := by
  exact kept_foldl _ _ (fun s a h => by simp [h]) h
@[simp] theorem kept_unnameCircuit (c : Nat) (h : Kept s₀ s) : Kept s₀ (unnameCircuit s c) := by
  unfold unnameCircuit; split <;> simp (maxDischargeDepth := 9) [*]
@[simp] theorem kept_replaceLine (n : Nat) (cfg : LineConfig) (b : Bool) (h : Kept s₀ s) : Kept s₀ (replaceLine s n cfg b) :=
  kept_renameCircuits _ (kept_foldl _ _ (fun _ c h => kept_unnameCircuit c h) (by simp [h]))
@[simp] theorem kept_loadLine (n : Nat) (h : Kept s₀ s) : Kept s₀ (loadLine s n) := by
  unfold loadLine; dsimp only; split <;> simp (maxDischargeDepth := 9) [*]
@[simp] theorem kept_loadPosition (n : Nat) (h : Kept s₀ s) : Kept s₀ (loadPosition s n) := by
  unfold loadPosition; dsimp only; split <;> simp (maxDischargeDepth := 9) [*]
@[simp] theorem kept_loadKey (n : Nat) (h : Kept s₀ s) : Kept s₀ (loadKey s n) := by simp (maxDischargeDepth := 9) [loadKey, *]
@[simp] theorem kept_loadBridge (n : Nat) (h : Kept s₀ s) : Kept s₀ (loadBridge s n) := by
  unfold loadBridge; dsimp only; split <;> simp (maxDischargeDepth := 9) [*]
@[simp] theorem kept_loadRecorder (n : Nat) (h : Kept s₀ s) : Kept s₀ (loadRecorder s n) := kept_readEntry _ _ h
@[simp] theorem kept_loadItem (i : LoadItem) (h : Kept s₀ s) : Kept s₀ (loadItem s i) := by cases i <;> simp [loadItem, h]
@[simp] theorem kept_deriveLine (n : Nat) (h : Kept s₀ s) : Kept s₀ (deriveLine s n) := by simp (maxDischargeDepth := 9) [deriveLine, *]
@[simp] theorem kept_deriveSpeaker (n : Nat) (h : Kept s₀ s) : Kept s₀ (deriveSpeaker s n) := by
  unfold deriveSpeaker; dsimp only; split <;> simp (maxDischargeDepth := 9) [*]
@[simp] theorem kept_deriveChannel (n : Nat) (h : Kept s₀ s) : Kept s₀ (deriveChannel s n) := by
  unfold deriveChannel; split <;> simp (maxDischargeDepth := 9) [*]
@[simp] theorem kept_derivePort (n : Nat) (h : Kept s₀ s) : Kept s₀ (derivePort s n) := by
  unfold derivePort; (repeat' split) <;> simp (maxDischargeDepth := 9) [*]
theorem kept_withLoadLeft (n : Nat) (h : Kept s₀ s) : Kept s₀ { s with bi := { s.bi with loadLeft := n } } :=
  h.trans ⟨rfl, rfl, rfl, rfl, rfl, rfl, fun k => ⟨k.1, k.2, k.3, k.4⟩, fun k => ⟨k.1, k.2, k.3, k.4, k.5, k.6, k.7, k.8⟩,
    fun k => ⟨k.1, k.2, k.3⟩⟩
@[simp] theorem kept_discardRecording (h : Kept s₀ s) : Kept s₀ (discardRecording s) := h.trans (.of_core rfl)
@[simp] theorem kept_deriveState (h : Kept s₀ s) : Kept s₀ (deriveState s) := by
  unfold deriveState
  exact kept_withLoadLeft _ (kept_postAll _ ((kept_setLoad _).mpr (kept_foldl _ _ (fun s a h => kept_derivePort a h)
    (kept_foldl _ _ (fun s a h => kept_deriveChannel a h) (kept_discardRecording (kept_foldl _ _ (fun s a h => kept_deriveSpeaker a h)
      (kept_foldl _ _ (fun s a h => kept_deriveLine a h) h)))))))
@[simp] theorem kept_endLoad (h : Kept s₀ s) : Kept s₀ (endLoad s) := by
  unfold endLoad
  have k := kept_foldl seizeLoaded (nailedLines s) (fun s n h => kept_postMirrors s (kept_seizeNailed n .load .load h)) h
  refine kept_issue _ (k.trans ⟨rfl, rfl, rfl, rfl, rfl, rfl, id, fun k => ⟨k.1, k.2, k.3, k.4, k.5, Nat.zero_le _, k.7, k.8⟩, fun k => ?_⟩)
  exact ⟨k.1, by simp, k.3⟩

/-! ## Restart -/

@[simp] theorem kept_tearCircuit (n : Nat) (h : Kept s₀ s) : Kept s₀ (tearCircuit s n) := by
  unfold tearCircuit; split <;> simp (maxDischargeDepth := 9) [*]
@[simp] theorem kept_tearLine (n : Nat) (h : Kept s₀ s) : Kept s₀ (tearLine s n) := by simp (maxDischargeDepth := 9) [tearLine, *]
@[simp] theorem kept_tearPort (n : Nat) (h : Kept s₀ s) : Kept s₀ (tearPort s n) := by simp (maxDischargeDepth := 9) [tearPort, *]

@[simp] theorem kept_tearCalls (h : Kept s₀ s) : Kept s₀ (tearCalls s) :=
  kept_foldl _ _ (fun _ n h => kept_tearLine n h) (kept_foldl _ _ (fun _ n h => kept_tearCircuit n h) h)

@[simp] theorem kept_clearCalls (h : Kept s₀ s) : Kept s₀ (clearCalls s) := h.trans (.of_core rfl)

@[simp] theorem kept_tearPorts (h : Kept s₀ s) : Kept s₀ (tearPorts s) := kept_foldl _ _ (fun _ n h => kept_tearPort n h) h

@[simp] theorem kept_beginDrain (h : Kept s₀ s) : Kept s₀ (beginDrain s) :=
  h.trans ⟨rfl, rfl, rfl, rfl, rfl, rfl, fun k => ⟨k.1, k.2, k.3, k.4⟩, fun k => ⟨k.1, k.2, k.3, k.4, k.5, k.6, k.7, k.8⟩,
    fun k => ⟨k.1, fun hm => Bool.noConfusion hm, fun _ => rfl⟩⟩

@[simp] theorem kept_restart (h : Kept s₀ s) : Kept s₀ (restart s) := by simp (maxDischargeDepth := 9) [restart, h]

/-! ## The end of a command -/

@[simp] theorem kept_askPort (h : Kept s₀ s) : Kept s₀ (askPort s) :=
  h.trans ⟨rfl, rfl, rfl, rfl, rfl, rfl, fun k => ⟨k.1, k.2, k.3, k.4⟩, fun k => ⟨k.1, k.2, k.3, k.4, k.5, k.6, k.7, k.8⟩,
    fun k => ⟨k.1, k.2, k.3⟩⟩

@[simp] theorem kept_refreshAttention (h : Kept s₀ s) : Kept s₀ (refreshAttention s) :=
  h.trans ⟨rfl, rfl, rfl, rfl, rfl, rfl, id, fun k => ⟨k.1, k.2, k.3, k.4, k.5, k.6, k.7, k.8⟩, fun k => ⟨k.1, k.2, k.3⟩⟩

@[simp] theorem kept_settle (b : State) (h : Kept s₀ s) : Kept s₀ (settle b s) := by simp (maxDischargeDepth := 9) [settle, *]
@[simp] theorem kept_settleQuietly (h : Kept s₀ s) : Kept s₀ (settleQuietly s) := by simp (maxDischargeDepth := 9) [settleQuietly, *]

theorem attention_refreshAttention (s : State) : AttentionOk (refreshAttention s) := rfl

theorem attention_settle (before s : State) : AttentionOk (settle before s) := attention_refreshAttention _

theorem attention_settleQuietly (s : State) : AttentionOk (settleQuietly s) := attention_refreshAttention _

/-! ## Processor accesses -/

/-- What a processor write of the part's own words does, besides its passing to the SRAM, keeps what `Kept` says. -/
@[simp] theorem kept_writeFault (c : FaultCode) (o : Nat) (h : Kept s₀ s) : Kept s₀ (writeFault s c o) := kept_raiseFault _ h

@[simp] theorem kept_writeReqTail (d : Word) (e : ByteEnables) (h : Kept s₀ s) : Kept s₀ (writeReqTail s d e) := by
  unfold writeReqTail
  dsimp only
  split
  · next hv => exact h.trans ⟨rfl, rfl, rfl, rfl, rfl, rfl, id, fun k => ⟨k.1, k.2, k.3, k.4, k.5, k.6, k.7, by simp only; omega⟩,
      fun k => ⟨k.1, k.2, k.3⟩⟩
  · exact kept_writeFault _ _ h

@[simp] theorem kept_writeEvtRead (d : Word) (e : ByteEnables) (h : Kept s₀ s) : Kept s₀ (writeEvtRead s d e) := by
  unfold writeEvtRead
  dsimp only
  split
  · next hv => exact h.trans ⟨rfl, rfl, rfl, rfl, rfl, rfl, id, fun k => ⟨k.1, by simp only; omega, k.3, k.4, k.5, k.6, k.7, k.8⟩,
      fun k => ⟨k.1, k.2, k.3⟩⟩
  · exact kept_writeFault _ _ h

/-- The part copies only when it is past its first load (R127, R169). -/
@[simp] theorem kept_writeFltRead (d : Word) (e : ByteEnables) (hp : s.su.part.copying = true) (h : Kept s₀ s) :
    Kept s₀ (writeFltRead s d e) := by
  unfold writeFltRead
  dsimp only
  split
  · next hv =>
    refine h.trans ⟨rfl, rfl, rfl, rfl, rfl, rfl, id, fun k => ⟨k.1, k.2, k.3, by simp only; omega, k.5, k.6, k.7, k.8⟩, fun k => ?_⟩
    refine ⟨by simpa [EU.unreadFaults] using hv.2, fun _ hw => ?_, k.3⟩
    rcases hw with hw | hw <;> (simp only at hw; simp [hw, PartState.copying, PartState.carries] at hp)
  · exact kept_writeFault _ _ h

@[simp] theorem kept_writeStartWord (d : Word) (e : ByteEnables) (h : Kept s₀ s) : Kept s₀ (writeStartWord s d e) := by
  unfold writeStartWord
  dsimp only
  have k : Kept s₀ { s with bi := { s.bi with startCopy := mergeBytes s.bi.startCopy d e } } :=
    h.trans ⟨rfl, rfl, rfl, rfl, rfl, rfl, fun k => ⟨k.1, k.2, k.3, k.4⟩, fun k => ⟨k.1, k.2, k.3, k.4, k.5, k.6, k.7, k.8⟩,
      fun k => ⟨k.1, k.2, k.3⟩⟩
  split
  · next hw => exact kept_enterLoading (.inl hw.1) k
  · exact k

@[simp] theorem kept_copyWrite (o : Nat) (d : Word) (e : ByteEnables) (hp : s.su.part.copying = true) (h : Kept s₀ s) :
    Kept s₀ (copyWrite s o d e) := by
  unfold copyWrite
  dsimp only
  (repeat' split) <;> simp (maxDischargeDepth := 9) [h, hp]

/-! ## What every step carries over -/

/-- Each invariant of Safety.lean that holds of one state holds of the other (the attention output has its own lemmas below). -/
structure Carries (s t : State) : Prop where
  memory : MemoryOk s → MemoryOk t
  queue  : QueueOk s.bi → QueueOk t.bi
  index  : IndexOk s → IndexOk t
  faults : FaultLogOk s → FaultLogOk t

theorem Carries.refl (s : State) : Carries s s := ⟨id, id, id, id⟩

theorem Carries.trans {a b c : State} (h : Carries a b) (k : Carries b c) : Carries a c :=
  ⟨k.memory ∘ h.memory, k.queue ∘ h.queue, k.index ∘ h.index, k.faults ∘ h.faults⟩

theorem Kept.carries {s t : State} (k : Kept s t) : Carries s t := ⟨fun h => by rw [MemoryOk, k.mem]; exact h, k.queue, k.index, k.faults⟩

/-- Every write to the SRAM keeps the canonical form. -/
theorem writeWord_wf (m : List Host.Cell) (a : Nat) (w : Word) (be : ByteEnables) (h : Memory.wf m = true) :
    Memory.wf (writeWord m a w be) = true := by
  simp only [writeWord]
  generalize List.range 4 = l
  induction l generalizing m with
  | nil => exact h
  | cons i l ih =>
    refine ih _ ?_
    dsimp only
    split
    · exact Table.wf_put _ _ _ _ h
    · exact h

theorem carries_writeSram (a : Nat) (d : Word) (e : ByteEnables) : Carries s (writeSram s a d e) :=
  ⟨writeWord_wf _ _ _ _, id, fun k => ⟨k.1, k.2, k.3, k.4, k.5, k.6, k.7, k.8⟩, fun k => ⟨k.1, k.2, k.3⟩⟩

theorem carries_takeWrite (o : Nat) (d : Word) (e : ByteEnables) : Carries s (takeWrite s o d e) := by
  unfold takeWrite
  dsimp only
  have k := carries_writeSram (s := s) (sramAddress s o) d e
  split
  · split
    · exact k.trans (kept_writeStartWord _ _ (Kept.rfl' _)).carries
    · split
      · next hp => exact k.trans (kept_copyWrite _ _ _ hp (Kept.rfl' _)).carries
      · exact k
  · split
    · exact (kept_writeFault _ _ (Kept.rfl' _)).carries
    · exact .refl _

theorem carries_readEffect (o : Nat) : Carries s (readEffect s o) := by
  unfold readEffect
  dsimp only
  (repeat' split) <;>
    exact ⟨id, fun k => ⟨k.1, k.2, k.3, k.4⟩,
      fun k => ⟨k.1, k.2, k.3, k.4, by first | exact k.5 | exact Nat.zero_le _, k.6, k.7, k.8⟩, fun k => ⟨k.1, k.2, k.3⟩⟩

theorem carries_withReadData (w : Word) : Carries s { s with bi := { s.bi with readData := w } } :=
  ⟨id, fun k => ⟨k.1, k.2, k.3, k.4⟩, fun k => ⟨k.1, k.2, k.3, k.4, k.5, k.6, k.7, k.8⟩, fun k => ⟨k.1, k.2, k.3⟩⟩

theorem carries_readSideEffect (a : Nat) : Carries s (readSideEffect s a) := by
  unfold readSideEffect
  (repeat' split) <;> first | exact carries_readEffect _ | exact .refl _

theorem carries_takeAccess (a : Access) : Carries s (takeAccess s a) := by
  unfold takeAccess takeRead
  split
  · split
    · exact carries_takeWrite _ _ _
    · exact carries_writeSram _ _ _
  · exact (carries_withReadData _).trans (carries_readSideEffect _)

theorem carries_withHeld (l : List Access) : Carries s { s with bi := { s.bi with held := l } } :=
  ⟨id, fun k => ⟨k.1, k.2, k.3, k.4⟩, fun k => ⟨k.1, k.2, k.3, k.4, k.5, k.6, k.7, k.8⟩, fun k => ⟨k.1, k.2, k.3⟩⟩

theorem carries_serveHeld (k : Nat) : Carries s (serveHeld k s) := by
  induction k generalizing s with
  | zero => exact .refl _
  | succ k ih =>
    unfold serveHeld
    split
    · exact .refl _
    · dsimp only
      split
      · exact .refl _
      · exact ((carries_withHeld _).trans (carries_takeAccess _)).trans (((kept_settle _ (Kept.rfl' _)).carries).trans ih)

theorem carries_finish (before : State) : Carries s (finish before s) :=
  (kept_settle _ (Kept.rfl' _)).carries.trans (carries_serveHeld _)

theorem carries_finishQuietly : Carries s (finishQuietly s) := (kept_settleQuietly (Kept.rfl' _)).carries.trans (carries_serveHeld _)

/-- The end of a command carries over what its effects carried over. -/
theorem Carries.done {before t u : State} (h : Carries s t) (hu : Machine.done before t = .next u) : Carries s u := by
  cases hu
  exact h.trans (carries_finish _)

theorem Carries.doneQuietly {t u : State} (h : Carries s t) (hu : Machine.doneQuietly t = .next u) : Carries s u := by
  cases hu
  exact h.trans carries_finishQuietly

theorem attention_serveHeld (k : Nat) (h : AttentionOk s) : AttentionOk (serveHeld k s) := by
  induction k generalizing s with
  | zero => exact h
  | succ k ih =>
    unfold serveHeld
    split
    · exact h
    · dsimp only
      split
      · exact h
      · exact ih (attention_settle _ _)

theorem attention_finish (before s : State) : AttentionOk (finish before s) := attention_serveHeld _ (attention_settle _ _)

theorem attention_finishQuietly (s : State) : AttentionOk (finishQuietly s) := attention_serveHeld _ (attention_settleQuietly _)

/-! ## The memory port -/

/-- The oldest entry reaches the SRAM (R137, R138). -/
theorem carries_drainOne : Carries s (drainOne s) := by
  unfold drainOne
  split
  · exact .refl _
  · next off w rest hq =>
    refine ⟨writeWord_wf s.mem (sramAddress s off) w 0b1111#4, fun k => refill_ok _ ?_, fun k => ⟨k.1, k.2, k.3, k.4, k.5, k.6, k.7, k.8⟩, fun k => ⟨k.1, k.2, k.3⟩⟩
    have := k.size
    rw [hq, List.length_cons] at this
    exact Nat.le_of_succ_le this

@[simp] theorem kept_readUpdateWord (h : Kept s₀ s) : Kept s₀ (readUpdateWord s) := by
  unfold readUpdateWord; split <;> simp (maxDischargeDepth := 9) [*]

theorem kept_readLoadWord (s : State) : Kept s (readLoadWord s) := .of_core rfl

theorem carries_access (u : PortUser) : Carries s (access s u) := by
  cases u
  · exact carries_drainOne
  · exact (kept_fetchWord (Kept.rfl' _)).carries
  · exact (kept_readUpdateWord (Kept.rfl' _)).carries
  · exact (kept_readLoadWord s).carries

theorem carries_askPort : Carries s (askPort s) := (kept_askPort (Kept.rfl' _)).carries

theorem carries_withAsked (l : List PortUser) : Carries s { s with bi := { s.bi with asked := l } } :=
  ⟨id, fun k => ⟨k.1, k.2, k.3, k.4⟩, fun k => ⟨k.1, k.2, k.3, k.4, k.5, k.6, k.7, k.8⟩, fun k => ⟨k.1, k.2, k.3⟩⟩

/-- A turn at the port carries the invariants over (R138). -/
theorem carries_takeTurn (u : PortUser) : Carries s (takeTurn s u) :=
  (carries_access u).trans ((carries_withAsked _).trans carries_askPort)

theorem carries_turns (l : List PortUser) : Carries s (l.foldl takeTurn s) := by
  induction l generalizing s with
  | nil => exact .refl _
  | cons u l ih => exact (carries_takeTurn u).trans ih

/-- A turn within a command, with the held accesses that it lets go, carries the invariants over (R138, R140). -/
theorem carries_servedTurn (u : PortUser) : Carries s (servedTurn s u) :=
  (carries_takeTurn u).trans ((kept_endUpdateIfDone (Kept.rfl' _)).carries.trans (carries_serveHeld _))

theorem carries_takeTurns (u : PortUser) (k : Nat) : Carries s (takeTurns u k s) := by
  induction k generalizing s with
  | zero => exact .refl _
  | succ k ih =>
    unfold takeTurns
    (repeat' split) <;> first | exact (carries_servedTurn _).trans ih | exact .refl _

theorem carries_finishReads (u : PortUser) : Carries s (finishReads s u) := by
  unfold finishReads
  split
  · exact carries_askPort.trans (carries_takeTurns u _)
  · exact .refl _

theorem carries_finishFetch (c : Nat → Bool) : Carries s (finishFetch s c) := by
  unfold finishFetch
  split
  · exact carries_finishReads _
  · exact .refl _

/-- A load's entry, its words read before (R174). -/
theorem carries_readNextEntry : Carries s (readNextEntry s) := by
  unfold readNextEntry
  (repeat' split)
  · next item _ =>
    dsimp only
    split
    · exact ((kept_setLoad _).mpr (kept_loadItem item (Kept.rfl' _))).carries
    · exact (kept_deriveState (kept_loadItem item (Kept.rfl' _))).carries
  · exact .refl _

theorem carries_drainInTurn : Carries s (drainInTurn s) := by
  unfold drainInTurn
  split
  · exact .refl _
  · exact carries_askPort.trans ((carries_turns _).trans (carries_takeTurn _))

theorem carries_idleTurn : Carries s (idleTurn s) := by
  unfold idleTurn
  dsimp only
  (repeat' split) <;> first | exact carries_askPort | exact carries_askPort.trans (carries_takeTurn _)

/-- A turn at the port changes neither a flag, the mask nor the part state (R138, R159). -/
theorem takeTurn_attention (u : PortUser) : (takeTurn s u).eu = s.eu ∧ (takeTurn s u).su.part = s.su.part := by
  cases u <;> simp only [takeTurn, access, askPort, drainOne, fetchWord, readUpdateWord, readLoadWord] <;> (repeat' split) <;> trivial

theorem attention_idleTurn (h : AttentionOk s) : AttentionOk (idleTurn s) := by
  unfold idleTurn
  dsimp only
  (repeat' split) <;> first
    | exact h
    | (unfold AttentionOk; rw [(takeTurn_attention _).1, (takeTurn_attention _).2]; exact h)

@[simp] theorem kept_startUpdate (h : Kept s₀ s) : Kept s₀ (startUpdate s) := by
  unfold startUpdate
  split
  · exact h.trans ⟨rfl, rfl, rfl, rfl, rfl, rfl, fun k => ⟨k.1, k.2, k.3, k.4⟩, fun k => ⟨k.1, k.2, k.3, k.4, k.5, k.6, k.7, k.8⟩,
      fun k => ⟨k.1, k.2, k.3⟩⟩
  · exact h

@[simp] theorem kept_placeWriteBacks (h : Kept s₀ s) : Kept s₀ (placeWriteBacks s) := by
  unfold placeWriteBacks
  (repeat' split) <;> simp (maxDischargeDepth := 9) [h]

/-! ## Cold start -/

theorem carries_coldStarted (straps : Nat) : Carries s (coldStarted s straps) := by
  refine ⟨id, fun _ => ⟨?_, ?_, ?_, ?_⟩, fun _ => ⟨?_, ?_, ?_, ?_, ?_, ?_, ?_, ?_⟩, fun _ => ⟨?_, ?_, ?_⟩⟩ <;>
    simp [coldStarted, State.reset, EU.unreadFaults]

end Sys2Proof.Machine
end

