-- ==== Sys2Proof/Laws/Settle.lean ====
section
/-!
SUPPORT. What the end of a command leaves as it was, and what the part has written once it is over.
-/

namespace Sys2Proof.Machine

variable (b s : State)

/-! ## lookAgain -/

@[simp] theorem lookAgain_mem : (lookAgain s).mem = s.mem := by unfold lookAgain beginTake; (repeat' split) <;> simp
@[simp] theorem lookAgain_pending : (lookAgain s).pending = s.pending := by unfold lookAgain beginTake; (repeat' split) <;> simp
@[simp] theorem lookAgain_frame : (lookAgain s).frame = s.frame := by unfold lookAgain beginTake; (repeat' split) <;> simp
@[simp] theorem lookAgain_lc : (lookAgain s).lc = s.lc := by unfold lookAgain beginTake; (repeat' split) <;> simp
@[simp] theorem lookAgain_hc : (lookAgain s).hc = s.hc := by unfold lookAgain beginTake; (repeat' split) <;> simp
@[simp] theorem lookAgain_mx : (lookAgain s).mx = s.mx := by unfold lookAgain beginTake; (repeat' split) <;> simp
@[simp] theorem lookAgain_ra : (lookAgain s).ra = s.ra := by unfold lookAgain beginTake; (repeat' split) <;> simp
@[simp] theorem lookAgain_su : (lookAgain s).su = s.su := by unfold lookAgain beginTake; (repeat' split) <;> simp
@[simp] theorem lookAgain_bi_base : (lookAgain s).bi.base = s.bi.base := by unfold lookAgain beginTake; (repeat' split) <;> simp
@[simp] theorem lookAgain_bi_copies : (lookAgain s).bi.copies = s.bi.copies := by unfold lookAgain beginTake; (repeat' split) <;> simp
@[simp] theorem lookAgain_bi_startCopy : (lookAgain s).bi.startCopy = s.bi.startCopy := by unfold lookAgain beginTake; (repeat' split) <;> simp
@[simp] theorem lookAgain_bi_latch : (lookAgain s).bi.latch = s.bi.latch := by unfold lookAgain beginTake; (repeat' split) <;> simp
@[simp] theorem lookAgain_bi_held : (lookAgain s).bi.held = s.bi.held := by unfold lookAgain beginTake; (repeat' split) <;> simp
@[simp] theorem lookAgain_bi_readData : (lookAgain s).bi.readData = s.bi.readData := by unfold lookAgain beginTake; (repeat' split) <;> simp
@[simp] theorem lookAgain_cc_circuits : (lookAgain s).cc.circuits = s.cc.circuits := by unfold lookAgain beginTake; (repeat' split) <;> simp
@[simp] theorem lookAgain_cc_paths : (lookAgain s).cc.paths = s.cc.paths := by unfold lookAgain beginTake; (repeat' split) <;> simp
@[simp] theorem lookAgain_um_enable : (lookAgain s).um.enable = s.um.enable := by unfold lookAgain beginTake; (repeat' split) <;> simp
@[simp] theorem lookAgain_um_format : (lookAgain s).um.format = s.um.format := by unfold lookAgain beginTake; (repeat' split) <;> simp
@[simp] theorem lookAgain_um_updates : (lookAgain s).um.updates = s.um.updates := by unfold lookAgain beginTake; (repeat' split) <;> simp
@[simp] theorem lookAgain_re_head : (lookAgain s).re.head = s.re.head := by unfold lookAgain beginTake; (repeat' split) <;> simp
@[simp] theorem lookAgain_re_tail : (lookAgain s).re.tail = s.re.tail := by unfold lookAgain beginTake; (repeat' split) <;> simp
@[simp] theorem lookAgain_bi : (lookAgain s).bi = s.bi := by unfold lookAgain beginTake; (repeat' split) <;> simp
@[simp] theorem lookAgain_eu : (lookAgain s).eu = s.eu := by unfold lookAgain beginTake; (repeat' split) <;> simp
@[simp] theorem lookAgain_cc : (lookAgain s).cc = s.cc := by unfold lookAgain beginTake; (repeat' split) <;> simp
@[simp] theorem lookAgain_um : (lookAgain s).um = s.um := by unfold lookAgain beginTake; (repeat' split) <;> simp
theorem lookAgain_of_ne (h : s.re.take ≠ .waitingForRoom) : lookAgain s = s := by
  unfold lookAgain
  split
  · contradiction
  · rfl

/-! ## startSending -/

/-- Only the pending list and the transmitter change (R34). -/
theorem startSending_cc : ∃ l x, startSending s = { s with cc := { s.cc with pendingList := l, sending := x } } := by
  unfold startSending
  split
  · dsimp only
    split
    · exact ⟨_, _, rfl⟩
    · exact ⟨_, s.cc.sending, rfl⟩
  · exact ⟨s.cc.pendingList, s.cc.sending, rfl⟩

@[simp] theorem startSending_mem : (startSending s).mem = s.mem := by obtain ⟨l, x, h⟩ := startSending_cc s; rw [h]
@[simp] theorem startSending_pending : (startSending s).pending = s.pending := by obtain ⟨l, x, h⟩ := startSending_cc s; rw [h]
@[simp] theorem startSending_frame : (startSending s).frame = s.frame := by obtain ⟨l, x, h⟩ := startSending_cc s; rw [h]
@[simp] theorem startSending_lc : (startSending s).lc = s.lc := by obtain ⟨l, x, h⟩ := startSending_cc s; rw [h]
@[simp] theorem startSending_hc : (startSending s).hc = s.hc := by obtain ⟨l, x, h⟩ := startSending_cc s; rw [h]
@[simp] theorem startSending_mx : (startSending s).mx = s.mx := by obtain ⟨l, x, h⟩ := startSending_cc s; rw [h]
@[simp] theorem startSending_ra : (startSending s).ra = s.ra := by obtain ⟨l, x, h⟩ := startSending_cc s; rw [h]
@[simp] theorem startSending_su : (startSending s).su = s.su := by obtain ⟨l, x, h⟩ := startSending_cc s; rw [h]
@[simp] theorem startSending_bi_base : (startSending s).bi.base = s.bi.base := by obtain ⟨l, x, h⟩ := startSending_cc s; rw [h]
@[simp] theorem startSending_bi_copies : (startSending s).bi.copies = s.bi.copies := by obtain ⟨l, x, h⟩ := startSending_cc s; rw [h]
@[simp] theorem startSending_bi_startCopy : (startSending s).bi.startCopy = s.bi.startCopy := by obtain ⟨l, x, h⟩ := startSending_cc s; rw [h]
@[simp] theorem startSending_bi_latch : (startSending s).bi.latch = s.bi.latch := by obtain ⟨l, x, h⟩ := startSending_cc s; rw [h]
@[simp] theorem startSending_bi_held : (startSending s).bi.held = s.bi.held := by obtain ⟨l, x, h⟩ := startSending_cc s; rw [h]
@[simp] theorem startSending_bi_readData : (startSending s).bi.readData = s.bi.readData := by obtain ⟨l, x, h⟩ := startSending_cc s; rw [h]
@[simp] theorem startSending_cc_circuits : (startSending s).cc.circuits = s.cc.circuits := by obtain ⟨l, x, h⟩ := startSending_cc s; rw [h]
@[simp] theorem startSending_cc_paths : (startSending s).cc.paths = s.cc.paths := by obtain ⟨l, x, h⟩ := startSending_cc s; rw [h]
@[simp] theorem startSending_um_enable : (startSending s).um.enable = s.um.enable := by obtain ⟨l, x, h⟩ := startSending_cc s; rw [h]
@[simp] theorem startSending_um_format : (startSending s).um.format = s.um.format := by obtain ⟨l, x, h⟩ := startSending_cc s; rw [h]
@[simp] theorem startSending_um_updates : (startSending s).um.updates = s.um.updates := by obtain ⟨l, x, h⟩ := startSending_cc s; rw [h]
@[simp] theorem startSending_re_head : (startSending s).re.head = s.re.head := by obtain ⟨l, x, h⟩ := startSending_cc s; rw [h]
@[simp] theorem startSending_re_tail : (startSending s).re.tail = s.re.tail := by obtain ⟨l, x, h⟩ := startSending_cc s; rw [h]
@[simp] theorem startSending_bi : (startSending s).bi = s.bi := by obtain ⟨l, x, h⟩ := startSending_cc s; rw [h]
@[simp] theorem startSending_eu : (startSending s).eu = s.eu := by obtain ⟨l, x, h⟩ := startSending_cc s; rw [h]
@[simp] theorem startSending_re : (startSending s).re = s.re := by obtain ⟨l, x, h⟩ := startSending_cc s; rw [h]
@[simp] theorem startSending_um : (startSending s).um = s.um := by obtain ⟨l, x, h⟩ := startSending_cc s; rw [h]
theorem startSending_of_idle (h : s.cc.pendingList = [] ∨ s.cc.sending ≠ none) : startSending s = s := by
  unfold startSending
  split
  · next h1 h2 => rcases h with h | h <;> simp_all
  · rfl

/-! ## followAllUnrecorded -/

theorem followUnrecorded_um (n : Nat) : ∃ c, (followUnrecorded s n) = { s with um := { s.um with contexts := c } } := by
  unfold followUnrecorded modContext
  split
  · exact ⟨_, rfl⟩
  · exact ⟨s.um.contexts, rfl⟩

/-- Only contexts change (R118). -/
theorem followAllUnrecorded_um : ∃ c, followAllUnrecorded s = { s with um := { s.um with contexts := c } } := by
  unfold followAllUnrecorded
  generalize Table.keys s.um.contexts = l
  induction l generalizing s with
  | nil => exact ⟨s.um.contexts, rfl⟩
  | cons n l ih =>
    obtain ⟨c, hc⟩ := followUnrecorded_um s n
    obtain ⟨d, hd⟩ := ih (followUnrecorded s n)
    exact ⟨d, by rw [List.foldl_cons, hd, hc]⟩

@[simp] theorem followAllUnrecorded_mem : (followAllUnrecorded s).mem = s.mem := by obtain ⟨c, hc⟩ := followAllUnrecorded_um s; rw [hc]
@[simp] theorem followAllUnrecorded_pending : (followAllUnrecorded s).pending = s.pending := by obtain ⟨c, hc⟩ := followAllUnrecorded_um s; rw [hc]
@[simp] theorem followAllUnrecorded_frame : (followAllUnrecorded s).frame = s.frame := by obtain ⟨c, hc⟩ := followAllUnrecorded_um s; rw [hc]
@[simp] theorem followAllUnrecorded_lc : (followAllUnrecorded s).lc = s.lc := by obtain ⟨c, hc⟩ := followAllUnrecorded_um s; rw [hc]
@[simp] theorem followAllUnrecorded_hc : (followAllUnrecorded s).hc = s.hc := by obtain ⟨c, hc⟩ := followAllUnrecorded_um s; rw [hc]
@[simp] theorem followAllUnrecorded_mx : (followAllUnrecorded s).mx = s.mx := by obtain ⟨c, hc⟩ := followAllUnrecorded_um s; rw [hc]
@[simp] theorem followAllUnrecorded_ra : (followAllUnrecorded s).ra = s.ra := by obtain ⟨c, hc⟩ := followAllUnrecorded_um s; rw [hc]
@[simp] theorem followAllUnrecorded_su : (followAllUnrecorded s).su = s.su := by obtain ⟨c, hc⟩ := followAllUnrecorded_um s; rw [hc]
@[simp] theorem followAllUnrecorded_bi_base : (followAllUnrecorded s).bi.base = s.bi.base := by obtain ⟨c, hc⟩ := followAllUnrecorded_um s; rw [hc]
@[simp] theorem followAllUnrecorded_bi_copies : (followAllUnrecorded s).bi.copies = s.bi.copies := by obtain ⟨c, hc⟩ := followAllUnrecorded_um s; rw [hc]
@[simp] theorem followAllUnrecorded_bi_startCopy : (followAllUnrecorded s).bi.startCopy = s.bi.startCopy := by obtain ⟨c, hc⟩ := followAllUnrecorded_um s; rw [hc]
@[simp] theorem followAllUnrecorded_bi_latch : (followAllUnrecorded s).bi.latch = s.bi.latch := by obtain ⟨c, hc⟩ := followAllUnrecorded_um s; rw [hc]
@[simp] theorem followAllUnrecorded_bi_held : (followAllUnrecorded s).bi.held = s.bi.held := by obtain ⟨c, hc⟩ := followAllUnrecorded_um s; rw [hc]
@[simp] theorem followAllUnrecorded_bi_readData : (followAllUnrecorded s).bi.readData = s.bi.readData := by obtain ⟨c, hc⟩ := followAllUnrecorded_um s; rw [hc]
@[simp] theorem followAllUnrecorded_cc_circuits : (followAllUnrecorded s).cc.circuits = s.cc.circuits := by obtain ⟨c, hc⟩ := followAllUnrecorded_um s; rw [hc]
@[simp] theorem followAllUnrecorded_cc_paths : (followAllUnrecorded s).cc.paths = s.cc.paths := by obtain ⟨c, hc⟩ := followAllUnrecorded_um s; rw [hc]
@[simp] theorem followAllUnrecorded_um_enable : (followAllUnrecorded s).um.enable = s.um.enable := by obtain ⟨c, hc⟩ := followAllUnrecorded_um s; rw [hc]
@[simp] theorem followAllUnrecorded_um_format : (followAllUnrecorded s).um.format = s.um.format := by obtain ⟨c, hc⟩ := followAllUnrecorded_um s; rw [hc]
@[simp] theorem followAllUnrecorded_um_updates : (followAllUnrecorded s).um.updates = s.um.updates := by obtain ⟨c, hc⟩ := followAllUnrecorded_um s; rw [hc]
@[simp] theorem followAllUnrecorded_re_head : (followAllUnrecorded s).re.head = s.re.head := by obtain ⟨c, hc⟩ := followAllUnrecorded_um s; rw [hc]
@[simp] theorem followAllUnrecorded_re_tail : (followAllUnrecorded s).re.tail = s.re.tail := by obtain ⟨c, hc⟩ := followAllUnrecorded_um s; rw [hc]
@[simp] theorem followAllUnrecorded_bi : (followAllUnrecorded s).bi = s.bi := by obtain ⟨c, hc⟩ := followAllUnrecorded_um s; rw [hc]
@[simp] theorem followAllUnrecorded_eu : (followAllUnrecorded s).eu = s.eu := by obtain ⟨c, hc⟩ := followAllUnrecorded_um s; rw [hc]
@[simp] theorem followAllUnrecorded_re : (followAllUnrecorded s).re = s.re := by obtain ⟨c, hc⟩ := followAllUnrecorded_um s; rw [hc]
@[simp] theorem followAllUnrecorded_cc : (followAllUnrecorded s).cc = s.cc := by obtain ⟨c, hc⟩ := followAllUnrecorded_um s; rw [hc]
@[simp] theorem followAllUnrecorded_um_inProgress : (followAllUnrecorded s).um.inProgress = s.um.inProgress := by
  obtain ⟨c, hc⟩ := followAllUnrecorded_um s; rw [hc]
theorem followAllUnrecorded_of_noContext (h : s.um.contexts = []) : followAllUnrecorded s = s := by
  simp [followAllUnrecorded, Table.keys, h]

/-! ## endUpdateIfDone -/

@[simp] theorem endUpdateIfDone_mem : (endUpdateIfDone s).mem = s.mem := by unfold endUpdateIfDone; (repeat' split) <;> simp
@[simp] theorem endUpdateIfDone_pending : (endUpdateIfDone s).pending = s.pending := by unfold endUpdateIfDone; (repeat' split) <;> simp
@[simp] theorem endUpdateIfDone_frame : (endUpdateIfDone s).frame = s.frame := by unfold endUpdateIfDone; (repeat' split) <;> simp
@[simp] theorem endUpdateIfDone_lc : (endUpdateIfDone s).lc = s.lc := by unfold endUpdateIfDone; (repeat' split) <;> simp
@[simp] theorem endUpdateIfDone_hc : (endUpdateIfDone s).hc = s.hc := by unfold endUpdateIfDone; (repeat' split) <;> simp
@[simp] theorem endUpdateIfDone_mx : (endUpdateIfDone s).mx = s.mx := by unfold endUpdateIfDone; (repeat' split) <;> simp
@[simp] theorem endUpdateIfDone_ra : (endUpdateIfDone s).ra = s.ra := by unfold endUpdateIfDone; (repeat' split) <;> simp
@[simp] theorem endUpdateIfDone_su : (endUpdateIfDone s).su = s.su := by unfold endUpdateIfDone; (repeat' split) <;> simp
@[simp] theorem endUpdateIfDone_bi_base : (endUpdateIfDone s).bi.base = s.bi.base := by unfold endUpdateIfDone; (repeat' split) <;> simp
@[simp] theorem endUpdateIfDone_bi_copies : (endUpdateIfDone s).bi.copies = s.bi.copies := by unfold endUpdateIfDone; (repeat' split) <;> simp
@[simp] theorem endUpdateIfDone_bi_startCopy : (endUpdateIfDone s).bi.startCopy = s.bi.startCopy := by unfold endUpdateIfDone; (repeat' split) <;> simp
@[simp] theorem endUpdateIfDone_bi_latch : (endUpdateIfDone s).bi.latch = s.bi.latch := by unfold endUpdateIfDone; (repeat' split) <;> simp
@[simp] theorem endUpdateIfDone_bi_held : (endUpdateIfDone s).bi.held = s.bi.held := by unfold endUpdateIfDone; (repeat' split) <;> simp
@[simp] theorem endUpdateIfDone_bi_readData : (endUpdateIfDone s).bi.readData = s.bi.readData := by unfold endUpdateIfDone; (repeat' split) <;> simp
@[simp] theorem endUpdateIfDone_cc_circuits : (endUpdateIfDone s).cc.circuits = s.cc.circuits := by unfold endUpdateIfDone; (repeat' split) <;> simp
@[simp] theorem endUpdateIfDone_cc_paths : (endUpdateIfDone s).cc.paths = s.cc.paths := by unfold endUpdateIfDone; (repeat' split) <;> simp
@[simp] theorem endUpdateIfDone_um_enable : (endUpdateIfDone s).um.enable = s.um.enable := by unfold endUpdateIfDone; (repeat' split) <;> simp
@[simp] theorem endUpdateIfDone_um_format : (endUpdateIfDone s).um.format = s.um.format := by unfold endUpdateIfDone; (repeat' split) <;> simp
@[simp] theorem endUpdateIfDone_um_updates : (endUpdateIfDone s).um.updates = s.um.updates := by unfold endUpdateIfDone; (repeat' split) <;> simp
@[simp] theorem endUpdateIfDone_re_head : (endUpdateIfDone s).re.head = s.re.head := by unfold endUpdateIfDone; (repeat' split) <;> simp
@[simp] theorem endUpdateIfDone_re_tail : (endUpdateIfDone s).re.tail = s.re.tail := by unfold endUpdateIfDone; (repeat' split) <;> simp
@[simp] theorem endUpdateIfDone_eu : (endUpdateIfDone s).eu = s.eu := by unfold endUpdateIfDone; (repeat' split) <;> simp
@[simp] theorem endUpdateIfDone_re : (endUpdateIfDone s).re = s.re := by unfold endUpdateIfDone; (repeat' split) <;> simp
@[simp] theorem endUpdateIfDone_cc : (endUpdateIfDone s).cc = s.cc := by unfold endUpdateIfDone; (repeat' split) <;> simp
@[simp] theorem endUpdateIfDone_um_contexts : (endUpdateIfDone s).um.contexts = s.um.contexts := by unfold endUpdateIfDone; (repeat' split) <;> simp
@[simp] theorem endUpdateIfDone_bi_pwq : (endUpdateIfDone s).bi.pwq = s.bi.pwq := by unfold endUpdateIfDone; (repeat' split) <;> simp
@[simp] theorem endUpdateIfDone_bi_waiting : (endUpdateIfDone s).bi.waiting = s.bi.waiting := by unfold endUpdateIfDone; (repeat' split) <;> simp
@[simp] theorem endUpdateIfDone_bi_mode : (endUpdateIfDone s).bi.mode = s.bi.mode := by unfold endUpdateIfDone; (repeat' split) <;> simp
@[simp] theorem endUpdateIfDone_writes : writesOf (endUpdateIfDone s) = writesOf s := by simp [writesOf]
theorem endUpdateIfDone_of_none (h : s.um.inProgress = none) : endUpdateIfDone s = s := by simp [endUpdateIfDone, h]

/-! ## askPort -/

@[simp] theorem askPort_mem : (askPort s).mem = s.mem := rfl
@[simp] theorem askPort_pending : (askPort s).pending = s.pending := rfl
@[simp] theorem askPort_frame : (askPort s).frame = s.frame := rfl
@[simp] theorem askPort_lc : (askPort s).lc = s.lc := rfl
@[simp] theorem askPort_hc : (askPort s).hc = s.hc := rfl
@[simp] theorem askPort_mx : (askPort s).mx = s.mx := rfl
@[simp] theorem askPort_ra : (askPort s).ra = s.ra := rfl
@[simp] theorem askPort_su : (askPort s).su = s.su := rfl
@[simp] theorem askPort_eu : (askPort s).eu = s.eu := rfl
@[simp] theorem askPort_re : (askPort s).re = s.re := rfl
@[simp] theorem askPort_cc : (askPort s).cc = s.cc := rfl
@[simp] theorem askPort_um : (askPort s).um = s.um := rfl
@[simp] theorem askPort_bi_base : (askPort s).bi.base = s.bi.base := rfl
@[simp] theorem askPort_bi_copies : (askPort s).bi.copies = s.bi.copies := rfl
@[simp] theorem askPort_bi_startCopy : (askPort s).bi.startCopy = s.bi.startCopy := rfl
@[simp] theorem askPort_bi_latch : (askPort s).bi.latch = s.bi.latch := rfl
@[simp] theorem askPort_bi_held : (askPort s).bi.held = s.bi.held := rfl
@[simp] theorem askPort_bi_readData : (askPort s).bi.readData = s.bi.readData := rfl
@[simp] theorem askPort_bi_measHold : (askPort s).bi.measHold = s.bi.measHold := rfl
@[simp] theorem askPort_bi_pwq : (askPort s).bi.pwq = s.bi.pwq := rfl
@[simp] theorem askPort_bi_waiting : (askPort s).bi.waiting = s.bi.waiting := rfl
@[simp] theorem askPort_bi_loadLeft : (askPort s).bi.loadLeft = s.bi.loadLeft := rfl
@[simp] theorem askPort_bi_mode : (askPort s).bi.mode = s.bi.mode := rfl
@[simp] theorem askPort_writes : writesOf (askPort s) = writesOf s := rfl

/-! ## refreshAttention -/

@[simp] theorem refreshAttention_mem : (refreshAttention s).mem = s.mem := rfl
@[simp] theorem refreshAttention_pending : (refreshAttention s).pending = s.pending := rfl
@[simp] theorem refreshAttention_frame : (refreshAttention s).frame = s.frame := rfl
@[simp] theorem refreshAttention_bi : (refreshAttention s).bi = s.bi := rfl
@[simp] theorem refreshAttention_lc : (refreshAttention s).lc = s.lc := rfl
@[simp] theorem refreshAttention_hc : (refreshAttention s).hc = s.hc := rfl
@[simp] theorem refreshAttention_mx : (refreshAttention s).mx = s.mx := rfl
@[simp] theorem refreshAttention_ra : (refreshAttention s).ra = s.ra := rfl
@[simp] theorem refreshAttention_su : (refreshAttention s).su = s.su := rfl
@[simp] theorem refreshAttention_re : (refreshAttention s).re = s.re := rfl
@[simp] theorem refreshAttention_cc : (refreshAttention s).cc = s.cc := rfl
@[simp] theorem refreshAttention_um : (refreshAttention s).um = s.um := rfl
@[simp] theorem refreshAttention_eu : (refreshAttention s).eu = { s.eu with attention := attentionOf s.eu s.su.part } := rfl

/-! ## settle -/

@[simp] theorem settle_mem : (settle b s).mem = s.mem := by simp [settle]
@[simp] theorem settle_pending : (settle b s).pending = s.pending := by simp [settle]
@[simp] theorem settle_frame : (settle b s).frame = s.frame := by simp [settle]
@[simp] theorem settle_lc : (settle b s).lc = s.lc := by simp [settle]
@[simp] theorem settle_hc : (settle b s).hc = s.hc := by simp [settle]
@[simp] theorem settle_mx : (settle b s).mx = s.mx := by simp [settle]
@[simp] theorem settle_ra : (settle b s).ra = s.ra := by simp [settle]
@[simp] theorem settle_su : (settle b s).su = s.su := by simp [settle]
@[simp] theorem settle_bi_base : (settle b s).bi.base = s.bi.base := by simp [settle]
@[simp] theorem settle_bi_copies : (settle b s).bi.copies = s.bi.copies := by simp [settle]
@[simp] theorem settle_bi_startCopy : (settle b s).bi.startCopy = s.bi.startCopy := by simp [settle]
@[simp] theorem settle_bi_latch : (settle b s).bi.latch = s.bi.latch := by simp [settle]
@[simp] theorem settle_bi_held : (settle b s).bi.held = s.bi.held := by simp [settle]
@[simp] theorem settle_bi_readData : (settle b s).bi.readData = s.bi.readData := by simp [settle]
@[simp] theorem settle_cc_circuits : (settle b s).cc.circuits = s.cc.circuits := by simp [settle]
@[simp] theorem settle_cc_paths : (settle b s).cc.paths = s.cc.paths := by simp [settle]
@[simp] theorem settle_um_enable : (settle b s).um.enable = s.um.enable := by simp [settle]
@[simp] theorem settle_um_format : (settle b s).um.format = s.um.format := by simp [settle]
@[simp] theorem settle_um_updates : (settle b s).um.updates = s.um.updates := by simp [settle]
@[simp] theorem settle_re_head : (settle b s).re.head = s.re.head := by simp [settle]
@[simp] theorem settle_re_tail : (settle b s).re.tail = s.re.tail := by simp [settle]
@[simp] theorem settle_eu : (settle b s).eu = { s.eu with attention := attentionOf s.eu s.su.part } := by simp [settle]
theorem settle_take (h : s.re.take ≠ .waitingForRoom) : (settle b s).re.take = s.re.take := by simp [settle, lookAgain_of_ne s h]
theorem settle_sending (h : s.cc.pendingList = [] ∨ s.cc.sending ≠ none) : (settle b s).cc = s.cc := by
  have : startSending (lookAgain s) = lookAgain s := startSending_of_idle _ (by simpa using h)
  simp [settle, this]
theorem settle_inProgress (h : s.um.inProgress = none) : (settle b s).um.inProgress = none ∧ (settle b s).bi.measHold = s.bi.measHold := by
  unfold settle
  rw [endUpdateIfDone_of_none _ (by simpa using h)]
  simp [h]
@[simp] theorem settle_line (m : Nat) : (settle b s).line m = s.line m := State.line_congr (settle_lc b s) m
@[simp] theorem settle_key (m : Nat) : (settle b s).key m = s.key m := State.key_congr (settle_lc b s) m
@[simp] theorem settle_appEntries (m : Nat) : (settle b s).appEntries m = s.appEntries m := State.appEntries_congr (settle_lc b s) m
@[simp] theorem settle_alertList (m : Nat) : (settle b s).alertList m = s.alertList m := State.alertList_congr (settle_lc b s) m
@[simp] theorem settle_circuit (m : Nat) : (settle b s).circuit m = s.circuit m := by simp [State.circuit]
@[simp] theorem settle_path (m : Nat) : (settle b s).path m = s.path m := by simp [State.path]
@[simp] theorem settle_handset (m : Party) : (settle b s).handset m = s.handset m := State.handset_congr (settle_hc b s) m
@[simp] theorem settle_call (m : Nat) : (settle b s).call m = s.call m := State.call_congr (settle_hc b s) m
@[simp] theorem settle_position (m : Nat) : (settle b s).position m = s.position m := State.position_congr (settle_hc b s) m
@[simp] theorem settle_speaker (m : Nat) : (settle b s).speaker m = s.speaker m := State.speaker_congr (settle_mx b s) m
@[simp] theorem settle_bridge (m : Nat) : (settle b s).bridge m = s.bridge m := State.bridge_congr (settle_mx b s) m
@[simp] theorem settle_channel (m : Nat) : (settle b s).channel m = s.channel m := State.channel_congr (settle_ra b s) m
@[simp] theorem settle_port (m : Nat) : (settle b s).port m = s.port m := State.port_congr (settle_ra b s) m

/-! ## settleQuietly -/

@[simp] theorem settleQuietly_mem : (settleQuietly s).mem = s.mem := by simp [settleQuietly]
@[simp] theorem settleQuietly_pending : (settleQuietly s).pending = s.pending := by simp [settleQuietly]
@[simp] theorem settleQuietly_frame : (settleQuietly s).frame = s.frame := by simp [settleQuietly]
@[simp] theorem settleQuietly_lc : (settleQuietly s).lc = s.lc := by simp [settleQuietly]
@[simp] theorem settleQuietly_hc : (settleQuietly s).hc = s.hc := by simp [settleQuietly]
@[simp] theorem settleQuietly_mx : (settleQuietly s).mx = s.mx := by simp [settleQuietly]
@[simp] theorem settleQuietly_ra : (settleQuietly s).ra = s.ra := by simp [settleQuietly]
@[simp] theorem settleQuietly_su : (settleQuietly s).su = s.su := by simp [settleQuietly]
@[simp] theorem settleQuietly_bi_base : (settleQuietly s).bi.base = s.bi.base := by simp [settleQuietly]
@[simp] theorem settleQuietly_bi_copies : (settleQuietly s).bi.copies = s.bi.copies := by simp [settleQuietly]
@[simp] theorem settleQuietly_bi_startCopy : (settleQuietly s).bi.startCopy = s.bi.startCopy := by simp [settleQuietly]
@[simp] theorem settleQuietly_bi_latch : (settleQuietly s).bi.latch = s.bi.latch := by simp [settleQuietly]
@[simp] theorem settleQuietly_bi_held : (settleQuietly s).bi.held = s.bi.held := by simp [settleQuietly]
@[simp] theorem settleQuietly_bi_readData : (settleQuietly s).bi.readData = s.bi.readData := by simp [settleQuietly]
@[simp] theorem settleQuietly_cc_circuits : (settleQuietly s).cc.circuits = s.cc.circuits := by simp [settleQuietly]
@[simp] theorem settleQuietly_cc_paths : (settleQuietly s).cc.paths = s.cc.paths := by simp [settleQuietly]
@[simp] theorem settleQuietly_um_enable : (settleQuietly s).um.enable = s.um.enable := by simp [settleQuietly]
@[simp] theorem settleQuietly_um_format : (settleQuietly s).um.format = s.um.format := by simp [settleQuietly]
@[simp] theorem settleQuietly_um_updates : (settleQuietly s).um.updates = s.um.updates := by simp [settleQuietly]
@[simp] theorem settleQuietly_re_head : (settleQuietly s).re.head = s.re.head := by simp [settleQuietly]
@[simp] theorem settleQuietly_re_tail : (settleQuietly s).re.tail = s.re.tail := by simp [settleQuietly]
@[simp] theorem settleQuietly_eu : (settleQuietly s).eu = { s.eu with attention := attentionOf s.eu s.su.part } := by simp [settleQuietly]
theorem settleQuietly_take (h : s.re.take ≠ .waitingForRoom) : (settleQuietly s).re.take = s.re.take := by simp [settleQuietly, lookAgain_of_ne s h]
theorem settleQuietly_sending (h : s.cc.pendingList = [] ∨ s.cc.sending ≠ none) : (settleQuietly s).cc = s.cc := by
  have : startSending (lookAgain s) = lookAgain s := startSending_of_idle _ (by simpa using h)
  simp [settleQuietly, this]
theorem settleQuietly_inProgress (h : s.um.inProgress = none) : (settleQuietly s).um.inProgress = none ∧ (settleQuietly s).bi.measHold = s.bi.measHold := by
  unfold settleQuietly
  rw [endUpdateIfDone_of_none _ (by simpa using h)]
  simp [h]
@[simp] theorem settleQuietly_line (m : Nat) : (settleQuietly s).line m = s.line m := State.line_congr (settleQuietly_lc s) m
@[simp] theorem settleQuietly_key (m : Nat) : (settleQuietly s).key m = s.key m := State.key_congr (settleQuietly_lc s) m
@[simp] theorem settleQuietly_appEntries (m : Nat) : (settleQuietly s).appEntries m = s.appEntries m := State.appEntries_congr (settleQuietly_lc s) m
@[simp] theorem settleQuietly_alertList (m : Nat) : (settleQuietly s).alertList m = s.alertList m := State.alertList_congr (settleQuietly_lc s) m
@[simp] theorem settleQuietly_circuit (m : Nat) : (settleQuietly s).circuit m = s.circuit m := by simp [State.circuit]
@[simp] theorem settleQuietly_path (m : Nat) : (settleQuietly s).path m = s.path m := by simp [State.path]
@[simp] theorem settleQuietly_handset (m : Party) : (settleQuietly s).handset m = s.handset m := State.handset_congr (settleQuietly_hc s) m
@[simp] theorem settleQuietly_call (m : Nat) : (settleQuietly s).call m = s.call m := State.call_congr (settleQuietly_hc s) m
@[simp] theorem settleQuietly_position (m : Nat) : (settleQuietly s).position m = s.position m := State.position_congr (settleQuietly_hc s) m
@[simp] theorem settleQuietly_speaker (m : Nat) : (settleQuietly s).speaker m = s.speaker m := State.speaker_congr (settleQuietly_mx s) m
@[simp] theorem settleQuietly_bridge (m : Nat) : (settleQuietly s).bridge m = s.bridge m := State.bridge_congr (settleQuietly_mx s) m
@[simp] theorem settleQuietly_channel (m : Nat) : (settleQuietly s).channel m = s.channel m := State.channel_congr (settleQuietly_ra s) m
@[simp] theorem settleQuietly_port (m : Nat) : (settleQuietly s).port m = s.port m := State.port_congr (settleQuietly_ra s) m

@[simp] theorem settleQuietly_writes : writesOf (settleQuietly s) = writesOf s := by
  simp only [settleQuietly]
  show writesOf (askPort (endUpdateIfDone _)) = _
  simp [writesOf]

/-- The writes of the end of a command are mirror words (R6, R65, R98). -/
theorem settle_writes : ∃ t, writesOf (settle b s) = writesOf s ++ allMirrorChanges b t := by
  refine ⟨followAllUnrecorded (startSending (lookAgain s)), ?_⟩
  simp only [settle]
  show writesOf (askPort (endUpdateIfDone _)) = _
  rw [askPort_writes, endUpdateIfDone_writes, postMirrors_writes]
  simp [writesOf]

/-! ## With nothing held -/

theorem finish_of_nothingHeld (h : s.bi.held = []) : finish b s = settle b s := by simp [finish, serveHeld, h]

theorem finishQuietly_of_nothingHeld (h : s.bi.held = []) : finishQuietly s = settleQuietly s := by
  simp [finishQuietly, serveHeld, h]

theorem done_of_nothingHeld (h : s.bi.held = []) : done b s = .next (settle b s) := by rw [done, finish_of_nothingHeld b s h]

theorem doneQuietly_of_nothingHeld (h : s.bi.held = []) : doneQuietly s = .next (settleQuietly s) := by
  rw [doneQuietly, finishQuietly_of_nothingHeld s h]

/-! ## Words -/

/-- A word outside the mirrors reads after the end of a command as before it. -/
theorem settle_latestWord (off : Nat) (h : ¬IsMirror off) : latestWord (settle b s) off = latestWord s off := by
  obtain ⟨t, ht⟩ := settle_writes b s
  have hn : youngest (allMirrorChanges b t) off = none :=
    youngest_none _ _ fun e he heq => h (heq ▸ allMirrorChanges_offsets b t e he)
  simp [latestWord_eq, ht, youngest_append, hn, sramAddress]

theorem settleQuietly_latestWord (off : Nat) : latestWord (settleQuietly s) off = latestWord s off := by
  simp [latestWord_eq, sramAddress]

end Sys2Proof.Machine
end

