-- ==== Sys2Proof/Laws/Requests.lean ====
section
/-!
SUPPORT. Events, the completion of requests, and frames of whole commands.
-/

namespace Sys2Proof.Machine

/-! ## Frames -/

theorem Leaves.refl (s : State) : Leaves s s [] := by
  refine ⟨rfl, fun b _ => ?_⟩
  cases b <;> simp [Same]

theorem Same.trans {s t u : State} {b : Block} (h : Same s t b) (k : Same t u b) : Same s u b := by
  cases b <;> simp only [Same] at *
  case words => exact fun off ho => (k off ho).trans (h off ho)
  case take => exact fun hn => (k (by rw [h hn]; exact hn)).trans (h hn)
  case link =>
    intro hp
    obtain ⟨h1, h2⟩ := h hp
    obtain ⟨k1, k2⟩ := k (by rw [h1, h2]; exact hp)
    exact ⟨k1.trans h1, k2.trans h2⟩
  case meter =>
    refine ⟨fun hc => k.1 (h.1 hc), fun hp => ?_⟩
    obtain ⟨h1, h2⟩ := h.2 hp
    exact ⟨(k.2 h1).1, (k.2 h1).2.trans h2⟩
  all_goals simp_all

theorem Leaves.trans {s t u : State} {xs ys : List Block} (h : Leaves s t xs) (k : Leaves t u ys) : Leaves s u (xs ++ ys) :=
  ⟨k.1.trans h.1, fun b hb => (h.2 b fun hx => hb (List.mem_append_left _ hx)).trans (k.2 b fun hy => hb (List.mem_append_right _ hy))⟩

theorem Leaves.mono {s t : State} {xs ys : List Block} (h : Leaves s t xs) (hs : xs ⊆ ys) : Leaves s t ys :=
  ⟨h.1, fun b hb => h.2 b fun hx => hb (hs hx)⟩

/-- The end of a command leaves every block, but for what follows every change (R34, R118, R123, R146). -/
theorem leaves_settle (b s : State) : Leaves s (settle b s) [] := by
  refine ⟨by simp, fun x _ => ?_⟩
  cases x <;> simp only [Same]
  case words => exact fun off ho => settle_latestWord b s off fun hm => ho (isMirror_owned off hm)
  case take => exact fun h => settle_take b s h
  case link => exact fun h => by rw [settle_sending b s h]; exact ⟨rfl, rfl⟩
  case meter =>
    refine ⟨fun h => ?_, fun h => settle_inProgress b s h⟩
    have : followAllUnrecorded (startSending (lookAgain s)) = startSending (lookAgain s) :=
      followAllUnrecorded_of_noContext _ (by simpa using h)
    simp [settle, this, h]
  all_goals simp

theorem leaves_settleQuietly (s : State) : Leaves s (settleQuietly s) [] := by
  refine ⟨by simp, fun x _ => ?_⟩
  cases x <;> simp only [Same]
  case words => exact fun off _ => settleQuietly_latestWord s off
  case take => exact fun h => settleQuietly_take s h
  case link => exact fun h => by rw [settleQuietly_sending s h]; exact ⟨rfl, rfl⟩
  case meter =>
    refine ⟨fun h => ?_, fun h => settleQuietly_inProgress s h⟩
    have : followAllUnrecorded (startSending (lookAgain s)) = startSending (lookAgain s) :=
      followAllUnrecorded_of_noContext _ (by simpa using h)
    simp [settleQuietly, this, h]
  all_goals simp

/-- What the operations on calls leave. -/
theorem CallWork.leaves {s t : State} (h : CallWork s t) (he : s.eu.evtHead < 256) :
    Leaves s t [.events, .alarms, .lc, .cc, .link, .hc, .ra, .um, .meter] := by
  refine ⟨h.pending, fun b hb => ?_⟩
  have hbi := h.bi
  simp only [Prod.mk.injEq] at hbi
  cases b <;> simp at hb <;> simp only [Same]
  case words => exact (h.words he).2
  case sram => exact h.mem
  case frame => exact h.frame
  case bus => simp [hbi]
  case ring => simp [h.re]
  case take => simp [h.re]
  case mx => exact h.mx
  case su => exact h.su

/-! ## Events -/

/-- An event that has room (R155). -/
theorem issue_eq (s : State) (e : Event) (h : s.eu.unread ≤ 254) :
    issue s e = postAll { s with eu := { s.eu with evtHead := (s.eu.evtHead + 1) % 256 } }
      (writesAt (eventOffset s.eu.evtHead) (e.words s.frame)) := by simp [issue, h]

theorem issue_evtHead (s : State) (e : Event) (h : s.eu.unread ≤ 254) : (issue s e).eu.evtHead = (s.eu.evtHead + 1) % 256 := by
  rw [issue_eq s e h]; rfl

/-- An event adds at most one to the unread count. -/
theorem issue_unread (s : State) (e : Event) (hh : s.eu.evtHead < 256) (hr : s.eu.evtRead < 256) :
    (issue s e).eu.unread ≤ s.eu.unread + 1 := by
  unfold issue
  dsimp only
  split
  · simp only [postAll_eu, EU.unread]; omega
  · exact Nat.le_succ _

/-- An event is read where the head stood (R155, R156). -/
theorem issue_eventAt (s : State) (e : Event) (h : s.eu.unread ≤ 254) : EventAt (issue s e) s.eu.evtHead e s.frame := by
  intro i hi
  rw [issue_eq s e h, latestWord_eq, postAll_writes, youngest_append,
    youngest_writesAt _ _ _ (by rw [eventWords_length]; exact hi)]
  rfl

theorem EventAt.settle {s : State} {h : Nat} {e : Event} {f : Frame} (k : EventAt s h e f) (hh : h < 256) (b : State) :
    EventAt (settle b s) h e f := by
  intro i hi
  rw [settle_latestWord]
  · exact k i hi
  · intro hm
    simp only [IsMirror, eventOffset] at hm
    omega

/-! ## Completion (R151) -/

variable (s : State)

/-! ## completeRequest -/

@[simp] theorem completeRequest_pending (ws : List Word) (r : Result) (d : Word × Word) : (completeRequest s ws r d).pending = s.pending := by simp [completeRequest]
@[simp] theorem completeRequest_mem (ws : List Word) (r : Result) (d : Word × Word) : (completeRequest s ws r d).mem = s.mem := by simp [completeRequest]
@[simp] theorem completeRequest_frame (ws : List Word) (r : Result) (d : Word × Word) : (completeRequest s ws r d).frame = s.frame := by simp [completeRequest]
@[simp] theorem completeRequest_lc (ws : List Word) (r : Result) (d : Word × Word) : (completeRequest s ws r d).lc = s.lc := by simp [completeRequest]
@[simp] theorem completeRequest_cc (ws : List Word) (r : Result) (d : Word × Word) : (completeRequest s ws r d).cc = s.cc := by simp [completeRequest]
@[simp] theorem completeRequest_hc (ws : List Word) (r : Result) (d : Word × Word) : (completeRequest s ws r d).hc = s.hc := by simp [completeRequest]
@[simp] theorem completeRequest_mx (ws : List Word) (r : Result) (d : Word × Word) : (completeRequest s ws r d).mx = s.mx := by simp [completeRequest]
@[simp] theorem completeRequest_ra (ws : List Word) (r : Result) (d : Word × Word) : (completeRequest s ws r d).ra = s.ra := by simp [completeRequest]
@[simp] theorem completeRequest_um (ws : List Word) (r : Result) (d : Word × Word) : (completeRequest s ws r d).um = s.um := by simp [completeRequest]
@[simp] theorem completeRequest_su (ws : List Word) (r : Result) (d : Word × Word) : (completeRequest s ws r d).su = s.su := by simp [completeRequest]
@[simp] theorem completeRequest_bi_base (ws : List Word) (r : Result) (d : Word × Word) : (completeRequest s ws r d).bi.base = s.bi.base := by simp [completeRequest]
@[simp] theorem completeRequest_bi_copies (ws : List Word) (r : Result) (d : Word × Word) : (completeRequest s ws r d).bi.copies = s.bi.copies := by simp [completeRequest]
@[simp] theorem completeRequest_bi_startCopy (ws : List Word) (r : Result) (d : Word × Word) : (completeRequest s ws r d).bi.startCopy = s.bi.startCopy := by simp [completeRequest]
@[simp] theorem completeRequest_bi_latch (ws : List Word) (r : Result) (d : Word × Word) : (completeRequest s ws r d).bi.latch = s.bi.latch := by simp [completeRequest]
@[simp] theorem completeRequest_bi_measHold (ws : List Word) (r : Result) (d : Word × Word) : (completeRequest s ws r d).bi.measHold = s.bi.measHold := by simp [completeRequest]
@[simp] theorem completeRequest_bi_held (ws : List Word) (r : Result) (d : Word × Word) : (completeRequest s ws r d).bi.held = s.bi.held := by simp [completeRequest]
@[simp] theorem completeRequest_bi_readData (ws : List Word) (r : Result) (d : Word × Word) : (completeRequest s ws r d).bi.readData = s.bi.readData := by simp [completeRequest]
@[simp] theorem completeRequest_eu_evtRead (ws : List Word) (r : Result) (d : Word × Word) : (completeRequest s ws r d).eu.evtRead = s.eu.evtRead := by simp [completeRequest]
@[simp] theorem completeRequest_eu_fault (ws : List Word) (r : Result) (d : Word × Word) : (completeRequest s ws r d).eu.fault = s.eu.fault := by simp [completeRequest]
@[simp] theorem completeRequest_eu_recorder (ws : List Word) (r : Result) (d : Word × Word) : (completeRequest s ws r d).eu.recorder = s.eu.recorder := by simp [completeRequest]
@[simp] theorem completeRequest_eu_mask (ws : List Word) (r : Result) (d : Word × Word) : (completeRequest s ws r d).eu.mask = s.eu.mask := by simp [completeRequest]
@[simp] theorem completeRequest_eu_attention (ws : List Word) (r : Result) (d : Word × Word) : (completeRequest s ws r d).eu.attention = s.eu.attention := by simp [completeRequest]
@[simp] theorem completeRequest_eu_fltHead (ws : List Word) (r : Result) (d : Word × Word) : (completeRequest s ws r d).eu.fltHead = s.eu.fltHead := by simp [completeRequest]
@[simp] theorem completeRequest_eu_fltRead (ws : List Word) (r : Result) (d : Word × Word) : (completeRequest s ws r d).eu.fltRead = s.eu.fltRead := by simp [completeRequest]
@[simp] theorem completeRequest_eu_cause (ws : List Word) (r : Result) (d : Word × Word) : (completeRequest s ws r d).eu.cause = s.eu.cause := by simp [completeRequest]
@[simp] theorem completeRequest_eu_unlogged (ws : List Word) (r : Result) (d : Word × Word) : (completeRequest s ws r d).eu.unlogged = s.eu.unlogged := by simp [completeRequest]
@[simp] theorem completeRequest_line (ws : List Word) (r : Result) (d : Word × Word) (m : Nat) : (completeRequest s ws r d).line m = s.line m := State.line_congr (completeRequest_lc s ws r d) m
@[simp] theorem completeRequest_key (ws : List Word) (r : Result) (d : Word × Word) (m : Nat) : (completeRequest s ws r d).key m = s.key m := State.key_congr (completeRequest_lc s ws r d) m
@[simp] theorem completeRequest_appEntries (ws : List Word) (r : Result) (d : Word × Word) (m : Nat) : (completeRequest s ws r d).appEntries m = s.appEntries m := State.appEntries_congr (completeRequest_lc s ws r d) m
@[simp] theorem completeRequest_alertList (ws : List Word) (r : Result) (d : Word × Word) (m : Nat) : (completeRequest s ws r d).alertList m = s.alertList m := State.alertList_congr (completeRequest_lc s ws r d) m
@[simp] theorem completeRequest_circuit (ws : List Word) (r : Result) (d : Word × Word) (m : Nat) : (completeRequest s ws r d).circuit m = s.circuit m := State.circuit_congr (completeRequest_cc s ws r d) m
@[simp] theorem completeRequest_path (ws : List Word) (r : Result) (d : Word × Word) (m : Nat) : (completeRequest s ws r d).path m = s.path m := State.path_congr (completeRequest_cc s ws r d) m
@[simp] theorem completeRequest_handset (ws : List Word) (r : Result) (d : Word × Word) (m : Party) : (completeRequest s ws r d).handset m = s.handset m := State.handset_congr (completeRequest_hc s ws r d) m
@[simp] theorem completeRequest_call (ws : List Word) (r : Result) (d : Word × Word) (m : Nat) : (completeRequest s ws r d).call m = s.call m := State.call_congr (completeRequest_hc s ws r d) m
@[simp] theorem completeRequest_position (ws : List Word) (r : Result) (d : Word × Word) (m : Nat) : (completeRequest s ws r d).position m = s.position m := State.position_congr (completeRequest_hc s ws r d) m
@[simp] theorem completeRequest_speaker (ws : List Word) (r : Result) (d : Word × Word) (m : Nat) : (completeRequest s ws r d).speaker m = s.speaker m := State.speaker_congr (completeRequest_mx s ws r d) m
@[simp] theorem completeRequest_bridge (ws : List Word) (r : Result) (d : Word × Word) (m : Nat) : (completeRequest s ws r d).bridge m = s.bridge m := State.bridge_congr (completeRequest_mx s ws r d) m
@[simp] theorem completeRequest_channel (ws : List Word) (r : Result) (d : Word × Word) (m : Nat) : (completeRequest s ws r d).channel m = s.channel m := State.channel_congr (completeRequest_ra s ws r d) m
@[simp] theorem completeRequest_port (ws : List Word) (r : Result) (d : Word × Word) (m : Nat) : (completeRequest s ws r d).port m = s.port m := State.port_congr (completeRequest_ra s ws r d) m
@[simp] theorem completeRequest_context (ws : List Word) (r : Result) (d : Word × Word) (m : Nat) : (completeRequest s ws r d).context m = s.context m := State.context_congr (completeRequest_um s ws r d) m

@[simp] theorem completeRequest_head (ws : List Word) (r : Result) (d : Word × Word) :
    (completeRequest s ws r d).re.head = (s.re.head + 1) % 64 := by simp [completeRequest]

@[simp] theorem completeRequest_tail (ws : List Word) (r : Result) (d : Word × Word) : (completeRequest s ws r d).re.tail = s.re.tail := by
  simp [completeRequest]

@[simp] theorem completeRequest_take (ws : List Word) (r : Result) (d : Word × Word) : (completeRequest s ws r d).re.take = .idle := rfl

theorem completeRequest_latestWord (ws : List Word) (r : Result) (d : Word × Word) (off : Nat) :
    latestWord (completeRequest s ws r d) off = latestWord (issue s (.reqDone s.re.head (wordOf ws 0) r d.1 d.2)) off := rfl

theorem completeRequest_evtHead (ws : List Word) (r : Result) (d : Word × Word) (h : s.eu.unread ≤ 254) :
    (completeRequest s ws r d).eu.evtHead = (s.eu.evtHead + 1) % 256 := issue_evtHead s _ h

/-- Completion leaves every block but the ring, the engine and the event ring. -/
theorem leaves_completeRequest (ws : List Word) (r : Result) (d : Word × Word) (he : s.eu.evtHead < 256) :
    Leaves s (completeRequest s ws r d) [.ring, .take, .events] := by
  refine ⟨by simp, fun b hb => ?_⟩
  cases b <;> simp at hb <;> simp only [Same]
  case words => exact fun off ho => (issue_words _ he).2 off ho
  all_goals simp

theorem leaves_postMirrors (b : State) : Leaves s (postMirrors b s) [] := by
  refine ⟨rfl, fun x _ => ?_⟩
  cases x <;> simp only [Same]
  case words => exact fun off ho => postMirrors_latestWord b s off fun hm => ho (isMirror_owned off hm)
  all_goals simp

/-- A turn at the port leaves the processor's held accesses (R138). -/
@[simp] theorem takeTurn_held (u : PortUser) : (takeTurn s u).bi.held = s.bi.held := by
  cases u <;> simp only [takeTurn, access, askPort, drainOne, fetchWord, readUpdateWord, readLoadWord] <;> (repeat' split) <;> rfl

/-- A turn within a command takes a requester's access and may end an update; with no processor access held it does nothing else (R138). -/
theorem servedTurn_of_nothingHeld (u : PortUser) (h : s.bi.held = []) : servedTurn s u = endUpdateIfDone (takeTurn s u) := by
  simp [servedTurn, h, serveHeld]

/-- Rejecting a commit joins the entry's status to the queue, then the words of CONFIG_REJECT when the event ring has room (R130, R155). -/
theorem rejectCommit_writes (ws : List (Nat × Word)) (what : Rejected) :
    writesOf (rejectCommit s ws what) = writesOf s ++ ws ++
      (if s.eu.unread ≤ 254 then writesAt (eventOffset s.eu.evtHead) ((Event.configReject what).words s.frame) else []) := by
  have hr : ∀ s : State, writesOf (rejectEntry s what) = writesOf (issue s (.configReject what)) := by
    intro s; unfold rejectEntry; dsimp only; split <;> rfl
  rw [rejectCommit, hr]
  unfold issue
  split
  · next h =>
    rw [postAll_writes, if_pos (by simpa using h), ← postAll_writes s ws]
    simp [writesOf]
  · next h =>
    rw [if_neg (by simpa using h), ← postAll_writes s ws]
    simp [writesOf]

/-- A fetch that has its sixteen words reads no more of them (R147). -/
theorem finishFetch_whole {s : State} (h : accessesLeft s .fetch = 0) (c : Nat → Bool) : finishFetch s c = s := by
  simp [finishFetch, finishReads, waits, h]

/-- A request command takes a request that is ready as it stands. -/
theorem requestTaken_ready {s : State} {code k : Nat} {ws : List Word} (h : Ready s code ws k) (names : Names)
    (own : State → List Word → State × Result) (detail : State → Word × Word) :
    requestTaken s code names own detail = done s (takeRequest s code names own detail) := by
  simp only [requestTaken, finishFetch_whole h.whole]

/-- A request that is ready and passes the common checks runs its own effects, posts the mirrors that they change, and completes (R55, R149,
R151). -/
theorem takeRequest_ready {s : State} {code k : Nat} {ws : List Word} (h : Ready s code ws k) (names : Names)
    (own : State → List Word → State × Result) (detail : State → Word × Word) (hn : commonRefusal s ws names = none) :
    takeRequest s code names own detail =
      completeRequest (postMirrors s (own s ws).1) ws (own s ws).2 (detail (own s ws).1) := by
  simp [takeRequest, h.fetched, h.code, hn]

theorem commonRefusal_nothing (ws : List Word) : commonRefusal s ws .nothing = none := rfl

theorem commonRefusal_handset {s : State} {ws : List Word} {p : Party} (h : FromHandset s ws p) : commonRefusal s ws .handset = none := by
  obtain ⟨h1, h2, h3, h4⟩ := h
  subst h1
  simp only [requestParty] at h2 h3 h4
  simp [commonRefusal, h3, h4, Nat.not_le.mpr h2]

theorem fetching_ne_waiting {s : State} {ws : List Word} (h : fetched s = some ws) : s.re.take ≠ .waitingForRoom := by
  intro hw
  simp [fetched, hw] at h

/-- What a completed request leaves: everything that its own effects left, but the ring, the engine and the event ring. -/
theorem leaves_completed {s u : State} {xs : List Block} (h : Leaves s u xs) (he : u.eu.evtHead < 256) (b : State) (ws : List Word)
    (r : Result) (d : Word × Word) : Leaves s (settle b (completeRequest u ws r d)) (xs ++ [.ring, .take, .events]) := by
  have := (h.trans (leaves_completeRequest u ws r d he)).trans (leaves_settle b _)
  simpa using this

/-- What completion does, at the end of a command whose effects kept the ring and the frame. -/
theorem completed_settle {s u : State} (b : State) (ws : List Word) (r : Result) (d : Word × Word) (hr : u.re.head = s.re.head)
    (ht : u.re.tail = s.re.tail) (hf : u.frame = s.frame) (hu : u.eu.unread ≤ 254) (hh : u.eu.evtHead < 256) :
    Completed s (settle b (completeRequest u ws r d)) ws r d.1 d.2 := by
  refine ⟨by simp [hr], by simp [ht], ?_, u.eu.evtHead, hh, by simp [completeRequest_evtHead u ws r d hu], ?_⟩
  · rw [settle_take b _ (by simp)]
    simp
  · refine EventAt.settle ?_ hh b
    intro i hi
    rw [completeRequest_latestWord, ← hr, ← hf]
    exact issue_eventAt u _ hu i hi

/-- What completion does when own effects may have filled the event ring: the last event is the REQ_DONE unless events were dropped
(R151, R155). -/
theorem finished_settle {s u : State} (h : CallWork s u) (b : State) (ws : List Word) (r : Result) (hh : s.eu.evtHead < 256) :
    Finished s (settle b (completeRequest u ws r (0#32, 0#32))) ws r := by
  have hr := h.re
  refine ⟨⟨by simp [hr], by simp [hr], ?_⟩, fun hl hk => ?_⟩
  · rw [settle_take b _ (by simp)]
    simp
  · have h1 := h.lost (Nat.le_of_lt hl)
    have hu : u.eu.unread ≤ 254 := by
      by_contra hn
      have : (completeRequest u ws r (0#32, 0#32)).eu.lost = min (u.eu.lost + 1) 65535 := by
        simp [completeRequest, issue, hn]
      simp [this] at hk
      omega
    have he := completeRequest_evtHead u ws r (0#32, 0#32) hu
    have hlt := (h.words hh).1
    have e1 : ((u.eu.evtHead + 1) % 256 + 255) % 256 = u.eu.evtHead := by omega
    simp only [settle_eu, he, e1]
    refine EventAt.settle ?_ hlt b
    intro i hi
    rw [completeRequest_latestWord, ← h.frame, ← congrArg RE.head hr]
    exact issue_eventAt u _ hu i hi

end Sys2Proof.Machine
end

