-- ==== Sys2Proof/Laws/Memory.lean ====
section
/-!
SUPPORT. Reading the SRAM after a write (R126), and what a processor read finds after one (R137).
-/

namespace Sys2Proof.Machine

theorem byteAt_setByte (m : List Host.Cell) (a : Nat) (b : BitVec 8) (c : Nat) : byteAt (setByte m a b) c = if c = a then b else byteAt m c := by
  simp [byteAt, setByte]

/-- A byte after the write of a word. -/
theorem byteAt_writeWord (m : List Host.Cell) (a : Nat) (w : Word) (be : ByteEnables) (c : Nat) :
    byteAt (writeWord m a w be) c = if 4 * a ≤ c ∧ c < 4 * a + 4 ∧ be.getLsbD (c - 4 * a) = true then byteOf w (c - 4 * a) else byteAt m c := by
  have step : ∀ m i, byteAt (if be.getLsbD i = true then setByte m (4 * a + i) (byteOf w i) else m) c =
      if c = 4 * a + i ∧ be.getLsbD i = true then byteOf w i else byteAt m c := by
    intro m i
    split <;> simp_all [byteAt_setByte]
  simp only [writeWord, show List.range 4 = [0, 1, 2, 3] from rfl, List.foldl_cons, List.foldl_nil, step]
  by_cases hr : 4 * a ≤ c ∧ c < 4 * a + 4
  · obtain ⟨i, hi, rfl⟩ : ∃ i, i < 4 ∧ c = 4 * a + i := ⟨c - 4 * a, by omega, by omega⟩
    rw [Nat.add_sub_cancel_left]
    have : i = 0 ∨ i = 1 ∨ i = 2 ∨ i = 3 := by omega
    rcases this with rfl | rfl | rfl | rfl <;> simp
  · have hn : ∀ i < 4, ¬(c = 4 * a + i ∧ be.getLsbD i = true) := fun i hi h => hr (by omega)
    rw [if_neg (hn 3 (by omega)), if_neg (hn 2 (by omega)), if_neg (hn 1 (by omega)), if_neg (hn 0 (by omega)),
      if_neg fun h => hr ⟨h.1, h.2.1⟩]

/-- Another word after the write of a word. -/
theorem wordAt_writeWord_ne (m : List Host.Cell) (a : Nat) (w : Word) (be : ByteEnables) (c : Nat) (h : c ≠ a) :
    wordAt (writeWord m a w be) c = wordAt m c := by
  simp only [wordAt, byteAt_writeWord]
  repeat rw [if_neg (by omega)]

theorem ofBytes_byteOf (w : Word) : ofBytes (byteOf w 0) (byteOf w 1) (byteOf w 2) (byteOf w 3) = w := by
  refine BitVec.eq_of_getLsbD_eq fun i hi => ?_
  simp only [ofBytes, byteOf, BitVec.getLsbD_append, BitVec.getLsbD_extractLsb', Nat.reduceMul]
  by_cases h0 : i < 8
  · simp [h0]
  · by_cases h1 : i - 8 < 8
    · simp [h0, h1, show 8 + (i - 8) = i by omega]
    · by_cases h2 : i - 8 - 8 < 8
      · simp [h0, h1, h2, show 16 + (i - 8 - 8) = i by omega]
      · simp [h0, h1, h2, show i - 8 - 8 - 8 < 8 by omega, show 24 + (i - 8 - 8 - 8) = i by omega]

/-- The word that a write of all four bytes wrote. -/
theorem wordAt_writeWord_all (m : List Host.Cell) (a : Nat) (w : Word) : wordAt (writeWord m a w 0b1111#4) a = w := by
  have h : ∀ i < 4, (0b1111#4).getLsbD i = true := by decide
  simp only [wordAt, byteAt_writeWord]
  repeat rw [if_pos ⟨by omega, by omega, h _ (by omega)⟩]
  simp only [show 4 * a - 4 * a = 0 by omega, Nat.add_sub_cancel_left]
  exact ofBytes_byteOf w

/-! Each byte of a word made of bytes. -/

theorem byteOf_ofBytes_0 (b0 b1 b2 b3 : BitVec 8) : byteOf (ofBytes b0 b1 b2 b3) 0 = b0 := by
  refine BitVec.eq_of_getLsbD_eq fun j hj => ?_
  simp only [byteOf, BitVec.getLsbD_extractLsb', hj, decide_true, Bool.true_and, ofBytes, BitVec.getLsbD_append]
  rw [if_pos (by omega)]
  congr 1
  omega

theorem byteOf_ofBytes_1 (b0 b1 b2 b3 : BitVec 8) : byteOf (ofBytes b0 b1 b2 b3) 1 = b1 := by
  refine BitVec.eq_of_getLsbD_eq fun j hj => ?_
  simp only [byteOf, BitVec.getLsbD_extractLsb', hj, decide_true, Bool.true_and, ofBytes, BitVec.getLsbD_append]
  rw [if_neg (by omega), if_pos (by omega)]
  congr 1
  omega

theorem byteOf_ofBytes_2 (b0 b1 b2 b3 : BitVec 8) : byteOf (ofBytes b0 b1 b2 b3) 2 = b2 := by
  refine BitVec.eq_of_getLsbD_eq fun j hj => ?_
  simp only [byteOf, BitVec.getLsbD_extractLsb', hj, decide_true, Bool.true_and, ofBytes, BitVec.getLsbD_append]
  rw [if_neg (by omega), if_neg (by omega), if_pos (by omega)]
  congr 1
  omega

theorem byteOf_ofBytes_3 (b0 b1 b2 b3 : BitVec 8) : byteOf (ofBytes b0 b1 b2 b3) 3 = b3 := by
  refine BitVec.eq_of_getLsbD_eq fun j hj => ?_
  simp only [byteOf, BitVec.getLsbD_extractLsb', hj, decide_true, Bool.true_and, ofBytes, BitVec.getLsbD_append]
  rw [if_neg (by omega), if_neg (by omega), if_neg (by omega)]
  congr 1
  omega

/-- The word that a write with byte enables leaves is the byte merge of R126. -/
theorem wordAt_writeWord_self (m : List Host.Cell) (a : Nat) (w : Word) (be : ByteEnables) :
    wordAt (writeWord m a w be) a = mergeBytes (wordAt m a) w be := by
  have hc : ∀ i < 4, byteAt (writeWord m a w be) (4 * a + i) = if be.getLsbD i = true then byteOf w i else byteAt m (4 * a + i) := by
    intro i hi
    rw [byteAt_writeWord, Nat.add_sub_cancel_left]
    simp [hi]
  have h0 := hc 0 (by omega)
  rw [Nat.add_zero] at h0
  simp only [wordAt, mergeBytes, byteOf_ofBytes_0, byteOf_ofBytes_1, byteOf_ofBytes_2, byteOf_ofBytes_3, h0, hc 1 (by omega),
    hc 2 (by omega), hc 3 (by omega)]

/-- Another word of the aperture reads after a processor write as before it. -/
theorem writeSram_latestWord (s : State) (off : Nat) (d : Word) (be : ByteEnables) (o : Nat) (h : o ≠ off) :
    latestWord (writeSram s (sramAddress s off) d be) o = latestWord s o := by
  rw [latestWord_eq, latestWord_eq]
  congr 1
  exact wordAt_writeWord_ne _ _ _ _ _ (by simp only [sramAddress, writeSram]; omega)

/-- The aperture offset of an aperture address (R125). -/
theorem offsetOf_sramAddress (s : State) (off : Nat) (h : off < 0x10000) : offsetOf s (sramAddress s off) = some off := by
  have h1 : sramAddress s 0 ≤ sramAddress s off ∧ sramAddress s off < sramAddress s 0 + 0x10000 := by simp only [sramAddress]; omega
  rw [offsetOf, if_pos h1]
  simp only [sramAddress, Option.some.injEq]
  omega

/-- A processor write that nothing holds is taken at once (R126, R127). -/
theorem apertureWrite_taken {s : State} {off : Nat} {be : ByteEnables} (h : Taken s off be) (data : Word) :
    apertureWrite s off data be = done s (takeWrite s off data be) := by
  have hm : mustHold s (.write (sramAddress s off) data be) = false := h.free
  simp [apertureWrite, processorAccess, Access.enables, h.enables, h.none, hm, takeAccess, offsetOf_sramAddress s off h.inside]

theorem inLiveWindow_inside {off : Nat} (hw : inLiveWindow off = true) : off < 0x10000 := by
  simp only [inLiveWindow, decide_eq_true_eq] at hw
  omega

/-- A read of a Live Window word puts its enabled bytes on the bus, then has its side effect (R126, R135). -/
theorem takeRead_liveWindow {s : State} {off : Nat} (hw : inLiveWindow off = true) (be : ByteEnables) :
    takeRead s (sramAddress s off) be =
      readEffect { s with bi := { s.bi with readData := mergeBytes 0#32 (liveWindowWord s off) be } } off := by
  have ho := fun s => offsetOf_sramAddress s off (inLiveWindow_inside hw)
  have ho' := ho { s with bi := { s.bi with readData := mergeBytes 0#32 (liveWindowWord s off) be } }
  simp only [takeRead, readSideEffect, readWord, ho, hw, if_true]
  rw [show sramAddress s off = sramAddress { s with bi := { s.bi with readData := mergeBytes 0#32 (liveWindowWord s off) be } } off from rfl,
    ho']
  simp [hw]

/-- A read of a Live Window word is never held by another rule than the order of accesses (R138 to R141). -/
theorem apertureRead_liveWindow {s : State} {off : Nat} {be : ByteEnables} (hw : inLiveWindow off = true) (hb : be ≠ 0#4)
    (hh : s.bi.held = []) :
    apertureRead s off be =
      done s (readEffect { s with bi := { s.bi with readData := mergeBytes 0#32 (liveWindowWord s off) be } } off) := by
  have hm : mustHold s (.read (sramAddress s off) be) = false := by
    simp [mustHold, offsetOf_sramAddress s off (inLiveWindow_inside hw), holdsRead, hw]
  rw [← takeRead_liveWindow hw]
  simp [apertureRead, processorAccess, Access.enables, hb, hh, hm, takeAccess]

end Sys2Proof.Machine
end

