-- ==== Sys2Proof/Laws/PerInstr.lean ====
section
/-!
SUPPORT. What well-formedness says of every command, one lemma for each.
-/

namespace Sys2Proof.Laws.InputsInRange

open Sys2Proof.Machine

/-- The byte enables of a command that is a processor access. -/
def enablesOf : Instr → Option ByteEnables
  | .coldStart _ => none
  | .recoverInput => none
  | .frameStart _ => none
  | .requestFetch => none
  | .nop => none
  | .select => none
  | .answer => none
  | .privacy => none
  | .forceRelease => none
  | .lineService => none
  | .signal => none
  | .circuitReset => none
  | .release => none
  | .hold => none
  | .retrieve => none
  | .join => none
  | .intercomCall => none
  | .intercomAnswer => none
  | .speakerSet => none
  | .speakerVolume => none
  | .ptt => none
  | .measureMode => none
  | .setAttention => none
  | .quiesce => none
  | .resume => none
  | .restart => none
  | .badCode => none
  | .restartDrainEnd => none
  | .startWord _ be => some be
  | .descriptorCheck => none
  | .loadEntryRead => none
  | .loadEnd => none
  | .lineCommit _ _ be => some be
  | .positionCommit _ _ be => some be
  | .bridgeCommit _ _ be => some be
  | .configWordWrite _ _ be => some be
  | .appearanceWrite _ _ _ be => some be
  | .recorderConfigWrite _ _ be => some be
  | .reqTail _ be => some be
  | .evtRead _ be => some be
  | .fltRead _ be => some be
  | .protectedWrite _ _ be => some be
  | .memoryWrite _ _ be => some be
  | .frameCountHighRead be => some be
  | .frameCountLowRead be => some be
  | .summaryRead be => some be
  | .fltHeadRead be => some be
  | .lostCountRead be => some be
  | .shortageRead be => some be
  | .pwqEntryWrite => none
  | .measurementUpdateStart => none
  | .measurementReadDone => none
  | .seizeAck _ => none
  | .ringDetect _ => none
  | .farAnswer _ => none
  | .farClear _ => none
  | .circuitDown _ => none
  | .circuitUp _ => none
  | .resetDone _ => none
  | .seize => none
  | .ringOn => none
  | .ringOff => none
  | .releaseMessage => none
  | .reset => none
  | .cadenceOn _ => none
  | .cadenceOff _ => none
  | .burst _ => none
  | .ackWait _ => none
  | .noAnswer _ => none
  | .ringIn _ => none
  | .guard _ => none
  | .intercomTimer _ => none

/-- The offsets that a command gives as an operand and that its row restricts (R130, R134). -/
def offsetOk : Instr → Bool
  | .coldStart _ => true
  | .recoverInput => true
  | .frameStart _ => true
  | .requestFetch => true
  | .nop => true
  | .select => true
  | .answer => true
  | .privacy => true
  | .forceRelease => true
  | .lineService => true
  | .signal => true
  | .circuitReset => true
  | .release => true
  | .hold => true
  | .retrieve => true
  | .join => true
  | .intercomCall => true
  | .intercomAnswer => true
  | .speakerSet => true
  | .speakerVolume => true
  | .ptt => true
  | .measureMode => true
  | .setAttention => true
  | .quiesce => true
  | .resume => true
  | .restart => true
  | .badCode => true
  | .restartDrainEnd => true
  | .startWord _ _ => true
  | .descriptorCheck => true
  | .loadEntryRead => true
  | .loadEnd => true
  | .lineCommit _ _ _ => true
  | .positionCommit _ _ _ => true
  | .bridgeCommit _ _ _ => true
  | .configWordWrite off _ _ => isLaterWord off
  | .appearanceWrite _ _ _ _ => true
  | .recorderConfigWrite _ _ _ => true
  | .reqTail _ _ => true
  | .evtRead _ _ => true
  | .fltRead _ _ => true
  | .protectedWrite off _ _ => isProtected off
  | .memoryWrite _ _ _ => true
  | .frameCountHighRead _ => true
  | .frameCountLowRead _ => true
  | .summaryRead _ => true
  | .fltHeadRead _ => true
  | .lostCountRead _ => true
  | .shortageRead _ => true
  | .pwqEntryWrite => true
  | .measurementUpdateStart => true
  | .measurementReadDone => true
  | .seizeAck _ => true
  | .ringDetect _ => true
  | .farAnswer _ => true
  | .farClear _ => true
  | .circuitDown _ => true
  | .circuitUp _ => true
  | .resetDone _ => true
  | .seize => true
  | .ringOn => true
  | .ringOff => true
  | .releaseMessage => true
  | .reset => true
  | .cadenceOn _ => true
  | .cadenceOff _ => true
  | .burst _ => true
  | .ackWait _ => true
  | .noAnswer _ => true
  | .ringIn _ => true
  | .guard _ => true
  | .intercomTimer _ => true

/-- A well-formed command enables a byte if it is an access (R126), gives an offset of its row's zone (R130, R134), and, if it is a frame,
samples of the 512 input slots (R74). -/
def Statement (i : Instr) : Prop :=
  wellFormed i = true →
    (∀ be, enablesOf i = some be → be ≠ 0#4) ∧ offsetOk i = true ∧ ∀ inputs, i = .frameStart inputs → ∀ e ∈ inputs, e.1 < 512

theorem coldStart (straps : Fin 16) : Statement (.coldStart straps) := fun _ => ⟨(fun _ hb => by cases hb), rfl, (fun _ ht => by cases ht)⟩
theorem recoverInput : Statement .recoverInput := fun _ => ⟨(fun _ hb => by cases hb), rfl, (fun _ ht => by cases ht)⟩
theorem frameStart (inputs : Table Sample) : Statement (.frameStart inputs) := by
  intro h
  refine ⟨(fun be hb => by cases hb), rfl, fun t ht e he => ?_⟩
  cases ht
  simp only [wellFormed, inputsOk, Bool.and_eq_true, List.all_eq_true, decide_eq_true_eq] at h
  exact h.2 e he
theorem requestFetch : Statement .requestFetch := fun _ => ⟨(fun _ hb => by cases hb), rfl, (fun _ ht => by cases ht)⟩
theorem nop : Statement .nop := fun _ => ⟨(fun _ hb => by cases hb), rfl, (fun _ ht => by cases ht)⟩
theorem select : Statement .select := fun _ => ⟨(fun _ hb => by cases hb), rfl, (fun _ ht => by cases ht)⟩
theorem answer : Statement .answer := fun _ => ⟨(fun _ hb => by cases hb), rfl, (fun _ ht => by cases ht)⟩
theorem privacy : Statement .privacy := fun _ => ⟨(fun _ hb => by cases hb), rfl, (fun _ ht => by cases ht)⟩
theorem forceRelease : Statement .forceRelease := fun _ => ⟨(fun _ hb => by cases hb), rfl, (fun _ ht => by cases ht)⟩
theorem lineService : Statement .lineService := fun _ => ⟨(fun _ hb => by cases hb), rfl, (fun _ ht => by cases ht)⟩
theorem signal : Statement .signal := fun _ => ⟨(fun _ hb => by cases hb), rfl, (fun _ ht => by cases ht)⟩
theorem circuitReset : Statement .circuitReset := fun _ => ⟨(fun _ hb => by cases hb), rfl, (fun _ ht => by cases ht)⟩
theorem release : Statement .release := fun _ => ⟨(fun _ hb => by cases hb), rfl, (fun _ ht => by cases ht)⟩
theorem hold : Statement .hold := fun _ => ⟨(fun _ hb => by cases hb), rfl, (fun _ ht => by cases ht)⟩
theorem retrieve : Statement .retrieve := fun _ => ⟨(fun _ hb => by cases hb), rfl, (fun _ ht => by cases ht)⟩
theorem join : Statement .join := fun _ => ⟨(fun _ hb => by cases hb), rfl, (fun _ ht => by cases ht)⟩
theorem intercomCall : Statement .intercomCall := fun _ => ⟨(fun _ hb => by cases hb), rfl, (fun _ ht => by cases ht)⟩
theorem intercomAnswer : Statement .intercomAnswer := fun _ => ⟨(fun _ hb => by cases hb), rfl, (fun _ ht => by cases ht)⟩
theorem speakerSet : Statement .speakerSet := fun _ => ⟨(fun _ hb => by cases hb), rfl, (fun _ ht => by cases ht)⟩
theorem speakerVolume : Statement .speakerVolume := fun _ => ⟨(fun _ hb => by cases hb), rfl, (fun _ ht => by cases ht)⟩
theorem ptt : Statement .ptt := fun _ => ⟨(fun _ hb => by cases hb), rfl, (fun _ ht => by cases ht)⟩
theorem measureMode : Statement .measureMode := fun _ => ⟨(fun _ hb => by cases hb), rfl, (fun _ ht => by cases ht)⟩
theorem setAttention : Statement .setAttention := fun _ => ⟨(fun _ hb => by cases hb), rfl, (fun _ ht => by cases ht)⟩
theorem quiesce : Statement .quiesce := fun _ => ⟨(fun _ hb => by cases hb), rfl, (fun _ ht => by cases ht)⟩
theorem resume : Statement .resume := fun _ => ⟨(fun _ hb => by cases hb), rfl, (fun _ ht => by cases ht)⟩
theorem restart : Statement .restart := fun _ => ⟨(fun _ hb => by cases hb), rfl, (fun _ ht => by cases ht)⟩
theorem badCode : Statement .badCode := fun _ => ⟨(fun _ hb => by cases hb), rfl, (fun _ ht => by cases ht)⟩
theorem restartDrainEnd : Statement .restartDrainEnd := fun _ => ⟨(fun _ hb => by cases hb), rfl, (fun _ ht => by cases ht)⟩
theorem startWord (data : Word) (be : ByteEnables) : Statement (.startWord data be) := by
  intro h
  simp only [wellFormed, enablesSome, decide_eq_true_eq] at h
  exact ⟨fun b hb => by cases hb; exact h, rfl, fun t ht => by cases ht⟩
theorem descriptorCheck : Statement .descriptorCheck := fun _ => ⟨(fun _ hb => by cases hb), rfl, (fun _ ht => by cases ht)⟩
theorem loadEntryRead : Statement .loadEntryRead := fun _ => ⟨(fun _ hb => by cases hb), rfl, (fun _ ht => by cases ht)⟩
theorem loadEnd : Statement .loadEnd := fun _ => ⟨(fun _ hb => by cases hb), rfl, (fun _ ht => by cases ht)⟩
theorem lineCommit (line : Fin 256) (data : Word) (be : ByteEnables) : Statement (.lineCommit line data be) := by
  intro h
  simp only [wellFormed, enablesSome, decide_eq_true_eq] at h
  exact ⟨fun b hb => by cases hb; exact h, rfl, fun t ht => by cases ht⟩
theorem positionCommit (position : Fin 32) (data : Word) (be : ByteEnables) : Statement (.positionCommit position data be) := by
  intro h
  simp only [wellFormed, enablesSome, decide_eq_true_eq] at h
  exact ⟨fun b hb => by cases hb; exact h, rfl, fun t ht => by cases ht⟩
theorem bridgeCommit (bridge : Fin 24) (data : Word) (be : ByteEnables) : Statement (.bridgeCommit bridge data be) := by
  intro h
  simp only [wellFormed, enablesSome, decide_eq_true_eq] at h
  exact ⟨fun b hb => by cases hb; exact h, rfl, fun t ht => by cases ht⟩
theorem configWordWrite (offset : Fin 65536) (data : Word) (be : ByteEnables) : Statement (.configWordWrite offset data be) := by
  intro h
  simp only [wellFormed, enablesSome, Bool.and_eq_true, decide_eq_true_eq] at h
  exact ⟨fun b hb => by cases hb; exact h.1, h.2, fun t ht => by cases ht⟩
theorem appearanceWrite (position : Fin 32) (key : Fin 128) (data : Word) (be : ByteEnables) : Statement (.appearanceWrite position key data be) := by
  intro h
  simp only [wellFormed, enablesSome, decide_eq_true_eq] at h
  exact ⟨fun b hb => by cases hb; exact h, rfl, fun t ht => by cases ht⟩
theorem recorderConfigWrite (channel : Fin 128) (data : Word) (be : ByteEnables) : Statement (.recorderConfigWrite channel data be) := by
  intro h
  simp only [wellFormed, enablesSome, decide_eq_true_eq] at h
  exact ⟨fun b hb => by cases hb; exact h, rfl, fun t ht => by cases ht⟩
theorem reqTail (data : Word) (be : ByteEnables) : Statement (.reqTail data be) := by
  intro h
  simp only [wellFormed, enablesSome, decide_eq_true_eq] at h
  exact ⟨fun b hb => by cases hb; exact h, rfl, fun t ht => by cases ht⟩
theorem evtRead (data : Word) (be : ByteEnables) : Statement (.evtRead data be) := by
  intro h
  simp only [wellFormed, enablesSome, decide_eq_true_eq] at h
  exact ⟨fun b hb => by cases hb; exact h, rfl, fun t ht => by cases ht⟩
theorem fltRead (data : Word) (be : ByteEnables) : Statement (.fltRead data be) := by
  intro h
  simp only [wellFormed, enablesSome, decide_eq_true_eq] at h
  exact ⟨fun b hb => by cases hb; exact h, rfl, fun t ht => by cases ht⟩
theorem protectedWrite (offset : Fin 65536) (data : Word) (be : ByteEnables) : Statement (.protectedWrite offset data be) := by
  intro h
  simp only [wellFormed, enablesSome, Bool.and_eq_true, decide_eq_true_eq] at h
  exact ⟨fun b hb => by cases hb; exact h.1, h.2, fun t ht => by cases ht⟩
theorem memoryWrite (address : Nat) (data : Word) (be : ByteEnables) : Statement (.memoryWrite address data be) := by
  intro h
  simp only [wellFormed, enablesSome, decide_eq_true_eq] at h
  exact ⟨fun b hb => by cases hb; exact h, rfl, fun t ht => by cases ht⟩
theorem frameCountHighRead (be : ByteEnables) : Statement (.frameCountHighRead be) := by
  intro h
  simp only [wellFormed, enablesSome, decide_eq_true_eq] at h
  exact ⟨fun b hb => by cases hb; exact h, rfl, fun t ht => by cases ht⟩
theorem frameCountLowRead (be : ByteEnables) : Statement (.frameCountLowRead be) := by
  intro h
  simp only [wellFormed, enablesSome, decide_eq_true_eq] at h
  exact ⟨fun b hb => by cases hb; exact h, rfl, fun t ht => by cases ht⟩
theorem summaryRead (be : ByteEnables) : Statement (.summaryRead be) := by
  intro h
  simp only [wellFormed, enablesSome, decide_eq_true_eq] at h
  exact ⟨fun b hb => by cases hb; exact h, rfl, fun t ht => by cases ht⟩
theorem fltHeadRead (be : ByteEnables) : Statement (.fltHeadRead be) := by
  intro h
  simp only [wellFormed, enablesSome, decide_eq_true_eq] at h
  exact ⟨fun b hb => by cases hb; exact h, rfl, fun t ht => by cases ht⟩
theorem lostCountRead (be : ByteEnables) : Statement (.lostCountRead be) := by
  intro h
  simp only [wellFormed, enablesSome, decide_eq_true_eq] at h
  exact ⟨fun b hb => by cases hb; exact h, rfl, fun t ht => by cases ht⟩
theorem shortageRead (be : ByteEnables) : Statement (.shortageRead be) := by
  intro h
  simp only [wellFormed, enablesSome, decide_eq_true_eq] at h
  exact ⟨fun b hb => by cases hb; exact h, rfl, fun t ht => by cases ht⟩
theorem pwqEntryWrite : Statement .pwqEntryWrite := fun _ => ⟨(fun _ hb => by cases hb), rfl, (fun _ ht => by cases ht)⟩
theorem measurementUpdateStart : Statement .measurementUpdateStart := fun _ => ⟨(fun _ hb => by cases hb), rfl, (fun _ ht => by cases ht)⟩
theorem measurementReadDone : Statement .measurementReadDone := fun _ => ⟨(fun _ hb => by cases hb), rfl, (fun _ ht => by cases ht)⟩
theorem seizeAck (circuit : Fin 256) : Statement (.seizeAck circuit) := fun _ => ⟨(fun _ hb => by cases hb), rfl, (fun _ ht => by cases ht)⟩
theorem ringDetect (circuit : Fin 256) : Statement (.ringDetect circuit) := fun _ => ⟨(fun _ hb => by cases hb), rfl, (fun _ ht => by cases ht)⟩
theorem farAnswer (circuit : Fin 256) : Statement (.farAnswer circuit) := fun _ => ⟨(fun _ hb => by cases hb), rfl, (fun _ ht => by cases ht)⟩
theorem farClear (circuit : Fin 256) : Statement (.farClear circuit) := fun _ => ⟨(fun _ hb => by cases hb), rfl, (fun _ ht => by cases ht)⟩
theorem circuitDown (circuit : Fin 256) : Statement (.circuitDown circuit) := fun _ => ⟨(fun _ hb => by cases hb), rfl, (fun _ ht => by cases ht)⟩
theorem circuitUp (circuit : Fin 256) : Statement (.circuitUp circuit) := fun _ => ⟨(fun _ hb => by cases hb), rfl, (fun _ ht => by cases ht)⟩
theorem resetDone (circuit : Fin 256) : Statement (.resetDone circuit) := fun _ => ⟨(fun _ hb => by cases hb), rfl, (fun _ ht => by cases ht)⟩
theorem seize : Statement .seize := fun _ => ⟨(fun _ hb => by cases hb), rfl, (fun _ ht => by cases ht)⟩
theorem ringOn : Statement .ringOn := fun _ => ⟨(fun _ hb => by cases hb), rfl, (fun _ ht => by cases ht)⟩
theorem ringOff : Statement .ringOff := fun _ => ⟨(fun _ hb => by cases hb), rfl, (fun _ ht => by cases ht)⟩
theorem releaseMessage : Statement .releaseMessage := fun _ => ⟨(fun _ hb => by cases hb), rfl, (fun _ ht => by cases ht)⟩
theorem reset : Statement .reset := fun _ => ⟨(fun _ hb => by cases hb), rfl, (fun _ ht => by cases ht)⟩
theorem cadenceOn (line : Fin 256) : Statement (.cadenceOn line) := fun _ => ⟨(fun _ hb => by cases hb), rfl, (fun _ ht => by cases ht)⟩
theorem cadenceOff (line : Fin 256) : Statement (.cadenceOff line) := fun _ => ⟨(fun _ hb => by cases hb), rfl, (fun _ ht => by cases ht)⟩
theorem burst (line : Fin 256) : Statement (.burst line) := fun _ => ⟨(fun _ hb => by cases hb), rfl, (fun _ ht => by cases ht)⟩
theorem ackWait (line : Fin 256) : Statement (.ackWait line) := fun _ => ⟨(fun _ hb => by cases hb), rfl, (fun _ ht => by cases ht)⟩
theorem noAnswer (line : Fin 256) : Statement (.noAnswer line) := fun _ => ⟨(fun _ hb => by cases hb), rfl, (fun _ ht => by cases ht)⟩
theorem ringIn (line : Fin 256) : Statement (.ringIn line) := fun _ => ⟨(fun _ hb => by cases hb), rfl, (fun _ ht => by cases ht)⟩
theorem guard (line : Fin 256) : Statement (.guard line) := fun _ => ⟨(fun _ hb => by cases hb), rfl, (fun _ ht => by cases ht)⟩
theorem intercomTimer (call : Fin 16) : Statement (.intercomTimer call) := fun _ => ⟨(fun _ hb => by cases hb), rfl, (fun _ ht => by cases ht)⟩

end Sys2Proof.Laws.InputsInRange
end

