-- ==== Sys2Proof/Laws/Teardown.lean ====
section
/-!
SUPPORT. The teardown of a restart, and entry to LOADING (R171, R177).
-/

namespace Sys2Proof.Machine

/-! ## Which blocks each part of the teardown touches -/

/-- Only the Circuit Controller differs. -/
def CcOnly (s t : State) : Prop := ∃ x, t = { s with cc := x }

theorem CcOnly.refl (s : State) : CcOnly s s := ⟨s.cc, rfl⟩

theorem CcOnly.trans {a b c : State} (h : CcOnly a b) (k : CcOnly b c) : CcOnly a c := by
  obtain ⟨x, rfl⟩ := h
  obtain ⟨y, rfl⟩ := k
  exact ⟨y, rfl⟩

theorem ccOnly_foldl {α : Type} (f : State → α → State) (l : List α) (hf : ∀ s a, CcOnly s (f s a)) (s : State) : CcOnly s (l.foldl f s) := by
  induction l generalizing s with
  | nil => exact .refl s
  | cons a l ih => exact (hf s a).trans (ih _)

theorem ccOnly_setCircuit (s : State) (c : Nat) (r : CircuitRec) : CcOnly s (s.setCircuit c r) := ⟨_, rfl⟩

theorem ccOnly_relist (s : State) (c : Nat) : CcOnly s (relist s c) := by
  unfold relist
  dsimp only
  (repeat' split) <;> first | exact .refl s | exact ⟨_, rfl⟩

theorem ccOnly_setDesired (s : State) (c : Nat) (d : LinkState) : CcOnly s (setDesired s c d) :=
  (ccOnly_setCircuit s c _).trans (ccOnly_relist _ c)

theorem ccOnly_enterIdle (s : State) (c : Nat) : CcOnly s (enterIdle s c) := ccOnly_setCircuit s c _

theorem ccOnly_renameCircuits (s : State) (cs : List Nat) : CcOnly s (renameCircuits s cs) := by
  refine ccOnly_foldl _ _ (fun s c => ?_) s
  unfold renameCircuit
  split
  · exact ccOnly_enterIdle s c
  · exact ccOnly_enterIdle s c
  · exact .refl s

theorem ccOnly_finishRelease (s : State) (c : Nat) : CcOnly s (finishRelease s c) := by
  unfold finishRelease
  dsimp only
  split
  · exact ccOnly_enterIdle s c
  · exact .refl s

theorem ccOnly_releaseCircuit (s : State) (c : Nat) (b : Bool) (o : Option Nat) : CcOnly s (releaseCircuit s c b o) :=
  (ccOnly_setCircuit s c _).trans ((ccOnly_relist _ c).trans (ccOnly_finishRelease _ c))

theorem ccOnly_tearCircuit (s : State) (c : Nat) : CcOnly s (tearCircuit s c) := by
  unfold tearCircuit
  split
  · exact ccOnly_releaseCircuit s c _ _
  · exact ccOnly_releaseCircuit s c _ _
  · exact (ccOnly_setCircuit s c _).trans (ccOnly_finishRelease _ c)

theorem ccOnly_refreshMasks (s : State) (n : Nat) (a b : List Nat) : CcOnly s (refreshMasks s n a b) := ⟨_, rfl⟩

/-! ## Lines -/

/-- What dropping a call copy does to line records (R3). -/
theorem dropCallCopy_eq (s : State) (n : Nat) : ∃ x, dropCallCopy s n = { s.setLine n { s.line n with callCopy := none } with cc := x } ∨
    ((s.line n).callCopy = none ∧ dropCallCopy s n = s) := by
  unfold dropCallCopy
  split
  · next h => exact ⟨s.cc, .inr ⟨h, rfl⟩⟩
  · next cc h =>
    obtain ⟨x, hx⟩ := (ccOnly_renameCircuits (s.setLine n { s.line n with callCopy := none }) cc.path).trans
      (ccOnly_refreshMasks _ n cc.path
        ((renameCircuits (s.setLine n { s.line n with callCopy := none }) cc.path).line n).applied.call.path)
    exact ⟨x, .inl hx⟩

theorem dropCallCopy_line (s : State) (n m : Nat) :
    (dropCallCopy s n).line m = if m = n then { s.line n with callCopy := none } else s.line m := by
  obtain ⟨x, h | ⟨hc, h⟩⟩ := dropCallCopy_eq s n
  · rw [h]
    exact State.setLine_line s n _ m
  · rw [h]
    split
    · next hm =>
      subst hm
      rw [← hc]
    · rfl

/-- The line records after the teardown of one line: step 1 of R177. -/
theorem tearLine_line (s : State) (n m : Nat) :
    (tearLine s n).line m = if m = n then
      { s.line n with
        callCopy := none, participants := [], setter := none, ringBurst := false, pathSwitching := false, switchFrom := none,
        pendingAdmin := false, signalTimer := none, stateTimer := none, state := .outOfService .admin, active := none,
        lastChange := if (s.line n).state = .outOfService .admin then (s.line n).lastChange else s.frame }
      else s.line m := by
  unfold tearLine
  dsimp only
  rw [dropCallCopy_line]
  by_cases hm : m = n <;> simp [hm]

/-- Only lines and circuits differ. -/
def CallsOnly (s t : State) : Prop := ∃ l x, t = { s with lc := { s.lc with lines := l }, cc := x }

theorem CallsOnly.trans {a b c : State} (h : CallsOnly a b) (k : CallsOnly b c) : CallsOnly a c := by
  obtain ⟨l, x, rfl⟩ := h
  obtain ⟨m, y, rfl⟩ := k
  exact ⟨m, y, rfl⟩

theorem CcOnly.calls {s t : State} (h : CcOnly s t) : CallsOnly s t := by
  obtain ⟨x, rfl⟩ := h
  exact ⟨s.lc.lines, x, rfl⟩

theorem callsOnly_tearLine (s : State) (n : Nat) : CallsOnly s (tearLine s n) := by
  unfold tearLine
  dsimp only
  obtain ⟨x, h | ⟨_, h⟩⟩ := dropCallCopy_eq
    (modLine s n fun l =>
      { l with participants := [], setter := none, ringBurst := false, pathSwitching := false, switchFrom := none, pendingAdmin := false,
               signalTimer := none, stateTimer := none, state := .outOfService .admin, active := none,
               lastChange := if l.state = .outOfService .admin then l.lastChange else s.frame }) n
  · rw [h]; exact ⟨_, _, rfl⟩
  · rw [h]; exact ⟨_, _, rfl⟩

theorem callsOnly_foldl {α : Type} (f : State → α → State) (l : List α) (hf : ∀ s a, CallsOnly s (f s a)) (s : State) :
    CallsOnly s (l.foldl f s) := by
  induction l generalizing s with
  | nil => exact ⟨s.lc.lines, s.cc, rfl⟩
  | cons a l ih => exact (hf s a).trans (ih _)

theorem callsOnly_tearCalls (s : State) : CallsOnly s (tearCalls s) :=
  ((ccOnly_foldl _ _ ccOnly_tearCircuit s).calls).trans (callsOnly_foldl _ _ callsOnly_tearLine _)

/-- A line record that the teardown leaves. -/
def TornLine (l : LineRec) : Prop :=
  l.participants = [] ∧ l.setter = none ∧ l.callCopy = none ∧ l.state = .outOfService .admin ∧ l.active = none ∧
    l.signalTimer = none ∧ l.stateTimer = none ∧ l.pendingAdmin = false ∧ l.ringBurst = false ∧ l.pathSwitching = false

theorem tornLine_cold : TornLine LineRec.cold := ⟨rfl, rfl, rfl, rfl, rfl, rfl, rfl, rfl, rfl, rfl⟩

theorem tearLines_line (l : List Nat) (s : State) (n : Nat) (h : n ∈ l ∨ TornLine (s.line n)) : TornLine ((l.foldl tearLine s).line n) := by
  induction l generalizing s with
  | nil => simpa using h
  | cons m l ih =>
    refine ih _ ?_
    by_cases hm : n = m
    · subst hm
      right
      rw [tearLine_line, if_pos rfl]
      exact ⟨rfl, rfl, rfl, rfl, rfl, rfl, rfl, rfl, rfl, rfl⟩
    · rcases h with h | h
      · exact .inl ((List.mem_cons.mp h).resolve_left hm)
      · right
        rw [tearLine_line, if_neg hm]
        exact h

/-- Every line after the teardown (R177). -/
theorem tearCalls_line (s : State) (n : Nat) : TornLine ((tearCalls s).line n) := by
  refine tearLines_line _ _ n ?_
  by_cases h : n ∈ Table.keys ((Table.keys s.cc.circuits).foldl tearCircuit s).lc.lines
  · exact .inl h
  · right
    rw [State.line, Table.get_eq_default_of_notMem _ _ _ h]
    exact tornLine_cold

/-! ## Circuits -/

/-- A circuit record that the teardown leaves. -/
def TornCircuit (r : CircuitRec) : Prop := r.owner = none ∧ r.state ≠ .seizing ∧ r.state ≠ .inUse

theorem tornCircuit_setCircuit (s : State) (c : Nat) (r : CircuitRec) (hr : TornCircuit r) (d : Nat) (h : d = c ∨ TornCircuit (s.circuit d)) :
    TornCircuit ((s.setCircuit c r).circuit d) := by
  rw [State.setCircuit_circuit]
  split
  · exact hr
  · next hd => exact h.resolve_left hd

theorem tornCircuit_enterIdle (s : State) (c d : Nat) (hd : TornCircuit (s.circuit d)) : TornCircuit ((enterIdle s c).circuit d) := by
  unfold enterIdle
  rw [modCircuit_eq, State.setCircuit_circuit]
  split
  · next h =>
    subst h
    refine ⟨hd.1, ?_, ?_⟩ <;> (dsimp only; split <;> simp)
  · exact hd

theorem tornCircuit_finishRelease (s : State) (c d : Nat) (hd : TornCircuit (s.circuit d)) : TornCircuit ((finishRelease s c).circuit d) := by
  unfold finishRelease
  dsimp only
  split
  · exact tornCircuit_enterIdle s c d hd
  · exact hd

theorem relist_circuit (s : State) (c d : Nat) : (relist s c).circuit d = s.circuit d := by
  unfold relist
  dsimp only
  (repeat' split) <;> simp

theorem tornCircuit_tearCircuit (s : State) (c d : Nat) (h : d = c ∨ TornCircuit (s.circuit d)) : TornCircuit ((tearCircuit s c).circuit d) := by
  have key : ∀ b, TornCircuit ((releaseCircuit s c b none).circuit d) := by
    intro b
    unfold releaseCircuit
    refine tornCircuit_finishRelease _ c d ?_
    rw [relist_circuit]
    exact tornCircuit_setCircuit s c _ ⟨rfl, by simp, by simp⟩ d h
  unfold tearCircuit
  split
  · exact key _
  · exact key _
  · next h1 h2 =>
    refine tornCircuit_finishRelease _ c d (tornCircuit_setCircuit s c _ ⟨rfl, ?_, ?_⟩ d h)
    · exact h1
    · exact h2

theorem tearCircuits_circuit (l : List Nat) (s : State) (d : Nat) (h : d ∈ l ∨ TornCircuit (s.circuit d)) :
    TornCircuit ((l.foldl tearCircuit s).circuit d) := by
  induction l generalizing s with
  | nil => simpa using h
  | cons c l ih =>
    refine ih _ ?_
    rcases h with h | h
    · rcases List.mem_cons.mp h with h | h
      · exact .inr (tornCircuit_tearCircuit s c d (.inl h))
      · exact .inl h
    · exact .inr (tornCircuit_tearCircuit s c d (.inr h))

theorem tornCircuit_renameCircuits (cs : List Nat) (s : State) (d : Nat) (h : TornCircuit (s.circuit d)) :
    TornCircuit ((renameCircuits s cs).circuit d) := by
  unfold renameCircuits
  induction cs generalizing s with
  | nil => exact h
  | cons c cs ih =>
    refine ih _ ?_
    unfold renameCircuit
    split
    · exact tornCircuit_enterIdle s c d h
    · exact tornCircuit_enterIdle s c d h
    · exact h

theorem tornCircuit_tearLine (s : State) (n d : Nat) (h : TornCircuit (s.circuit d)) : TornCircuit ((tearLine s n).circuit d) := by
  unfold tearLine dropCallCopy
  dsimp only
  split
  · exact h
  · exact tornCircuit_renameCircuits _ _ d h

/-- Every circuit after the teardown (R177). -/
theorem tearCalls_circuit (s : State) (d : Nat) : TornCircuit ((tearCalls s).circuit d) := by
  have h0 : TornCircuit (((Table.keys s.cc.circuits).foldl tearCircuit s).circuit d) := by
    refine tearCircuits_circuit _ s d ?_
    by_cases h : d ∈ Table.keys s.cc.circuits
    · exact .inl h
    · right
      rw [State.circuit, Table.get_eq_default_of_notMem _ _ _ h]
      exact ⟨rfl, by decide, by decide⟩
  unfold tearCalls
  generalize (Table.keys s.cc.circuits).foldl tearCircuit s = t at h0
  dsimp only
  generalize Table.keys t.lc.lines = l
  induction l generalizing t with
  | nil => exact h0
  | cons n l ih => exact ih _ (tornCircuit_tearLine t n d h0)

/-! ## Ports -/

/-- Only the Recording Allocator differs. -/
def RaOnly (s t : State) : Prop := ∃ x, t = { s with ra := x }

theorem raOnly_tearPort (s : State) (q : Nat) : RaOnly s (tearPort s q) := by
  unfold tearPort releaseChannel
  split <;> exact ⟨_, rfl⟩

theorem raOnly_tearPorts (s : State) : RaOnly s (tearPorts s) := by
  unfold tearPorts
  generalize Table.keys s.ra.ports = l
  induction l generalizing s with
  | nil => exact ⟨s.ra, rfl⟩
  | cons q l ih =>
    obtain ⟨x, hx⟩ := raOnly_tearPort s q
    obtain ⟨y, hy⟩ := ih (tearPort s q)
    exact ⟨y, by rw [List.foldl_cons, hy, hx]⟩

theorem tearPort_port (s : State) (q p : Nat) : (tearPort s q).port p = if p = q then PortRec.cold else s.port p := by
  unfold tearPort releaseChannel
  split <;> by_cases h : p = q <;> simp [h]

/-- Every port after the teardown (R177). -/
theorem tearPorts_port (s : State) (p : Nat) : (tearPorts s).port p = PortRec.cold := by
  have key : ∀ (l : List Nat) (s : State), p ∈ l ∨ s.port p = PortRec.cold → (l.foldl tearPort s).port p = PortRec.cold := by
    intro l
    induction l with
    | nil => intro s h; simpa using h
    | cons q l ih =>
      intro s h
      refine ih _ ?_
      rw [tearPort_port]
      split
      · exact .inr rfl
      · next hq => exact h.imp (fun h => (List.mem_cons.mp h).resolve_left hq) id
  refine key _ s ?_
  by_cases h : p ∈ Table.keys s.ra.ports
  · exact .inl h
  · exact .inr (Table.get_eq_default_of_notMem _ _ _ h)

end Sys2Proof.Machine
end

