-- ==== Sys2Proof/Tests/Slice0.lean ====
section
/-!
SUPPORT. The model's own tests: what the well-formedness check refuses, small steps with results taken from the manual, and for each
statement with hypotheses a state that meets them.
-/

namespace Sys2Proof.Tests

open Sys2Proof.Machine

/-! ## Small states -/

def p00 : Party := { pos := 0, hs := 0 }
def p01 : Party := { pos := 0, hs := 1 }

/-- A line's configuration: enabled, shared, class 7. -/
def config (kind : LineKind) (path : List Nat) : LineConfig :=
  { enabled := true
    call := { kind := kind, accessClass := 7, shared := true, bargeAllowed := false, privacyDefault := false, path := path }
    recordLevel := .none, measureEnable := false }

def idleLine (kind : LineKind) (path : List Nat) : LineRec := { LineRec.cold with applied := config kind path, state := .idle }

/-- A line in a call on a circuit. -/
def callLine (kind : LineKind) (path : List Nat) (st : LineState) (c : Nat) (ps : List Participant) : LineRec :=
  { idleLine kind path with callCopy := some (config kind path).call, state := st, active := some c, participants := ps }

def allPaths : PathRec := { installed := 3, available := 3, operational := 3, lastUsed := 0 }
def idleCircuit : CircuitRec := { CircuitRec.cold with state := .idle }
def busyCircuit (st : CircuitState) (n : Nat) : CircuitRec := { idleCircuit with state := st, owner := some n, desired := .seized, lastSent := .seized }

def position : PosRec :=
  { PosRec.cold with applied := { PosConfig.cold with
      enabled := true, present0 := true, present1 := true, channels := [(0, { ChanConfig.cold with pttAllowed := true })] } }

/-- RUNNING at frame 100000: line 0 AUTO_RINGDOWN on circuits 10 and 11, line 1 MANUAL_RINGDOWN on 12 and 13, line 2 NAILED on 14 and
15; two positions; key 5 of position 0 holds line 0. -/
def base : State :=
  { State.reset with
    frame := 100000
    su := { State.reset.su with part := .running, lineCount := 3, positionCount := 2, bridgeCount := 1, recorderCount := 2 }
    lc := { State.reset.lc with
      lines := [(0, idleLine .autoRingdown [10, 11]), (1, idleLine .manualRingdown [12, 13]), (2, idleLine .nailed [14, 15])]
      keys := [(5, .line 0 true)], appIndex := [(0, [{ pos := 0, count := 1, audible := true }])] }
    cc := { State.reset.cc with
      circuits := [10, 11, 12, 13, 14, 15].map fun c => (c, idleCircuit)
      paths := [(0, allPaths), (1, allPaths), (2, allPaths)] }
    hc := { State.reset.hc with positions := [(0, position), (1, position)] } }

/-- The sixteen words of a request of position 0, handset 0. -/
def request (code : Nat) (params : List Word) : List Word := natWord code :: params ++ List.replicate (15 - params.length) 0

/-- A fetched request at the head of the ring. -/
def asking (s : State) (code : Nat) (params : List Word) : State :=
  { s with re := { head := 0, tail := 1, take := .fetching (request code params) } }

/-- Line n in a call on circuit c, with the circuit in a state. -/
def inCall (n c : Nat) (kind : LineKind) (path : List Nat) (st : LineState) (cs : CircuitState) (ps : List Participant) : State :=
  (base.setLine n (callLine kind path st c ps)).setCircuit c (busyCircuit cs n)

def active (p : Party) : Participant := { party := p, mode := .active }
def onHold (p : Party) : Participant := { party := p, mode := .hold }

/-- Line 0 CALLING on circuit 10, SEIZING, with handset 0 on it. -/
def calling : State :=
  (inCall 0 10 .autoRingdown [10, 11] .calling .seizing [active p00]).setHandset p00 { current := [.line 0], hold := [] }

/-- Line 1 CALLING on circuit 12, SEIZING. -/
def callingManual : State :=
  (inCall 1 12 .manualRingdown [12, 13] .calling .seizing [active p00]).setHandset p00 { current := [.line 1], hold := [] }

/-- Line 1 CONNECTED on circuit 12 with handset 0 alone. -/
def connected : State :=
  (inCall 1 12 .manualRingdown [12, 13] .connected .inUse [active p00]).setHandset p00 { current := [.line 1], hold := [] }

/-- Line 1 HELD on circuit 12 by handset 0 alone. -/
def heldLine : State :=
  (inCall 1 12 .manualRingdown [12, 13] .held .inUse [onHold p00]).setHandset p00 { current := [], hold := [1] }

/-- Line 0 RINGING_IN on circuit 10 at position 0. -/
def ringing : State := (inCall 0 10 .autoRingdown [10, 11] .ringingIn .inUse []).setAlertList 0 [0]

/-- Line 2, NAILED, CONNECTED on circuit 14. -/
def nailed : State := inCall 2 14 .nailed [14, 15] .connected .inUse []

/-- A line's timers. -/
def timed (s : State) (n : Nat) (sig : Option (SignalPurpose × Frame)) (st : Option (StatePurpose × Frame)) : State :=
  modLine s n fun l => { l with signalTimer := sig, stateTimer := st }

/-- The state a command leaves. -/
def after (i : Instr) (s : State) : State :=
  match exec i s with
  | .next t => t
  | _ => s

/-! ## Well-formedness -/

theorem test_wf_sample_slot : wellFormed (.frameStart [(512, 1#16)]) = false := by decide
theorem test_wf_sample_zero : wellFormed (.frameStart [(5, 0#16)]) = false := by decide
theorem test_wf_sample_order : wellFormed (.frameStart [(5, 1#16), (4, 1#16)]) = false := by decide
theorem test_wf_no_byte : wellFormed (.startWord 1#32 0#4) = false := by decide
theorem test_wf_read_no_byte : wellFormed (.summaryRead 0#4) = false := by decide
theorem test_wf_word_zero : wellFormed (.configWordWrite 0x1010 0#32 15#4) = false := by decide
theorem test_wf_not_entry : wellFormed (.configWordWrite 0x3001 0#32 15#4) = false := by decide
theorem test_wf_not_protected : wellFormed (.protectedWrite 0x1000 0#32 15#4) = false := by decide
theorem test_wf_good : wellFormed (.protectedWrite 0x47 0#32 15#4) = true ∧ wellFormed (.frameStart [(511, 1#16)]) = true := by decide

/-! ## Decoding: no row of the table gives bits -/

theorem test_decode_none : decodeTableWord 16 0 = none ∧ decodeTableWord 512 0x47 = none := by decide
theorem test_fetchWord_same : State.reset.withFetchWord 512 0x47 = State.reset := by decide

/-! ## Steps -/

/-- The interface idles on an empty queue (log 3). -/
theorem test_idle : step State.reset = .next State.reset := rfl

/-- The three-member hoot of 4.8: line 0 for line 10, line 1 for line 11. -/
def hoot : State :=
  let members : List Member :=
    [{ enabled := true, who := .line 0, gain := 15 }, { enabled := true, who := .line 1, gain := 13 },
     { enabled := true, who := .ptt 1, gain := 15 }]
  let s := (base.setLine 0 (callLine .nailed [10] .connected 10 [])).setLine 1 (callLine .nailed [12] .connected 12 [])
  let s := (s.setCircuit 10 (busyCircuit .inUse 0)).setCircuit 12 (busyCircuit .inUse 1)
  let s := s.setSpeaker 1 { channels := [(2, { ChanRun.cold with source := .bridge 0 })], ptt := some 2 }
  let s := s.setBridge 0 { BridgeRec.cold with
    applied := { BridgeConfig.cold with enabled := true, k := 2, threshold := 500, hysteresis := 512, members := members }
    energy := [(0, 3000), (1, 2800), (2, 600)], selected := [1, 2] }
  { s with frame := 4000079 }

/-- 4.8: the selection, the circuit sends of both lines, and the energies after the frame. -/
theorem test_hoot :
    let t := after (.frameStart [(10, 12000), (12, BitVec.ofInt 16 (-9000)), (321, 20000)]) hoot
    (t.bridge 0).selected = [1, 0] ∧ Table.get 0 t.mx.out 10 = BitVec.ofInt 16 (-4500) ∧ Table.get 0 t.mx.out 12 = 12000 ∧
      (t.bridge 0).energy = [(0, 3282), (1, 2994), (2, 1207)] := by decide +kernel

/-- 4.10: scaled values and the dim. -/
theorem test_gains : scaled 20000 13 = 10000 ∧ scaled (-6000) 11 = -1500 ∧ scaled 8500 9 = 1063 ∧ scaled 8000 12 = 2828 ∧
    scaled 3000 9 = 375 := by decide

/-- 4.9: saturation. -/
theorem test_saturate : saturate 65000 = 32767 ∧ saturate (-40000) = -32768 ∧ saturate 5 = 5 := by decide

/-- 4.11: a rising estimate and a falling one. -/
theorem test_energy : nextEnergy 0 16000 = 500 ∧ nextEnergy 500 16000 = 985 ∧ nextEnergy 985 16000 = 1455 ∧ nextEnergy 3000 0 = 2907 ∧
    nextEnergy 2907 0 = 2817 := by decide

/-- 11.9: the entry of a SELECT refused with ACCESS. -/
theorem test_reqDone_entry : (Event.reqDone 61 0x01010610#32 .access 0 0).words 1005000 =
    [1, 1005000, 61, 0x01010610, 8, 0, 0, 0] := by decide

/-- The example after R31: from a group of four whose position 1 failed, position 2 is tried first, then 3, then 0. -/
theorem test_failover_order :
    let s := (inCall 2 15 .nailed [14, 15, 16, 17] .connected .inUse []).setPath 2 { installed := 15, available := 15, operational := 15, lastUsed := 1 }
    let s := (s.setCircuit 16 idleCircuit).setCircuit 17 idleCircuit
    ((after (.circuitDown 15) s).line 2).active = some 16 ∧
      ((after (.circuitDown 15) (s.setCircuit 16 { idleCircuit with state := .down })).line 2).active = some 17 := by decide +kernel

/-- R60's example: line 30 retrieved from the stack 30, 31 with line 12 current. -/
theorem test_retrieve :
    let s := { base with su := { base.su with lineCount := 40 } }
    let on := fun (n : Nat) (m : Mode) => callLine .manualRingdown [n + 20] .connected (n + 20) [{ party := p00, mode := m }]
    let s := ((s.setLine 12 (on 12 .active)).setLine 30 (on 30 .hold)).setLine 31 (on 31 .hold)
    let s := s.setHandset p00 { current := [.line 12], hold := [30, 31] }
    ((after .retrieve (asking s 0x32 [30])).handset p00) = { current := [.line 30], hold := [31, 12] } := by decide +kernel

/-- 2.9: CIRCUIT_DOWN of the active circuit of a connected line begins the failover; the SEIZE is sent at once on an idle link. -/
theorem test_shared_backup :
    let s := (inCall 0 10 .autoRingdown [10, 11] .connected .inUse [active p00]).setHandset p00 { current := [.line 0], hold := [] }
    let t := after (.circuitDown 10) s
    (t.line 0).state = .connected ∧ (t.line 0).pathSwitching = true ∧ (t.line 0).active = some 11 ∧ (t.path 0).lastUsed = 1 ∧
      (t.path 0).available = 0b10#4 ∧ (t.path 0).operational = 0b11#4 ∧
      t.cc.sending = some { circuit := 11, msg := .seize, wentDown := false } := by
  decide +kernel

/-- 2.10: the acknowledgement at frame 2000300 and the timers it starts, with a ring timeout of 30 seconds. -/
theorem test_cadence :
    let s := { calling with frame := 2000300, su := { calling.su with ringTimeout := 30 } }
    let t := after (.seizeAck 10) s
    (t.line 0).signalTimer = some (.cadenceOn, 2016300) ∧ (t.line 0).stateTimer = some (.noAnswer, 2240300) ∧
      (t.circuit 10).desired = .seizedRinging := by decide +kernel

/-- 7.9: a rejected FLT_READ: the copy stays, and the record it raises goes into index 21; with the queue empty again, the next write is
taken. -/
theorem test_bad_fltRead :
    let s := { base with eu := { base.eu with fltHead := 21, fltRead := 9 } }
    let t := after (.fltRead 4 15) s
    t.eu.fltHead = 22 ∧ t.eu.fltRead = 9 ∧ t.eu.unreadFaults = 13 ∧
    (after (.fltRead 12 15) { t with bi := base.bi }).eu.unreadFaults = 10 := by decide +kernel

/-- R138: the thresholds of the arbiter, 12 up and 8 down. -/
theorem test_arbiter : arbiterAt .normal 11 = .normal ∧ arbiterAt .normal 12 = .drain ∧ arbiterAt .drain 9 = .drain ∧
    arbiterAt .drain 8 = .normal := by decide

/-- 1.9: an alert list keeps eight of ten ringing lines by ring start, the lower number first, and fills again from the rest. -/
theorem test_backfill :
    let starts : List (Nat × Nat) := [(1, 1200), (2, 1500), (3, 1000), (4, 1700), (5, 1800), (6, 1900), (7, 1200), (8, 2100), (9, 1600), (10, 2000)]
    let s := { base with
      su := { base.su with lineCount := 20 }
      lc := { base.lc with
        lines := starts.map fun e => (e.1, { idleLine .manualRingdown [20 + e.1] with
          state := .ringingIn, ringStart := BitVec.ofNat 48 e.2, active := some (20 + e.1), callCopy := some (config .manualRingdown [20 + e.1]).call })
        keys := [(33, .line 9 true)]
        appIndex := starts.map fun e => (e.1, [{ pos := 0, count := 1, audible := true }])
        alerts := [(0, [3, 1, 7, 2, 9, 4, 5, 6])] } }
    (after (.appearanceWrite 0 33 0 15) s).alertList 0 = [3, 1, 7, 2, 4, 5, 6, 10] ∧
      (after .answer (asking (after (.appearanceWrite 0 33 0 15) s) 0x11 [])).alertList 0 = [1, 7, 2, 4, 5, 6, 10, 8] := by decide +kernel

/-! ## Witnesses: states that meet the statements' hypotheses

Each theorem is named after its statement; a statement of several clauses has a witness for each. -/

/-- A request stands ready in a state with nothing held and an empty event ring. -/
theorem ready {s : State} {code k : Nat} {params : List Word}
    (h : decide (fetched (asking s code params) = some (request code params) ∧ accessesLeft (asking s code params) .fetch = 0 ∧
      requestCode (request code params) = code ∧
      (asking s code params).bi.held = [] ∧ (asking s code params).eu.unread + k ≤ 255 ∧ (asking s code params).eu.evtHead < 256 ∧
      (asking s code params).eu.evtRead < 256) = true) : Ready (asking s code params) code (request code params) k := by
  obtain ⟨h1, h2, h3, h4, h5, h6, h7⟩ := of_decide_eq_true h
  exact ⟨h1, h2, h3, h4, h5, h6, h7⟩

/-- Invariants: a state with a command in its queue meets every one, and steps. -/
theorem witness_Invariants :
    (MemoryOk { State.reset with pending := [.nop] } ∧ QueueOk State.reset.bi ∧ IndexOk { State.reset with pending := [.nop] } ∧
      FaultLogOk { State.reset with pending := [.nop] } ∧ AttentionOk { State.reset with pending := [.nop] }) ∧
    ∃ t, step { State.reset with pending := [.nop] } = .next t := by
  refine ⟨⟨rfl, ⟨?_, ?_, ?_, ?_⟩, ⟨?_, ?_, ?_, ?_, ?_, ?_, ?_, ?_⟩, ⟨?_, ?_, ?_⟩, rfl⟩, ⟨_, rfl⟩⟩ <;>
    simp [State.reset, EU.unreadFaults]

/-- The invariant of the appearance index: line 0 appears at position 0, and its key is taken away. -/
theorem witness_AppearancesOk :
    AppearancesOk { base with pending := [.appearanceWrite 0 5 0#32 15#4] } ∧
    ∃ t, step { base with pending := [.appearanceWrite 0 5 0#32 15#4] } = .next t :=
  ⟨fun n => by by_cases h : n = 0 <;> simp [State.appEntries, Table.get, base, h], _, rfl⟩

/-- Channel 0 assigned to port 6, and port 7 waiting. -/
def recording : State :=
  { base with
    pending := [.nop]
    ra :=
      { channels := [(0, { ChannelRec.cold with state := .assigned 6 })]
        ports := [(6, { level := .wanted, channel := some 0, unrecorded := false }),
          (7, { level := .wanted, channel := none, unrecorded := false })]
        freeList := [], waitQueue := [7], order := [0] } }

theorem witness_StepKeepsRecordingAllocation : RecordingOk recording ∧ recording.ra.waitQueue ≠ [] ∧ ∃ t, step recording = .next t := by
  refine ⟨⟨List.nodup_nil, fun ch => ?_, fun q ch h => ?_, by decide, .inr rfl⟩, by decide, _, rfl⟩
  · by_cases h : ch = 0 <;> simp [recording, State.channel, Table.get, ChannelRec.cold, h]
  · by_cases h6 : q = 6
    · subst h6
      cases h
      rfl
    · by_cases h7 : q = 7 <;> simp [recording, State.port, Table.get, PortRec.cold, h6, h7] at h

/-- A state in which every mirror has been written, with a command in its queue. -/
def shown : State := postAll { base with pending := [.nop] } (everyMirror base)

theorem witness_StepKeepsStatusMirrors : MirrorsOk shown ∧ mirrored shown = true ∧ ∃ t, step shown = .next t :=
  ⟨⟨fun _ => ⟨fun n hn i hi => everyMirror_line { base with pending := [.nop] } n i hn hi,
      fun p hp i hi => everyMirror_position { base with pending := [.nop] } p i hp hi,
      fun r hr i hi => everyMirror_channel { base with pending := [.nop] } r i hr hi⟩, fun h => absurd rfl h, fun _ => nofun⟩,
    rfl, _, rfl⟩

theorem witness_ColdStartResetsEverything : base.bi.held = [] := rfl

def lockedDown : State := base.setPart .lockdown

theorem witness_RestartTearsDown :
    (lockedDown.su.part = .lockdown ∧ lockedDown.su.draining = false ∧ lockedDown.bi.held = []) ∧
    Ready (asking base 0x72 []) 0x72 (request 0x72 []) 1 :=
  ⟨by decide, ⟨by decide, by decide, by decide, rfl, by decide, by decide, by decide⟩⟩

/-- A bridge with four members of equal energy but one, limited to two talkers. -/
def bridged : State :=
  { base.setBridge 0
      { applied :=
          { enabled := true, k := 2, threshold := 5, hysteresis := 3
            members := [{ who := .line 2, gain := 8, enabled := true }, { who := .ptt 0, gain := 8, enabled := true },
              { who := .ptt 1, gain := 8, enabled := true }] }
        configRejected := false, energy := [(0, 5), (1, 7), (2, 5)], selected := [2] } with frame := 99999 }

/-- Frames: one on which the mixer runs, one in a restart drain, one on which it does not run, and one before a selection frame, with a member
that may be selected; a circuit in use with its owner, a talking intercom call, and recorders of a handset and of a speaker. -/
theorem witness_FrameStartMixesOneFrame :
    (base.bi.held = [] ∧ mixerRuns base = true ∧ (base.frame + 1#48).toNat % 80 ≠ 0 ∧ base.su.draining = false ∧
      (base.circuit 10).state ≠ .inUse ∧ (base.handset p00).current = []) ∧
    (let s := { base with su := { base.su with draining := true } }
     mixerRuns s = true ∧ s.su.draining = true) ∧
    mixerRuns State.reset = false ∧
    (bridged.bi.held = [] ∧ mixerRuns bridged = true ∧ (bridged.frame + 1#48).toNat % 80 = 0 ∧
      (bridged.bridge 0).applied.enabled = true ∧
      (0 < (bridged.bridge 0).applied.members.length ∧ (inService (bridged.bridge 0).applied 0).isSome = true ∧
        (bridged.bridge 0).applied.threshold ≤ Table.get 0 (bridged.bridge 0).energy 0) ∧
      (bridged.bridge 0).selected.Nodup ∧ 2 ∈ (bridged.bridge 0).selected) ∧
    ((connected.circuit 12).state = .inUse ∧ (connected.circuit 12).owner = some 1) ∧
    (let s := (base.setCall 3
        { IcmRec.cold with state := .talking, caller := some p00, answerer := some { pos := 1, hs := 0 } }).setHandset p00
        { current := [.intercom 3], hold := [] }
     (s.handset p00).current = [.intercom 3] ∧ (s.call 3).state = .talking ∧ (s.call 3).caller = some p00) ∧
    (recording.channel 0).state = .assigned 6 ∧
    ((recording.setChannel 1 { ChannelRec.cold with state := .assigned 0 }).channel 1).state = .assigned 0 := by
  decide

/-- Position 0 on line 1 with a dim, reached by a page of position 1, its channels on no source, a line, and bridge 0 with PTT and without. -/
def listening : State :=
  let s := (bridged.setLine 1 (connected.line 1)).setHandset p00 { current := [.line 1], hold := [] }
  let s := s.setCall 2 { IcmRec.cold with state := .paging, caller := some { pos := 1, hs := 0 }, target := some (.group 3) }
  let s := s.setPosition 0 { position with dim := true, reach := 4 }
  s.setSpeaker 0
    { channels := [(1, { source := .line 1, mix := .a, volume := 3 }), (2, { source := .bridge 0, mix := .b, volume := 4 }),
        (3, { source := .bridge 0, mix := .a, volume := 5 })], ptt := some 2 }

/-- Lines in a current set, a speaker mix with each source, a dim and a page, and a selection frame with a member left out. -/
theorem witness_FrameStartMixesOneFrame_speakers :
    (mixerRuns listening = true ∧ listening.su.draining = false ∧ (listening.handset p00).current = [1].map .line ∧
      (listening.line 1).participants = [active p00] ∧ (listening.position 0).dim = true ∧
      (listening.call 2).state = .paging ∧ (listening.position 0).reach.getLsbD 2 = true) ∧
    ([0, 1, 2, 3].map fun i => (Table.get ChanRun.cold (listening.speaker 0).channels i).source) = [.none, .line 1, .bridge 0, .bridge 0] ∧
    ((listening.bridge 0).applied.enabled = true ∧ serviceIndex (listening.bridge 0).applied (.ptt 0) = some 1 ∧
      (listening.speaker 0).ptt = some 2 ∧ (listening.frame + 1#48).toNat % 80 = 0) := by decide

theorem witness_LoadingIsEntered :
    (State.reset.su.part = .waiting ∧ startsLoad (mergeBytes State.reset.bi.startCopy 0x101#32 15#4) = true ∧ Taken State.reset 0 15#4) ∧
    (let s := { base with su := { base.su with draining := true } }
     s.su.draining = true ∧ drained s = true ∧ s.bi.held = []) :=
  ⟨⟨rfl, by decide, ⟨by decide, by decide, rfl, by decide⟩⟩, by decide⟩

/-- A load whose descriptor, one line and one position, is still in the queue. -/
def loading : State :=
  { State.reset with
    su := { State.reset.su with part := .loading, load := some .descriptor, wordsRead := 64 }
    bi := { State.reset.bi with pwq := [(0, 0x101#32), (1, 1#32), (2, 1#32)] } }

/-- A load whose descriptor has no version. -/
def badLoading : State := { loading with bi := State.reset.bi }

theorem witness_DescriptorIsChecked :
    (loading.su.load = some .descriptor ∧ waits loading .load = false ∧ loading.bi.held = [] ∧
      descriptorFailure ((List.range 64).map (partRead loading)) = none ∧ loading.su.restartMark = false) ∧
    (badLoading.su.load = some .descriptor ∧ waits badLoading .load = false ∧ badLoading.su.part = .loading ∧ badLoading.bi.held = [] ∧
      descriptorFailure ((List.range 64).map (partRead badLoading)) = some (0, false) ∧ badLoading.eu.unreadFaults < 15 ∧
      badLoading.eu.unread ≤ 254 ∧ badLoading.eu.evtHead < 256) := by decide

/-- A load of two of each table that has read the words of an entry, which are the words given. -/
def readingEntry (item : LoadItem) (off : Nat) (ws : List Word) : State :=
  { State.reset with
    su := { State.reset.su with
      part := .loading, lineCount := 2, positionCount := 2, bridgeCount := 2, recorderCount := 2, load := some (.entries item)
      wordsRead := 64 }
    bi := { State.reset.bi with pwq := writesAt off ws } }

/-- Entries of every table, the last of a table too, valid and invalid. -/
theorem witness_LoadReadsEntries :
    (nextItem (readingEntry (.line 1) 0 []).su (.line 0) = some (.line 1) ∧
    nextItem (readingEntry (.line 1) 0 []).su (.line 1) = some (.position 0) ∧
      nextItem (readingEntry (.line 1) 0 []).su (.position 1) = some (.key 0) ∧
      nextItem (readingEntry (.line 1) 0 []).su (.key 255) = some (.bridge 0) ∧
      nextItem (readingEntry (.line 1) 0 []).su (.bridge 1) = some (.recorder 0) ∧
      nextItem (readingEntry (.line 1) 0 []).su (.recorder 0) = some (.recorder 1)) ∧
    (∀ item ∈ [LoadItem.line 0, .position 0, .key 255, .bridge 0, .recorder 0],
      waits (readingEntry item 0 []) .load = false ∧ (readingEntry item 0 []).bi.held = [] ∧
      (readingEntry item 0 []).su.load = some (.entries item) ∧ (readingEntry item 0 []).su.part = .loading ∧
      (readingEntry item 0 []).eu.unread ≤ 254 ∧ (readingEntry item 0 []).eu.evtHead < 256) ∧
    (parseLine 2 0 ((List.range 16).map fun i =>
        partRead (readingEntry (.line 0) 0x1000 [0x01070101#32, 10#32]) (lineConfigOffset 0 + i))).isSome = true ∧
    parseLine 2 0 ((List.range 16).map fun i => partRead (readingEntry (.line 0) 0x1000 [1#32]) (lineConfigOffset 0 + i)) = none ∧
    (parsePosition 2 2 2 0 ((List.range 64).map fun i =>
        partRead (readingEntry (.position 0) 0x2800 [0x0F0F070F#32]) (positionConfigOffset 0 + i))).isSome = true ∧
    parsePosition 2 2 2 0 ((List.range 64).map fun i =>
        partRead (readingEntry (.position 0) 0x2800 [0x100000#32]) (positionConfigOffset 0 + i)) = none ∧
    parseKey 2 2 (254 / 128) (wordOf [partRead (readingEntry (.key 254) 0x30FE [0x101#32]) (appearanceOffset 254)] 0) = (.line 1 false, false) ∧
    parseKey 2 2 (254 / 128) (wordOf [partRead (readingEntry (.key 254) 0x30FE [0x201#32]) (appearanceOffset 254)] 0) = (.empty, true) ∧
    (validBridge (loadedBridges (readingEntry (.bridge 0) 0x4000 [0x101#32]) 0) 0 ((List.range 64).map fun i =>
        partRead (readingEntry (.bridge 0) 0x4000 [0x101#32]) (bridgeConfigOffset 0 + i))).isSome = true ∧
    validBridge (loadedBridges (readingEntry (.bridge 0) 0x4000 []) 0) 0 ((List.range 64).map fun i =>
        partRead (readingEntry (.bridge 0) 0x4000 []) (bridgeConfigOffset 0 + i)) = none := by decide +kernel

/-- The last entry of a load: of a recorder, and of a key where no bridge and no recorder is configured. -/
theorem witness_LoadDerivesState :
    (let s := readingEntry (.recorder 1) 0x6004 [1#32]
     s.su.load = some (.entries (.recorder 1)) ∧ nextItem s.su (.recorder 1) = none ∧ s.su.recorderCount ≤ 128 ∧ s.bi.held = [] ∧
       waits s .load = false ∧ bitAt (partRead s (recorderConfigOffset 1)) 0 = true) ∧
    (let s := readingEntry (.key 255) 0x30FF [0x101#32]
     nextItem { s.su with bridgeCount := 0, recorderCount := 0 } (.key 255) = none) := by decide

def ending : State := { State.reset with su := { State.reset.su with part := .loading, lineCount := 2, load := some .ending } }

theorem witness_LoadEndsInRunning :
    ending.su.load = some .ending ∧ ending.bi.loadLeft = 0 ∧ ending.bi.held = [] ∧ ending.eu.evtHead < 256 ∧ nailedLines ending = [] ∧
    ending.eu.unread ≤ 254 ∧
    (let s := { base with su := { base.su with part := .loading, load := some .ending } }
     s.bi.loadLeft = 0 ∧ s.bi.held = [] ∧ s.eu.evtHead < 256 ∧ s.eu.evtRead < 256 ∧ s.eu.lost < 65535 ∧ nailedLines s = [2] ∧
       s.eu.unread + 1 ≤ 254 ∧ (s.line 2).state = .idle) := by decide

/-- Line commits: valid, enabled as before; valid, disabling an IDLE line; valid, enabling a line in ADMIN; invalid. -/
theorem witness_LineCommitApplies :
    base.su.part.copying = true ∧ Taken base (lineConfigOffset 0) 15#4 ∧ base.eu.evtHead < 256 ∧
    (let s := { base with bi := { base.bi with copies := [(0x1001, 10#32)] } }
     (parseLine s.su.lineCount 0 (writtenCopy (mergeCopy s (lineConfigOffset 0) 0x01070101#32 15#4) (lineConfigOffset 0) 16)).map
        (fun c => (c.enabled, c.call.path)) = some (true, [10]) ∧
     (parseLine s.su.lineCount 0 (writtenCopy (mergeCopy s (lineConfigOffset 0) 0x01070100#32 15#4) (lineConfigOffset 0) 16)).map
        (fun c => (c.enabled, c.call.kind)) = some (false, .autoRingdown) ∧
     parseLine s.su.lineCount 0 (writtenCopy (mergeCopy s (lineConfigOffset 0) 1#32 15#4) (lineConfigOffset 0) 16) = none) :=
  ⟨rfl, ⟨by decide, by decide, rfl, by decide⟩, by decide, by decide⟩

/-- The word read as line n's entry with a word 0 and one circuit. -/
def parsedLine (s : State) (n : Nat) (w : Word) : Option LineConfig :=
  parseLine s.su.lineCount n (writtenCopy (mergeCopy s (lineConfigOffset n) w 15#4) (lineConfigOffset n) 16)

/-- Line commits for a line in a call, with a cause NO_PATH and in CLEARING, disabling and enabling; and a path group that changes, with a
call copy and without. -/
theorem witness_LineCommitApplies_states :
    (let s := { connected with bi := { base.bi with copies := [(lineConfigOffset 1 + 1, 12#32)] } }
     (parsedLine s 1 0x01070200#32).map (·.enabled) = some false ∧ (s.line 1).applied.enabled = true ∧ (s.line 1).state.inCall = true ∧
       (parsedLine s 1 0x01070201#32).map (·.call.path) = some [12] ∧ (s.line 1).applied.call.path = [12, 13] ∧ (s.line 1).callCopy ≠ none ∧
       (base.line 1).callCopy = none ∧ (base.circuit 13).state = .idle ∧ Taken s (lineConfigOffset 1) 15#4) ∧
    (∀ st ∈ [LineState.clearing, .outOfService .noPath, .outOfService .admin], ∀ b ∈ [true, false],
      let l := (modLine base 1 fun l => { l with state := st, applied := { l.applied with enabled := b } }).line 1
      l.state = st ∧ l.applied.enabled = b ∧ l.callCopy = none) :=
  ⟨⟨by decide, by decide, by decide, by decide, by decide, by decide, by decide, by decide, ⟨by decide, by decide, rfl, by decide⟩⟩,
    by decide⟩

/-- A line whose status entry shows that its last commit was rejected. -/
def rejected : State :=
  let s := modLine base 1 fun l => { l with configRejected := true }
  postAll s (writesAt (lineStatusOffset 1) (lineStatusWords s 1))

theorem witness_LineCommitApplies_rejected :
    parsedLine rejected 1 0#32 = none ∧ rejected.eu.unread ≤ 254 ∧
    ∀ i < (lineStatusWords rejected 1).length, latestWord rejected (lineStatusOffset 1 + i) = (lineStatusWords rejected 1).getD i 0#32 := by
  decide

/-- A second rejected commit writes the line's status again, and then the event; so does a position's (R2, R62, R130). -/
theorem test_rejected_commit_writes_status :
    (let t := after (.lineCommit 1 0#32 15#4) rejected
     (writesOf t).length = 24 ∧ ((writesOf t).drop 8).take 8 = writesAt (lineStatusOffset 1) (lineStatusWords rejected 1) ∧
       ((writesOf t).drop 16).map (·.1) = List.range' 0x800 8) ∧
    (let t := after (.positionCommit 9 0#32 15#4) (modPosition base 9 fun r => { r with configRejected := true })
     (writesOf t).length = 72 ∧ (writesOf t).take 2 = [(0x4A40, 0xF02#32), (0x4A41, 0#32)] ∧
       ((writesOf t).drop 64).map (·.1) = List.range' 0x800 8) := by
  decide +kernel

/-- Position commits: valid, disabling; valid, staying enabled without handset 1 and with another channel 0; valid, enabling; invalid. -/
theorem witness_PositionCommitApplies :
    base.su.part.copying = true ∧ Taken base (positionConfigOffset 1) 15#4 ∧ base.eu.evtHead < 256 ∧ base.eu.unread ≤ 254 ∧
    (base.position 1).applied.enabled = true ∧
    (let parsed := fun w => parsePosition base.su.positionCount base.su.lineCount base.su.bridgeCount 1
      (writtenCopy (mergeCopy base (positionConfigOffset 1) w 15#4) (positionConfigOffset 1) 64)
     (parsed 0#32).map (·.enabled) = some false ∧
     (parsed 5#32).map (fun c => (c.enabled, c.present0, c.present1,
       decide (Table.get ChanConfig.cold c.channels 0 = Table.get ChanConfig.cold (base.position 1).applied.channels 0))) =
       some (true, true, false, false) ∧
     parsed 0x100000#32 = none) ∧
    ((base.setPosition 1 PosRec.cold).position 1).applied.enabled = false :=
  ⟨rfl, ⟨by decide, by decide, rfl, by decide⟩, by decide, by decide, by decide, by decide, by decide⟩

/-- A position that becomes enabled while line 0, AUDIBLE there, rings; and positions whose handsets are on a line and hold one. -/
theorem witness_PositionCommitApplies_lines :
    (let s := (ringing.setAlertList 0 []).setPosition 0 PosRec.cold
     (s.position 0).applied.enabled = false ∧ s.alertList 0 = [] ∧ ringingLines s = [0] ∧ audibleAt s 0 0 = true) ∧
    ((connected.position 0).applied.enabled = true ∧ (connected.line 1).participants ≠ [] ∧ participantsWithout connected [p00, p01] 1 = [] ∧
      (connected.line 1).eff.kind ≠ .nailed ∧ (connected.line 1).state = .connected) ∧
    ((callingManual.line 1).state = .calling ∧ participantsWithout callingManual [p00] 1 = []) ∧
    (heldLine.line 1).state = .held ∧ participantsWithout heldLine [p00] 1 = [] := by decide

theorem witness_BridgeCommitApplies :
    base.su.part.copying = true ∧ Taken base (bridgeConfigOffset 0) 15#4 ∧ base.eu.evtHead < 256 ∧
    (validBridge base 0 (writtenCopy (mergeCopy base (bridgeConfigOffset 0) 0x0101#32 15#4) (bridgeConfigOffset 0) 64)).isSome = true ∧
    validBridge base 0 (writtenCopy (mergeCopy base (bridgeConfigOffset 0) 0#32 15#4) (bridgeConfigOffset 0) 64) = none :=
  ⟨rfl, ⟨by decide, by decide, rfl, by decide⟩, by decide, by decide, by decide⟩

theorem witness_ConfigWordWriteMergesOnly : isLaterWord 0x1001 = true ∧ Taken base 0x1001 15#4 :=
  ⟨by decide, ⟨by decide, by decide, rfl, by decide⟩⟩

/-- Lines 0 and 1 ringing at position 0, which has line 0 on its alert list. -/
def twoRing : State :=
  (modLine ringing 1 fun l => { l with state := .ringingIn, ringStart := 7 }).setAppEntries 1 [{ pos := 0, count := 1, audible := true }]

/-- Key 5 of position 0, line 0's last there, is taken away while line 0 rings, alone and with line 1. -/
theorem witness_KeyWriteApplies_loss :
    ((ringing.key 5).lineOf = some 0 ∧ ringing.appEntries 0 = [] ++ { pos := 0, count := 1, audible := true } :: [] ∧
      parseKey 2 3 0 (mergeBytes (copyAt ringing (appearanceOffset 5)) 0#32 15#4) = (.empty, false)) ∧
    (audibleAt ringing 0 0 = true ∧ audibleAt (after (.appearanceWrite 0 5 0#32 15#4) ringing) 0 0 = false ∧ ringing.alertList 0 = [0] ∧
      ringingLines ringing = [0]) ∧
    (audibleAt (after (.appearanceWrite 0 5 0#32 15#4) twoRing) 0 0 = false ∧ twoRing.alertList 0 = [0] ∧ 1 ∈ ringingLines twoRing ∧
      audibleAt (after (.appearanceWrite 0 5 0#32 15#4) twoRing) 1 0 = true ∧ (twoRing.position 0).applied.enabled = true) :=
  ⟨by decide, by decide +kernel, by decide +kernel⟩

/-- The ringing line 0 gets its first key at position 1; key 5 is made SILENT, and is written as it is. -/
theorem witness_KeyWriteApplies_gain :
    (around 1 (ringing.appEntries 0) [] ∧ (ringing.line 0).state = .ringingIn ∧ (ringing.position 1).applied.enabled = true ∧
      ringing.alertList 1 = []) ∧
    (audibleAt ringing 0 1 = false ∧ audibleAt (after (.appearanceWrite 1 7 5#32 15#4) ringing) 0 1 = true) ∧
    (parseKey 2 3 0 (mergeBytes (copyAt ringing (appearanceOffset 5)) 1#32 15#4) = (.line 0 false, false) ∧
      parseKey 2 3 0 (mergeBytes (copyAt ringing (appearanceOffset 5)) 5#32 15#4) = (ringing.key 5, false)) :=
  ⟨⟨⟨by decide, by simp⟩, by decide⟩, by decide +kernel, by decide⟩

/-- Keys: a line at an empty key, and a value out of range. -/
theorem witness_KeyWriteApplies :
    Taken base (appearanceOffset (128 * 1 + 7)) 15#4 ∧
    parseKey base.su.positionCount base.su.lineCount 1 (mergeBytes (copyAt base (appearanceOffset (128 * 1 + 7))) 0x105#32 15#4) =
      (.line 1 true, false) ∧
    base.key (128 * 1 + 7) = .empty ∧ (∀ e ∈ base.appEntries 1, e.pos ≠ 1) ∧
    parseKey base.su.positionCount base.su.lineCount 1 (mergeBytes (copyAt base (appearanceOffset (128 * 1 + 7))) 0x301#32 15#4) =
      (.empty, true) :=
  ⟨⟨by decide, by decide, rfl, by decide⟩, by decide, by decide, by decide, by decide⟩

def oneFree : State := base.setChannel 1 { ChannelRec.cold with state := .free }

/-- Mix A of position 1, port 6, recorded by channel 1; channel 0 is free. -/
def recorded : State :=
  let s := base.setPosition 1 { position with applied := { position.applied with recordA := true } }
  let s := s.setSpeaker 1 { channels := [(0, { source := .line 1, mix := .a, volume := 3 })], ptt := none }
  { s with
    ra :=
      { channels := [(0, { ChannelRec.cold with state := .free }), (1, { ChannelRec.cold with state := .assigned 6 })]
        ports := [(6, { level := .wanted, channel := some 1, unrecorded := false })], freeList := [0], waitQueue := [], order := [1] } }

/-- Line 1 must be recorded. -/
def mustRecord (s : State) : State := modLine s 1 fun l => { l with applied := { l.applied with recordLevel := .required } }

/-- Handset 0 of position 0, port 0, recorded by channel 1 on line 1. -/
def needed : State :=
  { mustRecord connected with
    ra :=
      { channels := [(1, { ChannelRec.cold with state := .assigned 0 })]
        ports := [(0, { level := .required, channel := some 1, unrecorded := false })], freeList := [], waitQueue := [], order := [1] } }

/-- Writes of a recorder word: enabling with no port waiting and with one; an enabled channel again; disabling a FREE one, a DISABLED one, and
ASSIGNED ones whose port finds a free channel, waits, or is a REQUIRED port left UNRECORDED. -/
theorem witness_RecorderWriteEnablesChannel :
    Taken base (recorderConfigOffset 1) 15#4 ∧ 1 < base.su.recorderCount ∧
    (base.eu.evtHead < 256 ∧ base.eu.evtRead < 256 ∧ base.eu.unread ≤ 253) ∧
    bitAt (mergeBytes (copyAt base (recorderConfigOffset 1)) 1#32 15#4) 0 = true ∧
    bitAt (mergeBytes (copyAt base (recorderConfigOffset 1)) 0#32 15#4) 0 = false ∧
    ((base.channel 1).state = .disabled ∧ base.ra.waitQueue = []) ∧
    ((recording.channel 1).state = .disabled ∧ recording.ra.waitQueue = 7 :: [] ∧ recording.ra.freeList = []) ∧
    (oneFree.channel 1).state = .free ∧
    (recorded.ra.freeList = 0 :: [] ∧ (recorded.channel 1).state = .assigned 6 ∧ portLevel recorded 6 = (recorded.port 6).level ∧
      (recorded.port 6).level ≠ .none ∧ recorded.ra.waitQueue = [] ∧
      ∀ x ∈ recorded.ra.freeList, x ≠ 1 ∧ (recorded.channel x).lastPort ≠ some 6) ∧
    (let s := recorded.setFreeList []
     s.ra.freeList = [] ∧ (s.port 6).level = .wanted ∧ portLevel s 6 = .wanted) ∧
    (portLevel needed 0 = .required ∧ (needed.port 0).level = .required ∧ (needed.port 0).unrecorded = false ∧
      (needed.channel 1).state = .assigned 0 ∧ needed.ra.freeList = [] ∧ needed.ra.waitQueue = [] ∧ needed.ra.channels.length = 1) :=
  ⟨⟨by decide, by decide, rfl, by decide⟩, by decide, by decide, by decide, by decide, by decide, by decide, by decide, by decide,
   by decide, by decide⟩

/-- Index words at the ends of their ranges, accepted and refused. -/
theorem witness_IndexWritesAreHandedOnOrFault :
    base.su.part.copying = true ∧ base.su.part ≠ .lockdown ∧ base.eu.unreadFaults < 15 ∧ base.eu.unread ≤ 254 ∧ base.eu.evtHead < 256 ∧
    Taken base 0x100 15#4 ∧ Taken base 0x101 15#4 ∧ Taken base 0x102 15#4 ∧
    (mergeBytes (natWord base.re.tail) 63#32 15#4).toNat ≤ 63 ∧ 63 < (mergeBytes (natWord base.re.tail) 64#32 15#4).toNat ∧
    (mergeBytes (natWord base.eu.evtRead) 255#32 15#4).toNat ≤ 255 ∧ 255 < (mergeBytes (natWord base.eu.evtRead) 256#32 15#4).toNat ∧
    (mergeBytes (natWord base.eu.fltRead) 31#32 15#4).toNat ≤ 31 ∧
    (base.eu.fltHead + 32 - (mergeBytes (natWord base.eu.fltRead) 31#32 15#4).toNat) % 32 ≤ 16 ∧
    16 < (base.eu.fltHead + 32 - (mergeBytes (natWord base.eu.fltRead) 15#32 15#4).toNat) % 32 :=
  ⟨rfl, by decide, by decide, by decide, by decide, ⟨by decide, by decide, rfl, by decide⟩, ⟨by decide, by decide, rfl, by decide⟩,
   ⟨by decide, by decide, rfl, by decide⟩, by decide, by decide, by decide, by decide, by decide, by decide, by decide⟩

theorem witness_ProtectedWriteIsRefused :
    isProtected 0x2000 = true ∧ isProtected 0x7F = true ∧ Taken base 0x2000 15#4 ∧ base.su.part.serves = true ∧
    Taken State.reset 0x2000 15#4 ∧ Taken State.reset 0x7F 15#4 ∧ State.reset.su.part = .waiting ∧
    (∀ k ∈ [15, 16], { base.eu with fltHead := k }.unreadFaults = k) ∧ base.eu.unread ≤ 254 ∧ base.eu.evtHead < 256 ∧
    Taken (base.setPart .lockdown) 0x2000 15#4 :=
  ⟨by decide, by decide, ⟨by decide, by decide, rfl, by decide⟩, rfl, ⟨by decide, by decide, rfl, by decide⟩,
   ⟨by decide, by decide, rfl, by decide⟩, rfl, by decide, by decide, by decide, ⟨by decide, by decide, rfl, by decide⟩⟩

/-- In WAITING, a status word that the processor has written stands over the commands that follow (R134, R139). -/
theorem test_waiting_mirror_write_stands :
    let s := { base.setPart .waiting with eu := { base.eu with cause := none } }
    let t := after (.circuitDown 13) (after (.protectedWrite 0x2000 0xFFFFFFFF#32 15#4) s)
    latestWord t 0x2000 = 0xFFFFFFFF#32 ∧ t.path 1 ≠ s.path 1 := by decide +kernel

theorem witness_MemoryWriteReachesSramAlone :
    (9#4 ≠ 0#4) ∧ mustHold base (.write 0x10000 5#32 9#4) = false ∧ offsetOf base 0x10000 = none ∧
    mustHold base (.write 0x5FFF 5#32 9#4) = false ∧ offsetOf base 0x5FFF = some 0x5FFF ∧ zoneKind (regionOf 0x5FFF) = .shared := by decide

def drainMode : State := { base with bi := { base.bi with mode := .drain } }

def update : UpdateRec := { line := 1, ops := [(0, .add 1), (6, .write 9#32)] }
def updating : State := { base with um := { base.um with updates := [update] } }
def readingBlock : State :=
  { base with
    um := { base.um with inProgress := some { record := update, reading := true, wordsRead := 0 } }, bi := { base.bi with measHold := some 1 } }

/-- The same with its word read, and with its write-backs in the queue. -/
def readBlock : State := { readingBlock with um := { base.um with inProgress := some { record := update, reading := true, wordsRead := 1 } } }
def writingBack (q : List (Nat × Word)) : State :=
  { readingBlock with
    um := { base.um with inProgress := some { record := update, reading := false, wordsRead := 1 } }
    bi := { readingBlock.bi with pwq := q } }

theorem witness_LiveWindowReadsHaveTheirEffect :
    ((0b0001#4 : ByteEnables) ≠ 0#4 ∧ (0b1111#4 : ByteEnables) ≠ 0#4) ∧ State.reset.bi.held = [] ∧ base.bi.held = [] := by decide

/-- Accesses that wait, for DRAIN and behind another; and reads: outside the aperture, of the Live Window, held by each rule, answered by
the queue and by the SRAM. -/
theorem witness_AccessesWaitOrAreAnswered :
    mustHold drainMode (.write 0x100 1#32 15#4) = true ∧ { base.bi with held := [.read 0x47 15#4] }.held ≠ [] ∧
    sramAddress base 0 + 0x10000 ≤ 0x10000 ∧
    (drainMode.bi.mode = .drain ∧ ∀ e ∈ drainMode.bi.pwq, e.1 ≠ 0x2000) ∧ loading.su.part = .loading ∧
    (readingBlock.bi.measHold = some 1 ∧ measurementOffset 1 ≤ 0x501F ∧ 0x501F < measurementOffset 1 + 16 ∧
      measurementOffset 1 + 16 ≤ 0x5020) ∧
    (let s := { base with bi := { base.bi with pwq := [(0x2000, 1#32), (0x2000, 2#32), (0x2001, 3#32)] } }
     s.su.part ≠ .loading ∧ s.su.draining = false ∧ s.bi.waiting = [] ∧
       s.bi.pwq = [(0x2000, 1#32)] ++ (0x2000, 2#32) :: [(0x2001, 3#32)] ∧ (∀ e ∈ s.bi.pwq, e.1 ≠ 0x1FFF) ∧ s.bi.mode = .normal) := by
  decide

/-- The queue in its turn; the meter's read before it; and a load's read with no command to take. -/
theorem witness_PortTakesAccessesInOrder :
    (let s := writingBack [(0x5010, 1#32), (0x5016, 9#32)]
     s.bi.pwq = (0x5010, 1#32) :: [(0x5016, 9#32)] ∧ s.bi.held = [] ∧ (askPort s).bi.asked.head? = some .queue) ∧
    (let s := { readingBlock with bi := { readingBlock.bi with pwq := [(0x2000, 1#32)], asked := [.meter] } }
     s.bi.pwq ≠ [] ∧ (askPort s).bi.asked = .meter :: [.queue] ∧ [PortUser.meter, .queue].Nodup) ∧
    (let s := { asking base 0x10 [] with re := { head := 0, tail := 1, take := .fetching [] } }
     s.pending = [] ∧ (askPort s).bi.asked = .fetch :: [] ∧ s.bi.asked.Nodup ∧ accessesLeft s .fetch ≤ 64) := by decide

/-- DRAIN with nine entries, the queue ahead of the reads. -/
def nine : List (Nat × Word) := (0x2000, 1#32) :: List.replicate 8 (0x2008, 2#32)
def ninth (s : State) : State := { s with bi := { s.bi with pwq := nine, mode := .drain, asked := [.queue] } }

/-- Turns of a command: those of an update, and those of a request; and a held write and a held read that the ninth entry lets go. -/
theorem witness_PortTakesAccessesInOrder_turns :
    ((askPort (ninth readingBlock)).bi.asked = .queue :: [.meter] ∧ (ninth readingBlock).bi.asked.Nodup ∧
      waits (ninth readingBlock) .meter = true ∧ accessesLeft (ninth readingBlock) .meter ≤ 64) ∧
    (let s := ninth { base with re := { head := 0, tail := 1, take := .fetching [0x60#32] } }
     (askPort s).bi.asked = .queue :: [.fetch] ∧ waits s .fetch = true ∧ fetchedCode s (· = 0x60) = true ∧
       fetchedCode (servedTurn (askPort s) .queue) (· = 0x60) = true) ∧
    (∀ a ∈ [Access.write (sramAddress base 0x401) 0x1F#32 15#4, .read (sramAddress base 0x401) 15#4],
      let s := { ninth base with bi := { (ninth base).bi with held := [a] } }
      s.bi.mode = .drain ∧ s.bi.pwq = (0x2000, 1#32) :: List.replicate 8 (0x2008, 2#32) ∧ s.bi.waiting = [] ∧
        (∀ e ∈ List.replicate 8 ((0x2008, 2#32) : Nat × Word), e.1 ≠ 0x401) ∧ holdsAll s = false ∧ inMeasHold s 0x401 = false ∧
        regionOf 0x401 = .plain ∧ inLiveWindow 0x401 = false) := by decide +kernel

/-- A processor write to the slot, held in DRAIN, is taken when the ninth entry has left and before the request's second word is read
(R138). -/
theorem test_held_write_goes_before_the_next_read :
    let s := ninth { base with re := { head := 0, tail := 1, take := .fetching [0x60#32] } }
    let t := after .setAttention { s with bi := { s.bi with held := [.write (sramAddress s 0x401) 0x1F#32 15#4] } }
    t.eu.mask = 0b11111#5 ∧ t.bi.held = [] ∧ s.eu.mask ≠ 0b11111#5 := by decide +kernel

/-- An update at the head of the list; one being read and one read; and a write-back that is the last, and one that is not. -/
theorem witness_MeasurementUpdateAddsToBlock :
    (updating.um.inProgress = none ∧ updating.um.updates = [update] ∧ updating.su.part.carries = true ∧ updating.bi.held = []) ∧
    waits (finishReads readingBlock .meter) .meter = false ∧
    (readBlock.um.inProgress = some { record := update, reading := true, wordsRead := 1 } ∧ waits readBlock .meter = false ∧
      update.line < 256 ∧ (∀ e ∈ update.ops, e.1 < 16) ∧ writeBacks readBlock update ≠ []) ∧
    (∀ rest ∈ [[], [((0x5016, 9#32) : Nat × Word)]],
      (writingBack ((0x5010, 1#32) :: rest)).bi.pwq = (0x5010, 1#32) :: rest ∧
      (askPort (writingBack ((0x5010, 1#32) :: rest))).bi.asked.head? = some .queue) := by decide

/-- In a restart drain, the words that a measurement update still reads let an old mirror word leave the queue, and no mirror is written
(R177). -/
theorem test_drain_writes_no_mirror :
    let s := { writingBack [(0x2000, 5#32)] with su := { base.su with draining := true }, um := readingBlock.um }
    (after .measurementReadDone s).bi.pwq.all (fun e => decide (measurementOffset 1 ≤ e.1 ∧ e.1 < measurementOffset 1 + 16)) = true ∧
      wordAt (after .measurementReadDone s).mem (sramAddress s 0x2000) = 5#32 := by decide +kernel

/-- A call in each format, measured or not; a record to merge with and none; and refusals with and without a context. -/
theorem witness_UsageUpdatesAreFormed :
    (∀ format ∈ [0, 1], ∃ c, (latchContext { base with um := { base.um with enable := true, format := format } } 1 1 none).context 1 = some c ∧
      c.format = format) ∧
    base.context 1 = none ∧ (∃ u ∈ updating.um.updates, u.line = 1) ∧ (∀ u ∈ updating.um.updates, u.line ≠ 0) ∧
    (Table.keys update.ops).Nodup := by decide

/-! ### The signalling link -/

theorem witness_AcknowledgementTakesTheSeizure :
    (linkActive calling = true ∧ calling.bi.held = [] ∧ calling.eu.evtHead < 256 ∧ calling.eu.unread ≤ 254 ∧
      (calling.circuit 10).state = .seizing ∧ (calling.circuit 10).owner = some 0 ∧ (calling.line 0).state = .calling ∧
      seizeSent (calling.circuit 10) = true ∧ (calling.line 0).eff.kind = .autoRingdown) ∧
    (linkActive callingManual = true ∧ (callingManual.circuit 12).state = .seizing ∧ (callingManual.circuit 12).owner = some 1 ∧
      (callingManual.line 1).state = .calling ∧ seizeSent (callingManual.circuit 12) = true ∧
      (callingManual.line 1).eff.kind ≠ .autoRingdown) := by decide

/-- An AUTO_RINGDOWN line that rings its far end. -/
theorem witness_AcknowledgementTakesTheSeizure_ringing :
    (let s := calling.setCircuit 10 (busyCircuit .inUse 0)
     linkActive s = true ∧ (s.circuit 10).owner = some 0 ∧ (s.line 0).state = .calling ∧ (s.circuit 10).state = .inUse ∧
       (s.line 0).eff.kind = .autoRingdown) := by decide

/-- A ring accepted by line 0, one refused because line 1 is in use, and one that has no target. -/
theorem witness_RingsAreAcceptedOrRejected :
    (linkActive base = true ∧ base.bi.held = [] ∧ base.eu.evtHead < 256 ∧ base.eu.evtRead < 256 ∧ base.eu.unread ≤ 253 ∧
      (base.circuit 10).state = .idle ∧ ringTarget base 10 = some 0 ∧ (base.line 0).state = .idle ∧
      (∃ e ∈ base.appEntries 0, e.pos = 0 ∧ e.audible = true) ∧ (base.position 0).applied.enabled = true ∧
      (base.alertList 0).length < 8) ∧
    ((connected.circuit 13).state = .idle ∧ ringTarget connected 13 = some 1 ∧ (connected.line 1).state ≠ .idle) ∧
    (let s := base.setCircuit 20 idleCircuit
     (s.circuit 20).state = .idle ∧ ringTarget s 20 = none) := by decide

theorem witness_FarClearEndsTheCall :
    ((ringing.circuit 10).state = .inUse ∧ (ringing.circuit 10).owner = some 0 ∧ (ringing.line 0).state = .ringingIn ∧
      ringing.eu.unread ≤ 253 ∧ linkActive ringing = true) ∧
    ((connected.circuit 12).state = .inUse ∧ (connected.circuit 12).owner = some 1 ∧ (connected.line 1).state = .connected ∧
      (connected.line 1).eff.kind ≠ .nailed ∧ (connected.line 1).active = some 12 ∧ linkActive connected = true) ∧
    (let s := modCircuit ringing 10 fun r => { r with lastSent := .idle }
     (s.circuit 10).lastSent = .idle ∧ inTransmission s 10 = false ∧ (s.circuit 10).owner = some 0) := by decide

/-- A circuit in SEIZING with the SEIZE sent. -/
theorem witness_FarClearEndsTheCall_seizing :
    (callingManual.circuit 12).owner = some 1 ∧ (callingManual.circuit 12).state = .seizing ∧ seizeSent (callingManual.circuit 12) = true ∧
      (callingManual.line 1).state = .calling ∧ (callingManual.line 1).eff.kind ≠ .nailed ∧ (callingManual.line 1).active = some 12 := by
  decide

/-- A failover that begins, and one that its SEIZE_ACK completes. -/
def switching : State :=
  modLine (nailed.setCircuit 15 (busyCircuit .seizing 2)) 2 fun l =>
    { l with pathSwitching := true, switchFrom := some 14, active := some 15 }

theorem witness_FailoverMovesTheCall :
    (linkActive nailed = true ∧ nailed.bi.held = [] ∧ nailed.eu.evtHead < 256 ∧ nailed.eu.unread ≤ 254 ∧
      (nailed.circuit 14).owner = some 2 ∧ (nailed.line 2).state = .connected ∧ (nailed.circuit 14).state = .inUse ∧
      (nailed.line 2).eff.kind = .nailed ∧ (nailed.line 2).active = some 14 ∧ pathPositionOf nailed 2 14 = 0 ∧
      failoverPosition nailed 2 0 = some 1 ∧ (nailed.line 2).eff.path[1]? = some 15 ∧
      (∀ k < 4, k ≠ 0 → (nailed.line 2).eff.path[k]? ≠ some 14)) ∧
    ((switching.circuit 15).owner = some 2 ∧ (switching.line 2).state = .connected ∧ (switching.circuit 15).state = .seizing ∧
      seizeSent (switching.circuit 15) = true ∧ (switching.line 2).pathSwitching = true) := by decide

/-- A failover of a HELD line, its SEIZE sent and not sent; and a failover whose circuit is cleared in turn. -/
theorem witness_FailoverMovesTheCall_held :
    (∀ sent ∈ [LinkState.idle, .seized],
      let s := modLine (heldLine.setCircuit 13 { busyCircuit .seizing 1 with lastSent := sent }) 1 fun l =>
        { l with pathSwitching := true, switchFrom := some 12, active := some 13 }
      (s.circuit 13).owner = some 1 ∧ (s.line 1).state = .held ∧ (s.circuit 13).state = .seizing ∧
        seizeSent (s.circuit 13) = decide (sent = .seized) ∧ (s.line 1).pathSwitching = true) ∧
    ((switching.line 2).active = some 15 ∧ (switching.line 2).eff.kind = .nailed ∧
      failoverPosition (switching.setCircuit 14 idleCircuit) 2 (pathPositionOf switching 2 15) = some 0) := by decide

/-- The circuit of line 1 in a state of the line, with circuit 13 to go to or not. -/
def failing (st : LineState) (backup : Bool) : State :=
  let s := (inCall 1 12 .manualRingdown [12, 13] st .inUse [active p00]).setHandset p00 { current := [.line 1], hold := [] }
  if backup then s else s.setCircuit 13 (busyCircuit .inUse 0)

theorem witness_FailedCircuitsRetryOrLoseTheLine :
    (∀ st ∈ [LineState.ringingIn, .calling, .connected, .held, .clearing], ∀ backup ∈ [true, false],
      (failing st backup).bi.held = [] ∧ (failing st backup).eu.evtHead < 256 ∧ (failing st backup).eu.evtRead < 256 ∧
      (failing st backup).eu.unread ≤ 254 ∧
      ((failing st backup).circuit 12).owner = some 1 ∧ ((failing st backup).line 1).active = some 12 ∧
      ((failing st backup).circuit 12).state = .inUse ∧ ((failing st backup).line 1).state = st) ∧
    (newPosition (failing .calling true) 1 = some 1 ∧ ((failing .calling true).line 1).eff.path[1]? = some 13) ∧
    failoverPosition (failing .held true) 1 (pathPositionOf (failing .held true) 1 12) = some 1 ∧
    (∀ j < 4, selectable (failing .connected false) 1 j = false) ∧
    ((∀ j < 4, selectable (nailed.setCircuit 15 (busyCircuit .inUse 0)) 2 j = false) ∧ (nailed.line 2).eff.kind = .nailed) ∧
    (Ready (asking (failing .calling true) 0x21 [12#32]) 0x21 (request 0x21 [12#32]) 1 ∧ param (request 0x21 [12#32]) 1 = 12) :=
  ⟨by decide, by decide, by decide, by decide, by decide, ready (by decide), by decide⟩

/-- A FAR_CLEAR of a NAILED line, in CALLING and CONNECTED, with a circuit to go to and with none. -/
theorem witness_FailedCircuitsRetryOrLoseTheLine_nailed :
    (linkActive nailed = true ∧ (nailed.circuit 14).owner = some 2 ∧ (nailed.line 2).active = some 14 ∧ (nailed.line 2).eff.kind = .nailed ∧
      quiet nailed 14 = false ∧ (nailed.circuit 14).state = .inUse ∧
      failoverPosition nailed 2 (pathPositionOf nailed 2 14) = some 1) ∧
    (let s := inCall 2 14 .nailed [14, 15] .calling .seizing []
     (s.line 2).state = .calling ∧ (s.circuit 14).state = .seizing ∧ seizeSent (s.circuit 14) = true ∧ quiet s 14 = false ∧
       newPosition s 2 = some 1 ∧ ∀ j < 4, selectable (s.setCircuit 15 (busyCircuit .inUse 0)) 2 j = false) := by decide

theorem witness_CircuitDownTakesItOut :
    (base.bi.held = [] ∧ (base.circuit 10).state = .idle ∧ (base.circuit 10).owner = none ∧
      positionIn (base.line 0).eff.path 10 = some 0) ∧
    ((State.reset.circuit 10).state = .uninstalled ∧ linkActive State.reset = false) ∧
    ((ringing.circuit 10).owner = some 0 ∧ (ringing.line 0).state = .ringingIn) := by decide

def outOfUse (st : CircuitState) (last : LinkState) : State :=
  base.setCircuit 10 { idleCircuit with state := st, desired := last, lastSent := last }

theorem witness_CircuitReturnsToUse :
    (lostNailed (outOfUse .down .idle) 10 = [] ∧ ((outOfUse .down .idle).circuit 10).state = .down) ∧
    (((outOfUse .resetting .reset).circuit 10).state = .resetting ∧ ((outOfUse .resetting .reset).circuit 10).lastSent = .reset ∧
      lostNailed (outOfUse .resetting .reset) 10 = []) := by decide

/-- Line 2, NAILED, in a state without a call, and the same with no circuit to seize. -/
def resting (st : LineState) : State := modLine base 2 fun l => { l with state := st }
def noneLeft (s : State) : State := (s.setCircuit 14 { idleCircuit with state := .down }).setCircuit 15 { idleCircuit with state := .down }

/-- Line 2 at the end of a load; out of service at LINE_SERVICE in; disabled at a commit that enables it; in CLEARING at guard expiry on its
second circuit; and with its first circuit about to return. -/
theorem witness_NailedLinesAreSeized :
    (base.bi.held = [] ∧ base.eu.evtHead < 256 ∧ (base.line 2).applied.call.kind = .nailed ∧ newPosition base 2 = some 0 ∧
      (base.line 2).applied.call.path[0]? = some 14 ∧ newPosition (noneLeft base) 2 = none) ∧
    (let s := (resting .idle).setLoad (some .ending)
     s.su.load = some .ending ∧ s.bi.loadLeft = 0 ∧ (s.line 2).applied.enabled = true ∧ (s.line 2).state = .idle ∧ nailedLines s = [2] ∧
       (s.line 2).callCopy = none) ∧
    (∀ st ∈ [LineState.outOfService .admin, .outOfService .noPath], ((resting st).line 2).state = st ∧
      ((resting st).line 2).callCopy = none) ∧
    Ready (asking (resting (.outOfService .noPath)) 0x14 [2#32, 1#32]) 0x14 (request 0x14 [2#32, 1#32]) 2 ∧
    (let s := modLine (resting (.outOfService .admin)) 2 fun l => { l with applied := { l.applied with enabled := false } }
     let s := setCopy s (lineConfigOffset 2 + 1) 0x000F000E#32
     Taken s (lineConfigOffset 2) 15#4 ∧
       (parseLine s.su.lineCount 2 (writtenCopy (mergeCopy s (lineConfigOffset 2) 0x02070303#32 15#4) (lineConfigOffset 2) 16)).map
         (fun c => (c.enabled, decide (c.call = (s.line 2).applied.call))) = some (true, true) ∧
       (s.line 2).state = .outOfService .admin ∧ s.path 2 = (refreshMasks s 2 (s.line 2).eff.path (s.line 2).eff.path).path 2 ∧
       newPosition s 2 = some 0) ∧
    (let s := timed (inCall 2 15 .nailed [14, 15] .clearing .releasing []) 2 none (some (.guard, 100000))
     stateDue s 2 .guard = true ∧ (s.line 2).pendingAdmin = false ∧ (s.line 2).active = some 15 ∧
       (s.line 2).callCopy = some (s.line 2).applied.call ∧ 2 < s.su.lineCount ∧ newPosition s 2 = some 0 ∧ pathPositionOf s 2 15 = 1 ∧
       s.path 2 = (refreshMasks s 2 (s.line 2).eff.path (s.line 2).eff.path).path 2 ∧ quiet s 15 = false ∧
       newPosition (s.setCircuit 14 (busyCircuit .inUse 0)) 2 = none) ∧
    (let s := (noneLeft (resting (.outOfService .noPath))).setPath 2 { installed := 3, available := 0, operational := 1, lastUsed := 0 }
     linkActive s = true ∧ s.eu.unread ≤ 254 ∧ lostNailed s 14 = [2] ∧ isNamed s 14 = true ∧
     positionIn (s.line 2).applied.call.path 14 = some 0 ∧
       newPosition s 2 = none ∧ (s.circuit 14).state = .down ∧
       (let r := s.setCircuit 14 { idleCircuit with state := .resetting, desired := .reset, lastSent := .reset }
        (r.circuit 14).lastSent = .reset ∧ lostNailed r 14 = [2] ∧ newPosition r 2 = none ∧ (r.path 2).operational.getLsbD 0 = true)) :=
  ⟨by decide, by decide, by decide, ready (by decide), ⟨⟨by decide, by decide, rfl, by decide⟩, by decide⟩, by decide, by decide⟩

/-- A transmission of each message on the circuit of line 0, and one whose circuit went down. -/
def sendingOn (s : State) (m : LinkMsg) (down : Bool) : State := s.setSending (some { circuit := 10, msg := m, wentDown := down })

theorem witness_EndOfSendMovesLastSent :
    (∀ m ∈ [LinkMsg.seize, .ringOn, .ringOff, .release, .reset],
      (sendingOn calling m false).cc.sending = some { circuit := 10, msg := m, wentDown := false } ∧
      (sendingOn calling m false).bi.held = []) ∧
    ((sendingOn (outOfUse .down .idle) .seize true).circuit 10).state = .down := by decide

theorem witness_SignalExpiriesDriveRinging :
    (∀ p ∈ [SignalPurpose.cadenceOn, .cadenceOff, .burst],
      (timed calling 0 (some (p, 100000)) none).bi.held = [] ∧ ((timed calling 0 (some (p, 100000)) none).line 0).active = some 10 ∧
      signalDue (timed calling 0 (some (p, 100000)) none) 0 p = true) := by decide

/-- An acknowledgement wait that ends with a second circuit to try, and one that ends with none. -/
def waiting : State := timed calling 0 none (some (.ackWait, 99999))
def lastCircuit : State := waiting.setCircuit 11 (busyCircuit .inUse 1)

theorem witness_AckWaitRetriesOrLosesThePath :
    (waiting.bi.held = [] ∧ waiting.eu.evtHead < 256 ∧ waiting.eu.evtRead < 256 ∧ stateDue waiting 0 .ackWait = true ∧
    (waiting.line 0).state = .calling ∧
      (waiting.line 0).active = some 10 ∧ pathPositionOf waiting 0 10 = 0 ∧ newPosition waiting 0 = some 1 ∧
      (waiting.line 0).eff.path[1]? = some 11 ∧ (waiting.circuit 10).state ≠ .idle ∧
      ∀ k < 4, k ≠ 0 → (waiting.line 0).eff.path[k]? ≠ some 10) ∧
    ((∀ j < 4, selectable lastCircuit 0 j = false) ∧ (∀ j < 4, j ≠ 0 → (lastCircuit.line 0).eff.path[j]? ≠ some 10) ∧
      (lastCircuit.line 0).eff.kind ≠ .nailed ∧ stateDue lastCircuit 0 .ackWait = true) := by decide

/-- The acknowledgement wait of a failover, with a circuit to go on to and with none; and that of a NAILED line in CALLING with none. -/
theorem witness_AckWaitRetriesOrLosesThePath_failover :
    (let s := timed switching 2 none (some (.ackWait, 100000))
     stateDue s 2 .ackWait = true ∧ s.eu.unread ≤ 254 ∧ (s.line 2).state = .connected ∧ (s.line 2).active = some 15 ∧
     (s.circuit 15).state ≠ .idle ∧
       (∀ k < 4, k ≠ pathPositionOf s 2 15 → (s.line 2).eff.path[k]? ≠ some 15) ∧
       failoverPosition (s.setCircuit 14 idleCircuit) 2 (pathPositionOf s 2 15) = some 0 ∧ (s.line 2).eff.path[0]? = some 14 ∧
       ∀ j < 4, selectable s 2 j = false) ∧
    (let s := (timed (inCall 2 14 .nailed [14, 15] .calling .seizing []) 2 none (some (.ackWait, 100000))).setCircuit 15 (busyCircuit .inUse 0)
     stateDue s 2 .ackWait = true ∧ (s.line 2).state = .calling ∧ (s.line 2).eff.kind = .nailed ∧ (s.line 2).active = some 14 ∧
       (∀ k < 4, k ≠ pathPositionOf s 2 14 → (s.line 2).eff.path[k]? ≠ some 14) ∧ ∀ j < 4, selectable s 2 j = false) := by decide

theorem witness_UnansweredCallsEnd :
    (stateDue (timed calling 0 none (some (.noAnswer, 100000))) 0 .noAnswer = true ∧ (calling.line 0).active = some 10) ∧
    (stateDue (timed ringing 0 none (some (.ringIn, 100000))) 0 .ringIn = true ∧ (ringing.line 0).active = some 10) := by decide

/-- A line in CLEARING whose guard has run out, to stay in service or to leave it. -/
def guarded (out : Bool) : State :=
  modLine (timed (inCall 1 12 .manualRingdown [12, 13] .clearing .releasing []) 1 none (some (.guard, 100000))) 1 fun l =>
    { l with pendingAdmin := out }

theorem witness_GuardExpiryFreesTheLine :
    (∀ out ∈ [true, false], (guarded out).bi.held = [] ∧ stateDue (guarded out) 1 .guard = true ∧
      ((guarded out).line 1).state = .clearing ∧ ((guarded out).line 1).active = some 12 ∧ ((guarded out).line 1).pendingAdmin = out) ∧
    ((guarded false).line 1).applied.call.kind ≠ .nailed := by decide

/-- An intercom call from position 0 to position 1, due to end. -/
def alerting : State :=
  let s := base.setCall 3
    { state := .alerting, caller := some p00, target := some (.position 1), answerer := none, start := 7, timer := some 100000 }
  (s.setHandset p00 { current := [.intercom 3], hold := [1] }).setPosition 1 { position with reach := 8 }

theorem witness_IntercomTimerEndsTheCall : alerting.bi.held = [] ∧ callDue alerting 3 = true := by decide

/-- A circuit that nothing names, with 0, 15 and 16 unread fault records, and in LOCKDOWN. -/
def faults (n : Nat) : State := { base with eu := { base.eu with fltHead := n } }

theorem witness_LinkMessagesFaultOrAreIgnored :
    linkActive base = true ∧ (base.circuit 200).state = .uninstalled ∧ (faults 15).eu.unreadFaults = 15 ∧
    (faults 16).eu.unreadFaults = 16 ∧ linkActive lockedDown = true ∧ lockedDown.su.part = .lockdown ∧
    (lockedDown.circuit 200).state = .uninstalled ∧ wrongState base 10 (.seizeAck 10) ∧
    wrongState (outOfUse .down .idle) 10 (.ringDetect 10) ∧ wrongState ringing 10 (.farAnswer 10) ∧ wrongState base 10 (.resetDone 10) ∧
    ignoredMessage (guarded true) 12 (.farClear 12) ∧ ignoredMessage connected 12 (.seizeAck 12) ∧
    ignoredMessage connected 12 (.farAnswer 12) ∧ ignoredMessage ringing 10 (.ringDetect 10) ∧
    ignoredMessage State.reset 10 (.ringDetect 10) ∧ ignoredMessage State.reset 10 (.circuitUp 10) ∧
    ignoredMessage State.reset 10 (.resetDone 10) ∧ ignoredMessage (outOfUse .down .idle) 10 (.circuitDown 10) := by
  refine ⟨by decide, by decide, by decide, by decide, by decide, by decide, by decide, .inl (by decide), .inr (.inl (by decide)),
    .inr (.inr (.inl ⟨rfl, by decide, 0, by decide, by decide⟩)), .inr (.inr (.inr (by decide))), .inl ⟨by decide, .inl (by decide)⟩,
    .inl ⟨by decide, .inr (.inl (by decide))⟩, .inl ⟨by decide, .inr (.inr ⟨1, by decide, by decide, .inl (by decide)⟩)⟩,
    .inl ⟨by decide, .inr (.inr ⟨0, by decide, by decide, .inr (by decide)⟩)⟩, .inr (.inl ⟨by decide, .inl (by decide)⟩),
    .inr (.inl ⟨by decide, .inr (.inl (by decide))⟩), .inr (.inl ⟨by decide, .inr (.inr (by decide))⟩), .inr (.inr (by decide))⟩

/-! ### Requests -/

/-- An engine that begins to take a request; one with words left to read; an unknown code; and requests of position 5, of an OFF position
and of a handset that is not present. -/
theorem witness_RequestsAreFetched :
    (let s := { base with re := { head := 63, tail := 0, take := .idle } }
     s.bi.held = [] ∧ servesRing s = true ∧ s.re.pendingCount ≠ 0 ∧ 8 < s.eu.free) ∧
    (Ready (asking base 0xFF []) 0xFF (request 0xFF []) 1 ∧ requestCodes.contains 0xFF = false) ∧
    (let s := { base with re := { head := 0, tail := 1, take := .fetching [] } }
     fetchedCode s (· = 0) = true ∧ accessesLeft (finishReads s .fetch) .fetch = 0) ∧
    Ready (asking base 0x30 []) 0x30 (request 0x30 []) 1 ∧
    (let ws := 0x510#32 :: List.replicate 15 0
     requestCode ws = 0x10 ∧ base.su.positionCount ≤ requestPosition ws) ∧
    (requestPosition (request 0x30 []) < base.su.positionCount ∧ requestHandset (request 0x30 []) = 0 ∧
      ((base.setPosition 0 PosRec.cold).position 0).applied.enabled = false ∧
      ((base.setPosition 0 { position with applied := { position.applied with present0 := false } }).position 0).applied.present0 = false) :=
  ⟨by decide, ⟨ready (by decide), by decide⟩, by decide +kernel, ready (by decide), by decide, by decide⟩

theorem witness_NopReportsPendingCount : Ready (asking base 0x00 []) 0x00 (request 0x00 []) 1 := ready (by decide)

theorem witness_ResumeEntersRunning :
    Ready (asking base 0x71 []) 0x71 (request 0x71 []) 2 ∧ (asking base 0x71 []).su.part = .running ∧
    Ready (asking (base.setPart .quiesced) 0x71 []) 0x71 (request 0x71 []) 2 :=
  ⟨ready (by decide), rfl, ready (by decide)⟩

theorem witness_ModeRequestsTakeEffect :
    Ready (asking base 0x70 []) 0x70 (request 0x70 []) 2 ∧
    Ready (asking (base.setPart .quiesced) 0x70 []) 0x70 (request 0x70 []) 2 ∧
    (Ready (asking base 0x50 [1#32, 1#32]) 0x50 (request 0x50 [1#32, 1#32]) 1 ∧ onOff (param (request 0x50 [1#32, 1#32]) 1) = some true ∧
      param (request 0x50 [1#32, 1#32]) 2 ≤ 1) ∧
    (Ready (asking base 0x50 [2#32]) 0x50 (request 0x50 [2#32]) 1 ∧ 1 < param (request 0x50 [2#32]) 1) ∧
    Ready (asking base 0x60 [0x1F#32]) 0x60 (request 0x60 [0x1F#32]) 1 :=
  ⟨ready (by decide), ready (by decide), ⟨ready (by decide), by decide⟩, ⟨ready (by decide), by decide⟩, ready (by decide)⟩

/-- SPEAKER_SET of channel 7 to line 2, to a line that is not configured, and to what it is tuned to. -/
theorem witness_SpeakerRequestsTakeEffect_set :
    (let s := asking base 0x40 [7#32, 1#32, 2#32, 1#32]
     let ws := request 0x40 [7#32, 1#32, 2#32, 1#32]
     Ready s 0x40 ws 1 ∧ FromPosition s ws 0 ∧ param ws 1 = 7 ∧ sourceOf (param ws 2) (param ws 3) = some (.line 2) ∧
       mixOf (param ws 4) = some .b ∧ tunable s (.line 2) = true ∧ mayHear s 0 (.line 2) = true ∧
       (Table.get ChanRun.cold (s.speaker 0).channels 7).source ≠ .line 2) ∧
    tunable base (.line 3) = false ∧
    (Table.get ChanRun.cold (base.speaker 0).channels 7).source = .none ∧ (Table.get ChanRun.cold (base.speaker 0).channels 7).mix = .a ∧
    (base.speaker 0).ptt ≠ some 7 :=
  ⟨⟨ready (by decide), ⟨by decide, by decide, by decide⟩, by decide⟩, by decide⟩

/-- A position whose channel 0 is tuned to line 1. -/
def tuned : State := base.setSpeaker 0 { channels := [(0, { source := .line 1, mix := .a, volume := 3 })], ptt := none }

theorem witness_SpeakerRequestsTakeEffect_volume_ptt :
    FromPosition tuned (request 0x41 [0#32, 15#32]) 0 ∧
    (Ready (asking tuned 0x41 [0#32, 15#32]) 0x41 (request 0x41 [0#32, 15#32]) 1 ∧
      (Table.get ChanRun.cold (tuned.speaker 0).channels 0).volume ≠ min (param (request 0x41 [0#32, 15#32]) 2) 15) ∧
    (Table.get ChanRun.cold (tuned.speaker 0).channels 0).volume = min (param (request 0x41 [0#32, 3#32]) 2) 15 ∧
    (Ready (asking tuned 0x42 [0#32, 1#32]) 0x42 (request 0x42 [0#32, 1#32]) 1 ∧
      (Table.get ChanConfig.cold (tuned.position 0).applied.channels 0).pttAllowed = true ∧ mayTalk tuned 0 (.line 1) = true) ∧
    Ready (asking tuned 0x42 [0#32, 0#32]) 0x42 (request 0x42 [0#32, 0#32]) 1 :=
  ⟨⟨by decide, by decide, by decide⟩, ⟨ready (by decide), by decide⟩, by decide, ⟨ready (by decide), by decide⟩, ready (by decide)⟩

/-- Requests with a channel, a kind, a mix or a direction out of range, and PTT on where it is not allowed, where there is no source, and for
a bridge of which the position is no member. -/
theorem witness_SpeakerRequestsTakeEffect_refused :
    (∀ params ∈ [[8#32], [0#32, 3#32], [0#32, 0#32, 0#32, 2#32]],
      Ready (asking base 0x40 params) 0x40 (request 0x40 params) 1 ∧ FromPosition base (request 0x40 params) 0 ∧
        (8 ≤ param (request 0x40 params) 1 ∨ 3 ≤ param (request 0x40 params) 2 ∨ 2 ≤ param (request 0x40 params) 4)) ∧
    (Ready (asking base 0x41 [8#32]) 0x41 (request 0x41 [8#32]) 1 ∧ 8 ≤ param (request 0x41 [8#32]) 1) ∧
    (∀ params ∈ [[8#32], [0#32, 2#32], [0#32, 1#32]], Ready (asking base 0x42 params) 0x42 (request 0x42 params) 1) ∧
    ((Table.get ChanConfig.cold (base.position 0).applied.channels 1).pttAllowed = false ∧
      (Table.get ChanRun.cold (base.speaker 0).channels 0).source = .none ∧ mayTalk base 0 (.bridge 0) = false) := by
  refine ⟨?_, ⟨ready (by decide), by decide⟩, ?_, by decide⟩
  · intro params h
    simp only [List.mem_cons, List.not_mem_nil, or_false] at h
    rcases h with rfl | rfl | rfl <;> exact ⟨ready (by decide), ⟨by decide, by decide, by decide⟩, by decide⟩
  · intro params h
    simp only [List.mem_cons, List.not_mem_nil, or_false] at h
    rcases h with rfl | rfl | rfl <;> exact ready (by decide)

/-- The requests of position 0, handset 0. -/
theorem fromP00 {s : State} {code : Nat} {params : List Word}
    (h : decide (requestParty (request code params) = p00 ∧ p00.pos < s.su.positionCount ∧ (s.position 0).applied.enabled = true ∧
      present (s.position 0).applied 0 = true) = true) : FromHandset s (request code params) p00 := by
  obtain ⟨h1, h2, h3, h4⟩ := of_decide_eq_true h
  exact ⟨h1, h2, h3, h4⟩

theorem witness_PrivacySetsOrClearsTheSetter :
    (Ready (asking connected 0x12 [1#32, 1#32]) 0x12 (request 0x12 [1#32, 1#32]) 1 ∧
      FromHandset (asking connected 0x12 [1#32, 1#32]) (request 0x12 [1#32, 1#32]) p00 ∧
      isActive (connected.line 1) p00 = true ∧ (connected.line 1).setter = none ∧ param (request 0x12 [1#32, 1#32]) 2 ≤ 1) ∧
    (Ready (asking connected 0x12 [3#32, 1#32]) 0x12 (request 0x12 [3#32, 1#32]) 1 ∧ connected.su.lineCount ≤ 3) :=
  ⟨⟨ready (by decide), fromP00 (by decide), by decide⟩, ready (by decide), by decide⟩

theorem witness_ForceReleaseAndLineService :
    (Ready (asking connected 0x13 [1#32]) 0x13 (request 0x13 [1#32]) 1 ∧ (connected.line 1).state.inCall = true) ∧
    (Ready (asking base 0x13 [1#32]) 0x13 (request 0x13 [1#32]) 1 ∧ (base.line 1).state.inCall = false) ∧
    (Ready (asking base 0x14 [1#32, 0#32]) 0x14 (request 0x14 [1#32, 0#32]) 2 ∧ param (request 0x14 [1#32, 0#32]) 1 < base.su.lineCount ∧
      (base.line 1).state = .idle) ∧
    (let s := modLine base 1 fun l => { l with state := .outOfService .admin }
     Ready (asking s 0x14 [1#32, 1#32]) 0x14 (request 0x14 [1#32, 1#32]) 2 ∧ (s.line 1).applied.enabled = true ∧
       (s.line 1).eff.kind ≠ .nailed) ∧
    (Ready (asking (guarded true) 0x14 [1#32, 1#32]) 0x14 (request 0x14 [1#32, 1#32]) 2 ∧ ((guarded true).line 1).state = .clearing) ∧
    (Ready (asking base 0x14 [1#32, 2#32]) 0x14 (request 0x14 [1#32, 2#32]) 2 ∧ 1 < param (request 0x14 [1#32, 2#32]) 2) :=
  ⟨⟨ready (by decide), by decide⟩, ⟨ready (by decide), by decide⟩, ⟨ready (by decide), by decide⟩, ⟨ready (by decide), by decide⟩,
   ⟨ready (by decide), by decide⟩, ready (by decide), by decide⟩

/-- LINE_SERVICE out of a line in a call and with cause NO_PATH; its NO_CHANGE, out and in; and an unconfigured line. -/
theorem witness_ForceReleaseAndLineService_rows :
    (∀ st ∈ [LineState.ringingIn, .calling, .connected, .held],
      let s := modLine connected 1 fun l => { l with state := st }
      Ready (asking s 0x14 [1#32, 0#32]) 0x14 (request 0x14 [1#32, 0#32]) 1 ∧ (s.line 1).state.inCall = true) ∧
    (Ready (asking (modLine base 1 fun l => { l with state := .outOfService .noPath }) 0x14 [1#32, 0#32]) 0x14 (request 0x14 [1#32, 0#32]) 2 ∧
      param (request 0x14 [1#32, 0#32]) 2 = 0 ∧ param (request 0x14 [1#32, 1#32]) 2 = 1) ∧
    Ready (asking base 0x14 [1#32, 1#32]) 0x14 (request 0x14 [1#32, 1#32]) 1 ∧
    (Ready (asking base 0x14 [3#32, 0#32]) 0x14 (request 0x14 [3#32, 0#32]) 1 ∧ base.su.lineCount ≤ param (request 0x14 [3#32, 0#32]) 1) := by
  refine ⟨fun st h => ?_, ⟨ready (by decide), by decide⟩, ready (by decide), ready (by decide), by decide⟩
  simp only [List.mem_cons, List.not_mem_nil, or_false] at h
  rcases h with rfl | rfl | rfl | rfl <;> exact ⟨ready (by decide), by decide⟩

theorem witness_SignalAndCircuitReset :
    (Ready (asking connected 0x20 [1#32]) 0x20 (request 0x20 [1#32]) 1 ∧ maySignal (connected.line 1) = true ∧
      (connected.line 1).ringBurst = false ∧ (connected.line 1).active = some 12) ∧
    (Ready (asking base 0x20 [1#32]) 0x20 (request 0x20 [1#32]) 1 ∧ maySignal (base.line 1) = false) ∧
    (Ready (asking base 0x21 [10#32]) 0x21 (request 0x21 [10#32]) 1 ∧ (base.circuit 10).owner = none ∧ (base.circuit 10).state = .idle) ∧
    (Ready (asking base 0x21 [256#32]) 0x21 (request 0x21 [256#32]) 1 ∧ 255 < param (request 0x21 [256#32]) 1) ∧
    (base.circuit 255).state = .uninstalled :=
  ⟨⟨ready (by decide), by decide⟩, ⟨ready (by decide), by decide⟩, ⟨ready (by decide), by decide⟩, ⟨ready (by decide), by decide⟩,
   by decide⟩

/-- Line 0 as SELECT of key 5 by handset 0 finds it, and a state of position 0. -/
def keyed (l : LineRec → LineRec) (h : HandsetRec) (cls : Nat) : State :=
  let s := (modLine base 0 l).setHandset p00 h
  s.setPosition 0 { position with applied := { position.applied with accessClass := cls } }

/-- A line in use that another position's handset has to itself. -/
def privateUse (barge : Bool) (n : Nat) (l : LineRec) : LineRec :=
  { l with
    state := .connected, setter := some { pos := 1, hs := 0 }, participants := List.replicate n { party := { pos := 1, hs := 0 }, mode := .active }
    applied := { l.applied with call := { l.applied.call with bargeAllowed := barge } } }

theorem witness_SelectTakesOrIsRefusedTheLine :
    (let s := asking base 0x10 [5#32]
     Ready s 0x10 (request 0x10 [5#32]) 1 ∧ FromHandset s (request 0x10 [5#32]) p00 ∧ (s.key (128 * 0 + 5)).lineOf = some 0 ∧
       (s.line 0).applied.enabled = true ∧ (s.line 0).state = .idle ∧ (s.line 0).callCopy = none ∧ (s.line 0).setter = none ∧
       positionClass s 0 ≤ (s.line 0).eff.accessClass ∧ (s.handset p00).current = [] ∧ 0 ∉ (s.handset p00).hold ∧
       s.su.part = .running ∧ newPosition s 0 = some 0 ∧ (s.line 0).eff.path[0]? = some 10 ∧ noRecorder s p00 0 = false) ∧
    (let s := asking connected 0x10 [5#32]
     Ready s 0x10 (request 0x10 [5#32]) 1 ∧ (s.handset p00).current = [1].map .line ∧ 0 ∉ [1] ∧ MayTake s p00 0 ∧ (s.line 0).state = .idle ∧
       newPosition s 0 = some 0) ∧
    (127 < param (request 0x10 [128#32]) 1 ∧ base.key (128 * 0 + 127) = .empty) ∧
    (let s := (keyed (privateUse true 3) HandsetRec.cold 1).setPosition 1
      { position with applied := { position.applied with accessClass := 2 } }
     MayTake s p00 0 ∧ (s.handset p00).current = [] ∧ (s.line 0).state = .connected ∧ (s.line 0).participants.length < 4 ∧
       (s.line 0).eff.shared = true ∧ (∀ st ∈ (s.line 0).setter, overrides s 0 0 st) ∧ needsChannel s p00 0 = false ∧ s.eu.unread ≤ 253) ∧
    selectRefused (keyed (fun l => { l with state := .outOfService .admin }) HandsetRec.cold 0) p00 0 .lineOos ∧
    selectRefused (keyed (fun l => { l with applied := { l.applied with enabled := false } }) HandsetRec.cold 0) p00 0 .lineOos ∧
    selectRefused (keyed id HandsetRec.cold 8) p00 0 .access ∧
    selectRefused (keyed id { current := [.line 0], hold := [] } 0) p00 0 .noChange ∧
    selectRefused (keyed id { current := [.line 1], hold := [2, 3, 4, 5] } 0) p00 0 .stackFull ∧
    selectRefused ((keyed id HandsetRec.cold 0).setPart .quiesced) p00 0 .quiesced ∧
    selectRefused ((keyed id HandsetRec.cold 0).setPath 0 PathRec.cold) p00 0 .noPath ∧
    selectRefused (keyed (fun l => { l with state := .clearing }) HandsetRec.cold 7) p00 0 .clearing ∧
    selectRefused (keyed (privateUse true 4) HandsetRec.cold 0) p00 0 .lineBusy ∧
    selectRefused (keyed (privateUse false 3) HandsetRec.cold 0) p00 0 .privateLine := by
  refine ⟨⟨ready (by decide), fromP00 (by decide), by decide⟩, ⟨ready (by decide), by decide, by decide,
    ⟨⟨by decide, by decide⟩, by decide, by decide, by decide⟩, by decide⟩, by decide,
    ⟨⟨⟨by decide, by decide⟩, by decide, by decide, by decide⟩, by decide, by decide, by decide, by decide, ?_, by decide, by decide⟩, ?_, ?_, ?_, ?_, ?_, ?_, ?_, ?_, ?_, ?_⟩
  · simp only [overrides]; decide
  · exact .inl ⟨rfl, by simp only [inServiceLine]; decide⟩
  · exact .inl ⟨rfl, by simp only [inServiceLine]; decide⟩
  · exact .inr (.inl ⟨rfl, ⟨by decide, by decide⟩, by decide⟩)
  · exact .inr (.inr (.inl ⟨rfl, ⟨by decide, by decide⟩, by decide⟩))
  · exact .inr (.inr (.inr (.inl ⟨rfl, ⟨by decide, by decide⟩, by decide⟩)))
  all_goals refine .inr (.inr (.inr (.inr ⟨⟨⟨by decide, by decide⟩, by decide, by decide, by decide⟩, ?_⟩)))
  · exact .inl (by decide)
  · exact .inr (.inl (by decide))
  · exact .inr (.inr (.inl (by decide)))
  · exact .inr (.inr (.inr (.inl (by decide))))
  · exact .inr (.inr (.inr (.inr ⟨rfl, by decide, by decide, _, rfl, by simp only [overrides]; decide⟩)))

theorem witness_AnswerTakesTheOldestRing :
    (let s := asking ringing 0x11 []
     Ready s 0x11 (request 0x11 []) 1 ∧ FromHandset s (request 0x11 []) p00 ∧ s.alertList 0 = [0] ∧ (s.line 0).applied.enabled = true ∧
       (s.line 0).state = .ringingIn ∧ (s.line 0).setter = none ∧ (s.line 0).active = some 10 ∧
       positionClass s 0 ≤ (s.line 0).eff.accessClass ∧ (s.handset p00).current = [] ∧ 0 ∉ (s.handset p00).hold ∧
       noRecorder s p00 0 = false) ∧
    (let s := asking (ringing.setHandset p00 { current := [.line 1], hold := [2] }) 0x10 [5#32]
     Ready s 0x10 (request 0x10 [5#32]) 1 ∧ (s.handset p00).current = [1].map .line ∧ (s.key (128 * 0 + 5)).lineOf = some 0 ∧
       [1].length + (s.handset p00).hold.length ≤ 4) ∧
    (∀ i ∈ [(Instr.answer, 0x11, ([] : List Word)), (.select, 0x10, [5#32])],
      let s := asking (ringing.setHandset p00 { current := [.intercom 15], hold := [] }) i.2.1 i.2.2
      Ready s i.2.1 (request i.2.1 i.2.2) 1 ∧ MayTake s p00 0 ∧ takeable s 0 0 ∧ needsChannel s p00 0 = false ∧ s.eu.unread ≤ 253) ∧
    (Ready (asking base 0x11 []) 0x11 (request 0x11 []) 1 ∧ (asking base 0x11 []).alertList 0 = []) := by
  refine ⟨⟨ready (by decide), fromP00 (by decide), by decide⟩, ⟨ready (by decide), by decide⟩, fun i hi => ?_, ready (by decide), by decide⟩
  simp only [List.mem_cons, List.not_mem_nil, or_false] at hi
  rcases hi with rfl | rfl <;>
    exact ⟨ready (by decide), ⟨⟨by decide, by decide⟩, by decide, by decide, by decide⟩, .inr (.inl rfl), by decide, by decide⟩

/-- Line 1 CONNECTED with handset 0, which also holds line 0. -/
def twoLines : State :=
  ((connected.setLine 0 (callLine .autoRingdown [10, 11] .held 10 [onHold p00])).setCircuit 10 (busyCircuit .inUse 0)).setHandset p00
    { current := [.line 1], hold := [0] }

/-- Line 1, which must be recorded, on key 6 of position 0 with no channel to be had; held under line 0; and as RETRIEVE and JOIN find it. -/
def unrecordable : State := mustRecord (base.setKeyVal 6 (.line 1 false))
def unjoinable : State := mustRecord (twoLines.setHandset p00 { current := [.line 0], hold := [1] })

/-- The same line with channels: two free, of which channel 1 served port 0 last; and none free, port 6 holding one. -/
def obtaining (linger : Bool) : State :=
  { unrecordable with
    ra := { recorded.ra with
      channels := [(0, { ChannelRec.cold with state := .free }),
        (1, { ChannelRec.cold with state := .free, lastPort := if linger then some 0 else none, relFrame := 90000 })]
      ports := [], freeList := [0, 1], order := [] } }
def preempting : State := { unrecordable with ra := { recorded.ra with freeList := [] } }

theorem witness_RequestsObtainRecorderChannels :
    (let s := asking unrecordable 0x10 [6#32]
     Ready s 0x10 (request 0x10 [6#32]) 1 ∧ FromHandset s (request 0x10 [6#32]) p00 ∧ (s.key (128 * 0 + 6)).lineOf = some 1 ∧
     MayTake s p00 1 ∧
       takeable s 1 0 ∧ (s.line 1).applied.recordLevel = .required ∧ (s.port 0).channel = none ∧ s.ra.freeList = [] ∧ s.ra.order = []) ∧
    (let s := unrecordable.setAlertList 0 [1]
     Ready (asking s 0x11 []) 0x11 (request 0x11 []) 1 ∧ (s.alertList 0).head? = some 1) ∧
    (let s := asking unjoinable 0x32 [1#32]
     Ready s 0x32 (request 0x32 [1#32]) 1 ∧ param (request 0x32 [1#32]) 1 = 1 ∧ 1 ∈ (s.handset p00).hold ∧
       (s.line 1).applied.recordLevel = .required) ∧
    (Ready (asking unjoinable 0x33 []) 0x33 (request 0x33 []) 1 ∧ (unjoinable.handset p00).current = [.line 0] ∧
      (unjoinable.handset p00).hold.getLast? = some 1) ∧
    (∀ linger ∈ [true, false], (obtaining linger).ra.freeList.Nodup ∧ (obtaining linger).ra.waitQueue = [] ∧
      (obtaining linger).port 0 = PortRec.cold ∧ lingerChannel (obtaining linger) 0 = if linger then some 1 else none) ∧
    (preempting.ra.freeList = [] ∧ findVictim preempting = some 6 ∧ (preempting.port 6).channel = some 1 ∧
    preempting.port 0 = PortRec.cold) :=
  ⟨⟨ready (by decide), fromP00 (by decide), by decide, ⟨⟨by decide, by decide⟩, by decide, by decide, by decide⟩,
      .inl ⟨by decide, by decide, 0, by decide, by decide⟩, by decide⟩,
    ⟨ready (by decide), by decide⟩, ⟨ready (by decide), by decide⟩, ⟨ready (by decide), by decide⟩, by decide, by decide⟩

theorem witness_ReleaseResumesTheTop :
    (let s := asking twoLines 0x30 []
     Ready s 0x30 (request 0x30 []) 1 ∧ FromHandset s (request 0x30 []) p00 ∧ (s.handset p00).current = [.line 1] ∧
       1 ∉ (s.handset p00).hold ∧ (s.handset p00).hold.getLast? = some 0 ∧ (s.line 0).state = .held ∧
       onHold p00 ∈ (s.line 0).participants ∧ (s.line 1).participants = [active p00] ∧ (s.line 1).state = .connected ∧
       (s.line 1).eff.kind ≠ .nailed) ∧
    (∃ e ∈ ((modLine twoLines 1 fun l => { l with participants := l.participants ++ [active p01] }).line 1).participants, e.party ≠ p00) ∧
    (connected.handset p00).hold = [] ∧ (Ready (asking base 0x30 []) 0x30 (request 0x30 []) 1 ∧ (base.handset p00).current = []) :=
  ⟨⟨ready (by decide), fromP00 (by decide), by decide⟩, by decide, by decide, ready (by decide), by decide⟩

/-- RELEASE of two joined lines, one of them in CALLING with this handset alone; and of an intercom call over a held line. -/
theorem witness_ReleaseResumesTheTop_joined_intercom :
    (let s := (callingManual.setLine 0 (callLine .autoRingdown [10, 11] .connected 10 [active p00])).setHandset p00
       { current := [.line 1, .line 0], hold := [2] }
     Ready (asking s 0x30 []) 0x30 (request 0x30 []) 1 ∧ [1, 0].Nodup ∧ (s.handset p00).current = [1, 0].map .line ∧
       (∀ n ∈ [1, 0], n ∉ (s.handset p00).hold) ∧ (s.line 1).participants = [active p00] ∧ (s.line 1).state = .calling ∧
       (s.line 1).eff.kind ≠ .nailed ∧ (s.line 1).active = some 12 ∧ (s.line 0).active ≠ some 12) ∧
    (let s := (base.setCall 3 { IcmRec.cold with state := .talking, caller := some p00 }).setHandset p00 { current := [.intercom 3], hold := [0] }
     Ready (asking s 0x30 []) 0x30 (request 0x30 []) 1 ∧ (s.handset p00).current = [.intercom 3]) :=
  ⟨⟨ready (by decide), by decide⟩, ready (by decide), by decide⟩

theorem witness_HoldStackRequestsMoveLines_hold :
    (let s := asking connected 0x31 []
     Ready s 0x31 (request 0x31 []) 1 ∧ FromHandset s (request 0x31 []) p00 ∧ (s.handset p00).current = [1].map .line ∧
       [1].length + (s.handset p00).hold.length ≤ 4 ∧ (s.line 1).state = .connected ∧ (s.line 1).participants = [active p00] ∧
       (s.line 1).eff.kind ≠ .nailed) ∧
    (base.handset p00).current = [] ∧ hasIntercom (alerting.handset p00).current = true ∧
    (let s := connected.setHandset p00 { current := [.line 1], hold := [2, 3, 4, 5] }
     4 < (currentLines (s.handset p00).current).length + (s.handset p00).hold.length) :=
  ⟨⟨ready (by decide), fromP00 (by decide), by decide⟩, by decide, by decide, by decide⟩

theorem witness_HoldStackRequestsMoveLines_retrieve_join :
    (let s := asking twoLines 0x32 [0#32]
     Ready s 0x32 (request 0x32 [0#32]) 1 ∧ FromHandset s (request 0x32 [0#32]) p00 ∧ noRecorder s p00 0 = false ∧
       param (request 0x32 [0#32]) 1 = 0 ∧ 0 ∈ (s.handset p00).hold ∧ (s.handset p00).current = [1].map .line ∧
       (s.line 0).state = .held ∧ onHold p00 ∈ (s.line 0).participants) ∧
    (let s := asking twoLines 0x10 [5#32]
     Ready s 0x10 (request 0x10 [5#32]) 1 ∧ FromHandset s (request 0x10 [5#32]) p00 ∧ (s.key (128 * 0 + 5)).lineOf = some 0 ∧
       inServiceLine (s.line 0)) ∧
    (let s := asking twoLines 0x33 []
     Ready s 0x33 (request 0x33 []) 1 ∧ FromHandset s (request 0x33 []) p00 ∧ (s.handset p00).current = [.line 1] ∧
       (s.handset p00).hold.getLast? = some 0) :=
  ⟨⟨ready (by decide), fromP00 (by decide), by decide⟩,
   ⟨ready (by decide), fromP00 (by decide), by decide, ⟨by decide, by decide⟩⟩, ready (by decide), fromP00 (by decide), by decide⟩

/-- RETRIEVE over an intercom call, and the refusals of RETRIEVE and JOIN. -/
theorem witness_HoldStackRequestsMoveLines_refused :
    (let s := asking (twoLines.setHandset p00 { current := [.intercom 15], hold := [0] }) 0x32 [0#32]
     Ready s 0x32 (request 0x32 [0#32]) 1 ∧ 0 ∈ (s.handset p00).hold ∧ noRecorder s p00 0 = false ∧ needsChannel s p00 0 = false) ∧
    (Ready (asking twoLines 0x32 [3#32]) 0x32 (request 0x32 [3#32]) 1 ∧ twoLines.su.lineCount ≤ param (request 0x32 [3#32]) 1) ∧
    (Ready (asking twoLines 0x32 [2#32]) 0x32 (request 0x32 [2#32]) 1 ∧ 2 ∉ (twoLines.handset p00).hold) ∧
    (let h : HandsetRec := { current := [.line 1, .line 2], hold := [0, 3, 4, 5] }
     0 ∈ h.hold ∧ 4 < h.hold.length - 1 + (currentLines h.current).length) ∧
    Ready (asking base 0x33 []) 0x33 (request 0x33 []) 1 ∧ (base.handset p00).current = [] ∧
    ((connected.handset p00).current = [.line 1] ∧ (connected.handset p00).hold = []) ∧
    (alerting.handset p00).current = [.intercom 3] :=
  ⟨⟨ready (by decide), by decide⟩, ⟨ready (by decide), by decide⟩, ⟨ready (by decide), by decide⟩, by decide, ready (by decide), by decide,
   by decide, by decide⟩

/-- Position 0 calls position 1 with a line to push; and position 0 answers a call that reaches it. -/
def reached : State :=
  (base.setCall 15
    { state := .alerting, caller := some { pos := 1, hs := 0 }, target := some (.position 0), answerer := none, start := 7
      timer := some 200000 }).setPosition 0 { position with reach := 0x8000 }

/-- Position 1 in intercom group 3. -/
def grouped (s : State) : State := s.setPosition 1 { position with applied := { position.applied with groupMask := 8 } }

/-- A call and a page, with a line to push, and an answer. -/
theorem witness_IntercomCallsAreMadeAndAnswered :
    (∀ params ∈ [[0#32, 1#32], [1#32, 3#32]],
      let s := asking (grouped connected) 0x34 params
      Ready s 0x34 (request 0x34 params) 1 ∧ FromHandset s (request 0x34 params) p00 ∧ (s.handset p00).current = [1].map .line ∧
        wouldReach s 0 (param (request 0x34 params) 1) (param (request 0x34 params) 2) 1 ∧ freeCall s = some 0 ∧ s.su.part = .running) ∧
    (let s := asking reached 0x35 [15#32, 7#32]
     Ready s 0x35 (request 0x35 [15#32, 7#32]) 1 ∧ FromHandset s (request 0x35 [15#32, 7#32]) p00 ∧ (s.handset p00).current = [].map .line ∧
       (s.position 0).reach.getLsbD 15 = true ∧ frameLow (s.call 15).start = wordOf (request 0x35 [15#32, 7#32]) 2) := by
  refine ⟨fun params h => ?_, ready (by decide), fromP00 (by decide), by decide⟩
  simp only [List.mem_cons, List.not_mem_nil, or_false] at h
  rcases h with rfl | rfl <;> exact ⟨ready (by decide), fromP00 (by decide), by decide, by simp only [wouldReach]; decide, by decide, by decide⟩

/-- Every refusal of a call and of an answer. -/
theorem witness_IntercomCallsAreMadeAndAnswered_refused :
    (callRefused (grouped base) p00 2 0 .badParam ∧ callRefused (grouped base) p00 0 32 .badParam ∧
    callRefused (grouped base) p00 1 16 .badParam ∧
      callRefused (grouped base) p00 0 0 .badParam) ∧
    (callRefused (grouped base) p00 0 31 .positionOff ∧ callRefused (grouped base) p00 1 4 .positionOff) ∧
    callRefused { base with hc := { base.hc with calls := (List.range 16).map fun c => (c, { IcmRec.cold with state := .talking }) } } p00 0 1 .noIcm ∧
    callRefused (base.setPart .quiesced) p00 0 1 .quiesced ∧
    callRefused (base.setHandset p00 { current := [.line 0], hold := [1, 2, 3, 4] }) p00 0 1 .stackFull ∧
    (answerRefused reached p00 16 7#32 .badParam ∧ answerRefused reached p00 15 8#32 .notAlerting ∧
    answerRefused reached p00 14 0#32 .notAlerting ∧
      answerRefused (reached.setHandset p00 { current := [.line 0], hold := [1, 2, 3, 4] }) p00 15 7#32 .stackFull) := by
  refine ⟨⟨.inl ⟨rfl, by decide⟩, .inl ⟨rfl, by decide⟩, .inl ⟨rfl, by decide⟩, .inr (.inr (.inl ⟨rfl, by decide, by decide⟩))⟩,
    ⟨.inr (.inl ⟨rfl, by decide, by decide, ?_⟩), .inr (.inl ⟨rfl, by decide, by decide, ?_⟩)⟩, .inr (.inr (.inr ⟨⟨1, ?_⟩, .inl ⟨rfl, by decide⟩⟩)),
    .inr (.inr (.inr ⟨⟨1, ?_⟩, .inr (.inl ⟨rfl, by decide, rfl⟩)⟩)), .inr (.inr (.inr ⟨⟨1, ?_⟩, .inr (.inr ⟨rfl, by decide, by decide, by simp only [stackFull]; decide⟩)⟩)),
    .inl (by decide), .inr (.inl (by decide)), .inr (.inl (by decide)), .inr (.inr ⟨rfl, by decide, by decide, by simp only [stackFull]; decide⟩)⟩
  · rintro q ⟨hq, -, he, h⟩
    rcases h with ⟨-, rfl⟩ | ⟨h, -⟩
    · exact absurd he (by decide)
    · exact absurd h (by decide)
  · rintro q ⟨hq, -, -, h⟩
    rcases h with ⟨h, -⟩ | ⟨-, -, h⟩
    · exact absurd h (by decide)
    · revert q; decide
  all_goals simp only [wouldReach]; decide

theorem witness_OnlyWritesAndLoadsConfigure :
    mayConfigure (.seizeAck 10) = false ∧ base.bi.held = [] ∧ ∃ t, exec (.seizeAck 10) base = .next t := ⟨rfl, rfl, _, rfl⟩

/-- The event ring with 254 and with 255 unread events. -/
theorem witness_EventsTakeEntriesOrAreDropped :
    { base.eu with evtHead := 255, evtRead := 1 }.unread = 254 ∧ { base.eu with evtHead := 255, evtRead := 0 }.unread = 255 := by decide

end Sys2Proof.Tests
end

namespace Sys2Proof.Machine

/-! ## The state after reset (O7) -/

/-- Settles O7: each invariant is read off the state after reset; memory, queue, indices and fault log are closed facts. -/
theorem resetMeetsInvariants : Obligations.ResetMeetsInvariants := by
  unfold Obligations.ResetMeetsInvariants
  refine ⟨?_, ?_, ?_, ?_, ?_, ?_, ?_, ?_⟩
  · show Memory.wf State.reset.mem = true; decide
  · constructor <;> decide
  · constructor <;> decide
  · constructor <;> decide
  · show State.reset.eu.attention = attentionOf State.reset.eu State.reset.su.part; decide
  · constructor
    · decide
    · intro ch; simp [State.channel, State.reset, Table.get, ChannelRec.cold]
    · intro q ch; simp [State.port, State.reset, Table.get, PortRec.cold]
    · decide
    · decide
  · constructor
    · intro h; exact absurd h (by decide)
    · decide
    · decide
  · intro n; simp [State.appEntries, State.reset, Table.get]
end Sys2Proof.Machine

namespace Sys2Proof.Machine

/-! ## The event ring's index and the mirrors (O6)

`MirrorsOk` says nothing of the event ring's head, so it also holds of a state (one that no run reaches) whose head stands past the ring. There
an event's words fall among the padding words of a Position Status entry, which the posting of mirrors never writes again. -/

/-- A load about to end, with the event ring's head past the ring: entry 0x803 would lie at offset 0x4818, word 24 of position 0's status. -/
def strayHeadLoad : State :=
  { State.reset with
    pending := [.loadEnd]
    eu := { State.reset.eu with evtHead := 0x803 }
    su := { State.reset.su with part := .loading, load := some .ending } }

/-- The same with every mirror posted, as a load's last step finds them. -/
def strayHead : State := postAll strayHeadLoad (everyMirror strayHeadLoad)

theorem mirrorsShow_everyMirror (s : State) : MirrorsShow (postAll s (everyMirror s)) where
  line n hn i hi := everyMirror_line s n i hn hi
  position p hp i hi := everyMirror_position s p i hp hi
  channel r hr i hi := everyMirror_channel s r i hr hi

theorem mirrorsOk_strayHead : MirrorsOk strayHead where
  shown _ := mirrorsShow_everyMirror strayHeadLoad
  loading _ := rfl
  serving h := absurd h (by decide)

/-- The end of a load without NAILED lines is one event in RUNNING (R176). -/
theorem endLoad_of_noLines (s : State) (h : s.su.lineCount = 0) :
    endLoad s = issue { s with
      su := { s.su with part := .running, load := none }, eu := { s.eu with cause := none, unlogged := 0 } }
      (.loadComplete s.su.restartMark s.su.rejects) := by
  simp [endLoad, nailedLines, h]

/-- The posting of mirrors writes only the first 19 words of a Position Status entry (R65, section 11.6). -/
theorem allMirrorChanges_padding (b s : State) (p i : Nat) (hp : p < 32) (h1 : 19 ≤ i) (h2 : i < 64) :
    ∀ e ∈ allMirrorChanges b s, e.1 ≠ positionStatusOffset p + i := by
  intro e he
  simp only [allMirrorChanges, List.mem_append] at he
  simp only [positionStatusOffset]
  rcases he with (he | he) | he
  · obtain ⟨k, hk, h⟩ := mirrorChanges_offsets b s _ _ _ _ 8 (fun s i => by simp [lineStatusWords]) e he
    simp only [lineStatusOffset] at h
    omega
  · obtain ⟨k, hk, h⟩ := mirrorChanges_offsets b s _ _ _ _ 19 (fun s i => by simp [positionStatusWords, handsetWords]) e he
    simp only [positionStatusOffset] at h
    omega
  · obtain ⟨k, hk, h⟩ := mirrorChanges_offsets b s _ _ _ _ 4 (fun s i => by simp [recorderStatusWords]) e he
    simp only [recorderStatusOffset] at h
    omega

/-- The end of a command leaves the padding words of Position Status as its effects wrote them. -/
theorem settle_latestWord_padding (b s : State) (p i : Nat) (hp : p < 32) (h1 : 19 ≤ i) (h2 : i < 64) :
    latestWord (settle b s) (positionStatusOffset p + i) = latestWord s (positionStatusOffset p + i) := by
  obtain ⟨t, ht⟩ := settle_writes b s
  simp [latestWord_eq, ht, youngest_append, youngest_none _ _ (allMirrorChanges_padding b t p i hp h1 h2), sramAddress]

/-- The state in which the end of that load is taken. -/
def strayHeadTaken : State := { strayHead with pending := [] }

theorem strayHeadTaken_su : strayHeadTaken.su = strayHeadLoad.su := postAll_su strayHeadLoad (everyMirror strayHeadLoad)

theorem strayHeadTaken_eu : strayHeadTaken.eu = strayHeadLoad.eu := postAll_eu strayHeadLoad (everyMirror strayHeadLoad)

theorem strayHeadTaken_held : strayHeadTaken.bi.held = [] :=
  postAll_bi_held strayHeadLoad (everyMirror strayHeadLoad)

theorem loadFinished_strayHeadTaken : loadFinished strayHeadTaken = true := by
  have hleft : strayHeadTaken.bi.loadLeft = 0 := Nat.zero_sub _
  simp [loadFinished, strayHeadTaken_su, hleft, strayHeadLoad]

theorem step_strayHead : step strayHead = .next (settle strayHeadTaken (endLoad strayHeadTaken)) := by
  have hexec : step strayHead = execLoadEnd strayHeadTaken := rfl
  rw [hexec, execLoadEnd, if_pos loadFinished_strayHeadTaken, done_of_nothingHeld _ _ (by simp [endLoad_of_noLines, strayHeadTaken_su,
    strayHeadLoad, State.reset, strayHeadTaken_held])]

/-- The load's end writes LOAD_COMPLETE over word 24 of position 0's status. -/
theorem strayHead_padding :
    latestWord (settle strayHeadTaken (endLoad strayHeadTaken)) (positionStatusOffset 0 + 24) = natWord 16 := by
  rw [settle_latestWord_padding _ _ 0 24 (by decide) (by decide) (by decide),
    endLoad_of_noLines _ (by rw [strayHeadTaken_su]; rfl), strayHeadTaken_su, strayHeadTaken_eu]
  exact issue_eventAt { strayHeadTaken with
    su := { strayHeadLoad.su with part := .running, load := none }, eu := { strayHeadLoad.eu with cause := none, unlogged := 0 } }
    (.loadComplete strayHeadLoad.su.restartMark strayHeadLoad.su.rejects) (by show (0x803 + 256 - 0) % 256 ≤ 254; decide) 0 (by decide)

/-- Refutes O6: `MirrorsOk` does not bound the event ring's head. In `strayHead`, where it holds, the end of a load writes LOAD_COMPLETE over word
24 of position 0's status, which must read 0. -/
theorem not_stepKeepsStatusMirrors : ¬ Obligations.StepKeepsStatusMirrors := by
  unfold Obligations.StepKeepsStatusMirrors
  intro h
  have hok := h _ _ mirrorsOk_strayHead step_strayHead
  have hmirrored : mirrored (settle strayHeadTaken (endLoad strayHeadTaken)) = true := by
    rw [endLoad_of_noLines _ (by rw [strayHeadTaken_su]; rfl), strayHeadTaken_su]
    simp [mirrored, PartState.carries, strayHeadLoad, State.reset]
  have hzero := (hok.shown hmirrored).position 0 (by decide) 24 (by decide)
  rw [strayHead_padding] at hzero
  exact absurd hzero (by
    simp [positionStatusEntry, positionStatusWords, handsetWords, natWord])
end Sys2Proof.Machine

namespace Sys2Proof.Machine

/-! ## What keeps the configuration (O59)

Laws/Configuration.lean says it of the operations on calls; here are the mixer, the memory port, restart, the end of a command, and the
commands. -/

section ConfigurationKept

variable {s₀ s : State}

/-- A state of which no configuration has changed but in the mixer's tables. -/
theorem ConfigKept.of_tables {s t : State} (hlc : t.lc = s.lc) (hhc : t.hc = s.hc) (hc : t.bi.copies = s.bi.copies)
    (hb : ∀ b, (t.bridge b).applied = (s.bridge b).applied ∧ (t.bridge b).configRejected = (s.bridge b).configRejected) : ConfigKept s t where
  line n := by simp [State.line_congr hlc]
  position p := by simp [State.position_congr hhc]
  keys := by rw [hlc]
  index := by rw [hlc]
  bridge := hb
  copies := hc

/-- A state with the same Line Controller, Handset Controller, mixer and copies. -/
theorem ConfigKept.of_blocks {s t : State} (hlc : t.lc = s.lc) (hhc : t.hc = s.hc) (hmx : t.mx = s.mx) (hc : t.bi.copies = s.bi.copies) :
    ConfigKept s t := .of_tables hlc hhc hc fun b => by simp [State.bridge_congr hmx]

/-! ### The mixer -/

/-- Changing every bridge's energies and selected set leaves its applied copy. -/
theorem bridges_mapVals (t : Table BridgeRec) (f : Nat → BridgeRec → BridgeRec)
    (hf : ∀ b r, (f b r).applied = r.applied ∧ (f b r).configRejected = r.configRejected) (b : Nat) :
    (Table.get BridgeRec.cold (Table.mapVals BridgeRec.cold f t) b).applied = (Table.get BridgeRec.cold t b).applied ∧
    (Table.get BridgeRec.cold (Table.mapVals BridgeRec.cold f t) b).configRejected = (Table.get BridgeRec.cold t b).configRejected :=
  Table.get_mapVals BridgeRec.cold BridgeRec.cold f t (fun _ r r' => r'.applied = r.applied ∧ r'.configRejected = r.configRejected)
    (fun _ => ⟨rfl, rfl⟩) hf b

theorem selectTalkers_applied (r : BridgeRec) :
    (selectTalkers r).applied = r.applied ∧ (selectTalkers r).configRejected = r.configRejected := by
  unfold selectTalkers; split <;> exact ⟨rfl, rfl⟩

/-- The bridges as a frame's snapshot shows them: on a selection frame, after the talker selection (R76). -/
def frameBridges (s : State) : Table BridgeRec :=
  if s.frame.toNat % 80 = 0 then Table.mapVals BridgeRec.cold (fun _ r => selectTalkers r) s.mx.bridges else s.mx.bridges

theorem runFrame_bridges (s : State) (inputs : Table Sample) :
    (runFrame s inputs).mx.bridges = Table.mapVals BridgeRec.cold
      (updateEnergies (takeSnapshot { s with mx := { s.mx with bridges := frameBridges s } }) inputs) (frameBridges s) := rfl

theorem frameBridges_applied (s : State) (b : Nat) :
    (Table.get BridgeRec.cold (frameBridges s) b).applied = (s.bridge b).applied ∧
    (Table.get BridgeRec.cold (frameBridges s) b).configRejected = (s.bridge b).configRejected := by
  unfold frameBridges
  split
  · exact bridges_mapVals _ _ (fun _ r => selectTalkers_applied r) b
  · exact ⟨rfl, rfl⟩

theorem configKept_runFrame (inputs : Table Sample) (h : ConfigKept s₀ s) : ConfigKept s₀ (runFrame s inputs) := by
  refine h.trans (.of_tables rfl rfl rfl fun b => ?_)
  have henergy := bridges_mapVals (frameBridges s)
    (updateEnergies (takeSnapshot { s with mx := { s.mx with bridges := frameBridges s } }) inputs) (fun _ _ => ⟨rfl, rfl⟩) b
  rw [← runFrame_bridges] at henergy
  have hselect := frameBridges_applied s b
  exact ⟨henergy.1.trans hselect.1, henergy.2.trans hselect.2⟩

theorem configKept_stopMixer (h : ConfigKept s₀ s) : ConfigKept s₀ (stopMixer s) :=
  h.trans (.of_tables rfl rfl rfl fun b => bridges_mapVals s.mx.bridges
    (fun _ r => { r with energy := [], selected := [] }) (fun _ _ => ⟨rfl, rfl⟩) b)

theorem configKept_enterLoading (h : ConfigKept s₀ s) : ConfigKept s₀ (enterLoading s) :=
  (configKept_stopMixer h).trans (.of_blocks rfl rfl rfl rfl)

/-! ### The memory port -/

theorem configKept_takeTurn (u : PortUser) (h : ConfigKept s₀ s) : ConfigKept s₀ (takeTurn s u) := by
  refine h.trans ?_
  cases u <;> simp only [takeTurn, access, askPort, drainOne, fetchWord, readUpdateWord, readLoadWord] <;> (repeat' split) <;>
    exact .of_blocks rfl rfl rfl rfl

theorem configKept_endUpdateIfDone (h : ConfigKept s₀ s) : ConfigKept s₀ (endUpdateIfDone s) :=
  h.trans (.of_blocks (by simp) (by simp) (by simp) (by simp))

theorem configKept_askPort (h : ConfigKept s₀ s) : ConfigKept s₀ (askPort s) := h.trans (.of_blocks rfl rfl rfl rfl)

/-- The turns of a command at the port, no processor access being held: they keep the configuration and hold none. -/
theorem configKept_takeTurns (u : PortUser) (k : Nat) (hh : s.bi.held = []) (h : ConfigKept s₀ s) :
    ConfigKept s₀ (takeTurns u k s) ∧ (takeTurns u k s).bi.held = [] := by
  induction k generalizing s with
  | zero => exact ⟨h, hh⟩
  | succ k ih =>
    unfold takeTurns
    split
    · split
      · rw [servedTurn_of_nothingHeld _ _ hh]
        exact ih (by simp [hh]) (configKept_endUpdateIfDone (configKept_takeTurn _ h))
      · exact ⟨h, hh⟩
    · exact ⟨h, hh⟩

theorem configKept_finishReads (u : PortUser) (hh : s.bi.held = []) (h : ConfigKept s₀ s) :
    ConfigKept s₀ (finishReads s u) ∧ (finishReads s u).bi.held = [] := by
  unfold finishReads
  split
  · exact configKept_takeTurns u 256 hh (configKept_askPort h)
  · exact ⟨h, hh⟩

theorem configKept_finishFetch (c : Nat → Bool) (hh : s.bi.held = []) (h : ConfigKept s₀ s) :
    ConfigKept s₀ (finishFetch s c) ∧ (finishFetch s c).bi.held = [] := by
  unfold finishFetch
  split
  · exact configKept_finishReads .fetch hh h
  · exact ⟨h, hh⟩

theorem configKept_drainInTurn (hh : s.bi.held = []) (h : ConfigKept s₀ s) :
    ConfigKept s₀ (drainInTurn s) ∧ (drainInTurn s).bi.held = [] := by
  unfold drainInTurn
  split
  · exact ⟨h, hh⟩
  · have hturns : ∀ (l : List PortUser) (a : State), a.bi.held = [] → ConfigKept s₀ a →
        ConfigKept s₀ (l.foldl takeTurn a) ∧ (l.foldl takeTurn a).bi.held = [] := by
      intro l
      induction l with
      | nil => exact fun a ha hk => ⟨hk, ha⟩
      | cons v l ih => exact fun a ha hk => ih _ (by simp [ha]) (configKept_takeTurn v hk)
    have hall := hturns ((askPort s).bi.asked.takeWhile (· ≠ .queue)) (askPort s) (by simp [hh]) (configKept_askPort h)
    exact ⟨configKept_takeTurn _ hall.1, (takeTurn_held _ _).trans hall.2⟩

/-! ### Restart (R177) -/

theorem configKept_tearCircuit (c : Nat) (h : ConfigKept s₀ s) : ConfigKept s₀ (tearCircuit s c) := by
  unfold tearCircuit
  split
  · simp [h]
  · simp [h]
  · simp [h]

theorem configKept_tearLine (n : Nat) (h : ConfigKept s₀ s) : ConfigKept s₀ (tearLine s n) :=
  configKept_dropCallCopy n (configKept_modLine n _ (fun _ => ⟨rfl, rfl⟩) h)

theorem configKept_clearCalls (h : ConfigKept s₀ s) : ConfigKept s₀ (clearCalls s) := by
  refine h.trans ⟨fun _ => ⟨rfl, rfl⟩, fun p => ?_, rfl, rfl, fun _ => ⟨rfl, rfl⟩, rfl⟩
  exact Table.get_mapVals PosRec.cold PosRec.cold (fun _ r => { r with dim := false, reach := 0 }) s.hc.positions
    (fun _ r r' => r'.applied = r.applied ∧ r'.configRejected = r.configRejected) (fun _ => ⟨rfl, rfl⟩) (fun _ _ => ⟨rfl, rfl⟩) p

theorem configKept_restart (h : ConfigKept s₀ s) : ConfigKept s₀ (restart s) := by
  have hcircuits := configKept_foldl tearCircuit (Table.keys s.cc.circuits) (fun _ c h => configKept_tearCircuit c h) h
  have hcalls : ConfigKept s₀ (tearCalls s) := configKept_foldl tearLine _ (fun _ n h => configKept_tearLine n h) hcircuits
  have hports : ConfigKept s₀ (tearPorts (clearCalls (tearCalls s))) :=
    configKept_foldl tearPort _ (fun _ q h => by simp [tearPort, h]) (configKept_clearCalls hcalls)
  exact hports.trans (.of_tables rfl rfl rfl fun _ => ⟨rfl, rfl⟩)

/-! ### Requests, the load's end, reads -/

theorem configKept_completeRequest (ws : List Word) (r : Result) (d : Word × Word) (h : ConfigKept s₀ s) :
    ConfigKept s₀ (completeRequest s ws r d) := h.trans (.of_blocks (by simp) (by simp) (by simp) (by simp))

theorem configKept_takeRequest (code : Nat) (names : Names) (own : State → List Word → State × Result) (detail : State → Word × Word)
    (hown : ∀ ws, ConfigKept s₀ (own s ws).1) (h : ConfigKept s₀ s) : ConfigKept s₀ (takeRequest s code names own detail) := by
  unfold takeRequest
  repeat' split
  · exact configKept_completeRequest _ _ _ h
  · exact configKept_completeRequest _ _ _ (configKept_postMirrors s (hown _))
  · exact h
  · exact h

theorem configKept_endLoad (h : ConfigKept s₀ s) : ConfigKept s₀ (endLoad s) := by
  have hseized := configKept_foldl seizeLoaded (nailedLines s) (fun a n ha => configKept_postMirrors a (configKept_seizeNailed n .load .load ha)) h
  exact configKept_issue _ (hseized.trans (.of_blocks rfl rfl rfl rfl))

theorem configKept_takeRead (a : Nat) (be : ByteEnables) (h : ConfigKept s₀ s) : ConfigKept s₀ (takeRead s a be) := by
  refine h.trans ?_
  unfold takeRead readSideEffect readEffect
  dsimp only
  repeat' split
  all_goals exact .of_blocks rfl rfl rfl rfl

theorem takeRead_held (s : State) (a : Nat) (be : ByteEnables) : (takeRead s a be).bi.held = s.bi.held := by
  unfold takeRead readSideEffect readEffect
  dsimp only
  repeat' split
  all_goals rfl

/-! ### The end of a command -/

/-- The end of a command with no access held keeps the configuration. -/
theorem ConfigKept.done {b u t : State} (h : ConfigKept s u) (hh : u.bi.held = []) (ht : Machine.done b u = .next t) : ConfigKept s t := by
  rw [done_of_nothingHeld b u hh] at ht
  cases ht
  exact h.trans (.of_blocks (by simp) (by simp) (by simp) (by simp))

theorem ConfigKept.doneQuietly {u t : State} (h : ConfigKept s u) (hh : u.bi.held = []) (ht : Machine.doneQuietly u = .next t) :
    ConfigKept s t := by
  rw [doneQuietly_of_nothingHeld u hh] at ht
  cases ht
  exact h.trans (.of_blocks (by simp) (by simp) (by simp) (by simp))

/-! ### The commands -/

/-- A command whose work keeps the configuration, on a state with no access held. -/
theorem ConfigKept.worked {b u t : State} (hh : s.bi.held = []) (h : ConfigKept s u) (hk : Kept s u) (ht : Machine.done b u = .next t) :
    ConfigKept s t := h.done (hk.held.trans hh) ht

theorem ConfigKept.workedQuietly {u t : State} (hh : s.bi.held = []) (h : ConfigKept s u) (hk : Kept s u)
    (ht : Machine.doneQuietly u = .next t) : ConfigKept s t := h.doneQuietly (hk.held.trans hh) ht

theorem configKept_requestTaken {t : State} (code : Nat) (names : Names) (own : State → List Word → State × Result)
    (detail : State → Word × Word) (hown : ∀ u ws, ConfigKept s u → ConfigKept s (own u ws).1) (hkept : ∀ u ws, Kept u (own u ws).1)
    (hh : s.bi.held = []) (ht : requestTaken s code names own detail = .next t) : ConfigKept s t := by
  obtain ⟨hfetch, hheld⟩ := configKept_finishFetch (· = code) hh (.refl s)
  exact (configKept_takeRequest code names own detail (fun ws => hown _ ws hfetch) hfetch).done
    ((kept_takeRequest code names own detail (hkept _) (.rfl' _)).held.trans hheld) ht

theorem configKept_whenLinkActive {t : State} (f : State → State) (hf : ConfigKept s (f s)) (hk : Kept s (f s)) (hh : s.bi.held = [])
    (ht : Machine.done s (whenLinkActive s f) = .next t) : ConfigKept s t := by
  unfold whenLinkActive at ht
  split at ht
  · exact hf.worked hh hk ht
  · exact ConfigKept.worked hh (.refl s) (.rfl' s) ht

/-- An expiry that is due works; else nothing changes. -/
theorem configKept_whenDue {t u : State} (c : Bool) (hu : ConfigKept s u) (hk : Kept s u) (hh : s.bi.held = [])
    (ht : Machine.done s (if c then u else s) = .next t) : ConfigKept s t := by
  split at ht
  · exact hu.worked hh hk ht
  · exact ConfigKept.worked hh (.refl s) (.rfl' s) ht

theorem configKept_apertureRead {t : State} (off : Nat) (be : ByteEnables) (hh : s.bi.held = [])
    (ht : apertureRead s off be = .next t) : ConfigKept s t := by
  unfold apertureRead processorAccess at ht
  split at ht
  · cases ht
  · split at ht
    · cases ht
      exact .of_blocks rfl rfl rfl rfl
    · exact (configKept_takeRead _ be (.refl s)).done ((takeRead_held _ _ _).trans hh) ht

end ConfigurationKept

end Sys2Proof.Machine

namespace Sys2Proof.Machine

/-- A command that does not configure keeps the configuration, by its own work's lemma. -/
theorem exec_configKept (i : Instr) (s t : State) (hi : mayConfigure i = false) (hh : s.bi.held = []) (ht : exec i s = .next t) :
    ConfigKept s t := by
  cases i with
  | recoverInput =>
    change execRecoverInput s = _ at ht
    unfold execRecoverInput at ht
    split at ht
    · exact (configKept_restart (.refl s)).workedQuietly hh (kept_restart (.rfl' s)) ht
    · exact ConfigKept.workedQuietly hh (.refl s) (.rfl' s) ht
  | frameStart inputs =>
    have hframe : ConfigKept s { s with frame := s.frame + 1#48 } := .of_blocks rfl rfl rfl rfl
    change Machine.doneQuietly _ = _ at ht
    split at ht
    · exact (configKept_runFrame inputs hframe).doneQuietly hh ht
    · refine ConfigKept.doneQuietly (hframe.trans ?_) ?_ ht
      · exact .of_tables rfl rfl rfl fun _ => ⟨rfl, rfl⟩
      · exact hh
  | requestFetch =>
    have hw : ConfigKept s (fetchIfIdle s) ∧ Kept s (fetchIfIdle s) := by
      unfold fetchIfIdle beginTake
      repeat' split
      all_goals simp [ConfigKept.refl, Kept.rfl']
    exact hw.1.worked hh hw.2 ht
  | restart =>
    obtain ⟨hfetch, hheld⟩ := configKept_finishFetch (· = 0x72) hh (.refl s)
    change Machine.doneQuietly _ = _ at ht
    split at ht
    · exact (configKept_restart hfetch).doneQuietly ((kept_restart (.rfl' _)).held.trans hheld) ht
    · exact hfetch.doneQuietly hheld ht
  | badCode =>
    obtain ⟨hfetch, hheld⟩ := configKept_finishFetch (fun code => !requestCodes.contains code) hh (.refl s)
    change Machine.done _ (takeBadCode _) = _ at ht
    unfold takeBadCode at ht
    repeat' split at ht
    · exact hfetch.done hheld ht
    · exact (configKept_completeRequest _ _ _ hfetch).done ((completeRequest_bi_held _ _ _ _).trans hheld) ht
    · exact hfetch.done hheld ht
  | restartDrainEnd =>
    change execRestartDrainEnd s = _ at ht
    unfold execRestartDrainEnd at ht
    split at ht
    · exact (configKept_enterLoading (.refl s)).doneQuietly hh ht
    · exact ConfigKept.workedQuietly hh (.refl s) (.rfl' s) ht
  | loadEnd =>
    change execLoadEnd s = _ at ht
    unfold execLoadEnd at ht
    split at ht
    · exact (configKept_endLoad (.refl s)).worked hh (by simp [Kept.rfl']) ht
    · exact ConfigKept.worked hh (.refl s) (.rfl' s) ht
  | pwqEntryWrite =>
    obtain ⟨hturn, hheld⟩ := configKept_drainInTurn hh (.refl s)
    exact hturn.doneQuietly hheld ht
  | measurementUpdateStart =>
    have hw : ConfigKept s (startUpdate s) ∧ (startUpdate s).bi.held = [] := by
      unfold startUpdate
      split
      · exact ⟨.of_blocks rfl rfl rfl rfl, hh⟩
      · exact ⟨.refl s, hh⟩
    change Machine.doneQuietly _ = _ at ht
    split at ht
    · exact hw.1.doneQuietly hw.2 ht
    · exact ConfigKept.workedQuietly hh (.refl s) (.rfl' s) ht
  | measurementReadDone =>
    obtain ⟨hread, hheld⟩ := configKept_finishReads .meter hh (.refl s)
    have hw : ConfigKept s (placeWriteBacks (finishReads s .meter)) ∧ (placeWriteBacks (finishReads s .meter)).bi.held = [] := by
      unfold placeWriteBacks
      repeat' split
      · exact ⟨by simp [hread], by simp [hheld]⟩
      · exact ⟨hread, hheld⟩
      · exact ⟨hread, hheld⟩
    exact hw.1.done hw.2 ht
  | frameCountHighRead be => exact configKept_apertureRead _ be hh ht
  | frameCountLowRead be => exact configKept_apertureRead _ be hh ht
  | summaryRead be => exact configKept_apertureRead _ be hh ht
  | fltHeadRead be => exact configKept_apertureRead _ be hh ht
  | lostCountRead be => exact configKept_apertureRead _ be hh ht
  | shortageRead be => exact configKept_apertureRead _ be hh ht
  | nop => exact configKept_requestTaken _ _ ownNop _ (fun _ ws h => configKept_ownNop ws h) (fun u ws => kept_ownNop ws (.rfl' u)) hh ht
  | select => exact configKept_requestTaken _ _ ownSelect _ (fun _ ws h => configKept_ownSelect ws h) (fun u ws => kept_ownSelect ws (.rfl' u)) hh ht
  | answer => exact configKept_requestTaken _ _ ownAnswer _ (fun _ ws h => configKept_ownAnswer ws h) (fun u ws => kept_ownAnswer ws (.rfl' u)) hh ht
  | privacy => exact configKept_requestTaken _ _ ownPrivacy _ (fun _ ws h => configKept_ownPrivacy ws h) (fun u ws => kept_ownPrivacy ws (.rfl' u)) hh ht
  | forceRelease => exact configKept_requestTaken _ _ ownForceRelease _ (fun _ ws h => configKept_ownForceRelease ws h) (fun u ws => kept_ownForceRelease ws (.rfl' u)) hh ht
  | lineService => exact configKept_requestTaken _ _ ownLineService _ (fun _ ws h => configKept_ownLineService ws h) (fun u ws => kept_ownLineService ws (.rfl' u)) hh ht
  | signal => exact configKept_requestTaken _ _ ownSignal _ (fun _ ws h => configKept_ownSignal ws h) (fun u ws => kept_ownSignal ws (.rfl' u)) hh ht
  | circuitReset => exact configKept_requestTaken _ _ ownCircuitReset _ (fun _ ws h => configKept_ownCircuitReset ws h) (fun u ws => kept_ownCircuitReset ws (.rfl' u)) hh ht
  | release => exact configKept_requestTaken _ _ ownRelease _ (fun _ ws h => configKept_ownRelease ws h) (fun u ws => kept_ownRelease ws (.rfl' u)) hh ht
  | hold => exact configKept_requestTaken _ _ ownHold _ (fun _ ws h => configKept_ownHold ws h) (fun u ws => kept_ownHold ws (.rfl' u)) hh ht
  | retrieve => exact configKept_requestTaken _ _ ownRetrieve _ (fun _ ws h => configKept_ownRetrieve ws h) (fun u ws => kept_ownRetrieve ws (.rfl' u)) hh ht
  | join => exact configKept_requestTaken _ _ ownJoin _ (fun _ ws h => configKept_ownJoin ws h) (fun u ws => kept_ownJoin ws (.rfl' u)) hh ht
  | intercomCall => exact configKept_requestTaken _ _ ownIntercomCall _ (fun _ ws h => configKept_ownIntercomCall ws h) (fun u ws => kept_ownIntercomCall ws (.rfl' u)) hh ht
  | intercomAnswer => exact configKept_requestTaken _ _ ownIntercomAnswer _ (fun _ ws h => configKept_ownIntercomAnswer ws h) (fun u ws => kept_ownIntercomAnswer ws (.rfl' u)) hh ht
  | speakerSet => exact configKept_requestTaken _ _ ownSpeakerSet _ (fun _ ws h => configKept_ownSpeakerSet ws h) (fun u ws => kept_ownSpeakerSet ws (.rfl' u)) hh ht
  | speakerVolume => exact configKept_requestTaken _ _ ownSpeakerVolume _ (fun _ ws h => configKept_ownSpeakerVolume ws h) (fun u ws => kept_ownSpeakerVolume ws (.rfl' u)) hh ht
  | ptt => exact configKept_requestTaken _ _ ownPtt _ (fun _ ws h => configKept_ownPtt ws h) (fun u ws => kept_ownPtt ws (.rfl' u)) hh ht
  | measureMode => exact configKept_requestTaken _ _ ownMeasureMode _ (fun _ ws h => configKept_ownMeasureMode ws h) (fun u ws => kept_ownMeasureMode ws (.rfl' u)) hh ht
  | setAttention => exact configKept_requestTaken _ _ ownSetAttention _ (fun _ ws h => configKept_ownSetAttention ws h) (fun u ws => kept_ownSetAttention ws (.rfl' u)) hh ht
  | quiesce => exact configKept_requestTaken _ _ ownQuiesce _ (fun _ ws h => configKept_ownQuiesce ws h) (fun u ws => kept_ownQuiesce ws (.rfl' u)) hh ht
  | resume => exact configKept_requestTaken _ _ ownResume _ (fun _ ws h => configKept_ownResume ws h) (fun u ws => kept_ownResume ws (.rfl' u)) hh ht
  | seizeAck c => exact configKept_whenLinkActive (seizeAckOn · c) (configKept_seizeAckOn c (.refl s)) (kept_seizeAckOn c (.rfl' s)) hh ht
  | ringDetect c => exact configKept_whenLinkActive (ringDetectOn · c) (configKept_ringDetectOn c (.refl s)) (kept_ringDetectOn c (.rfl' s)) hh ht
  | farAnswer c => exact configKept_whenLinkActive (farAnswerOn · c) (configKept_farAnswerOn c (.refl s)) (kept_farAnswerOn c (.rfl' s)) hh ht
  | farClear c => exact configKept_whenLinkActive (farClearOn · c) (configKept_farClearOn c (.refl s)) (kept_farClearOn c (.rfl' s)) hh ht
  | circuitDown c => exact (configKept_circuitDownOn c (.refl s)).worked hh (by simp [Kept.rfl']) ht
  | circuitUp c => exact (configKept_circuitUpOn c (.refl s)).worked hh (by simp [Kept.rfl']) ht
  | resetDone c => exact (configKept_resetDoneOn c (.refl s)).worked hh (by simp [Kept.rfl']) ht
  | seize => exact (configKept_sendEnds .seize (.refl s)).worked hh (by simp [Kept.rfl']) ht
  | ringOn => exact (configKept_sendEnds .ringOn (.refl s)).worked hh (by simp [Kept.rfl']) ht
  | ringOff => exact (configKept_sendEnds .ringOff (.refl s)).worked hh (by simp [Kept.rfl']) ht
  | releaseMessage => exact (configKept_sendEnds .release (.refl s)).worked hh (by simp [Kept.rfl']) ht
  | reset => exact (configKept_sendEnds .reset (.refl s)).worked hh (by simp [Kept.rfl']) ht
  | cadenceOn n => exact configKept_whenDue _ (configKept_cadence n _ _ _ (.refl s)) (by simp [Kept.rfl']) hh ht
  | cadenceOff n => exact configKept_whenDue _ (configKept_cadence n _ _ _ (.refl s)) (by simp [Kept.rfl']) hh ht
  | burst n => exact configKept_whenDue _ (configKept_burstExpires n (.refl s)) (by simp [Kept.rfl']) hh ht
  | ackWait n => exact configKept_whenDue _ (configKept_ackWaitExpires n (.refl s)) (by simp [Kept.rfl']) hh ht
  | noAnswer n => exact configKept_whenDue _ (configKept_noAnswerExpires n (.refl s)) (by simp [Kept.rfl']) hh ht
  | ringIn n => exact configKept_whenDue _ (configKept_ringInExpires n (.refl s)) (by simp [Kept.rfl']) hh ht
  | guard n => exact configKept_whenDue _ (configKept_guardExpires n (.refl s)) (by simp [Kept.rfl']) hh ht
  | intercomTimer c =>
    exact configKept_whenDue _ (configKept_complete s (configKept_endIntercom c .noAnswer (.refl s))) (by simp [Kept.rfl']) hh ht
  | _ => exact absurd hi (by simp [mayConfigure])

/-- Settles O59: of the commands that do not configure, each one's work keeps the configuration, and so does the end of a command. -/
theorem onlyWritesAndLoadsConfigure : Obligations.OnlyWritesAndLoadsConfigure := by
  unfold Obligations.OnlyWritesAndLoadsConfigure
  intro i s t hi hh ht
  have hk := exec_configKept i s t hi hh ht
  exact ⟨fun n => (hk.line n).1, fun p => (hk.position p).1, fun b => (hk.bridge b).1, hk.keys, hk.index, hk.copies⟩

end Sys2Proof.Machine

namespace Sys2Proof.Machine

/-! ## Unread events stay where they are (R154, R155)

Work on calls may issue events, but only while the ring has room, so an event that has not been read is never overwritten. -/

section EventsKept

/-- An event depends on the queue and the SRAM alone. -/
theorem EventAt.congr {s t : State} {h : Nat} {e : Event} {f : Frame} (k : EventAt s h e f) (hb : t.bi = s.bi) (hm : t.mem = s.mem) :
    EventAt t h e f := by
  intro i hi
  rw [← k i hi]
  simp [latestWord, sramAddress, hb, hm]

/-- An event at another entry leaves it (R155). -/
theorem EventAt.issue {s : State} {h : Nat} {e : Event} {f : Frame} (k : EventAt s h e f) (hne : h ≠ s.eu.evtHead) (e' : Event) :
    EventAt (Machine.issue s e') h e f := by
  intro i hi
  rw [← k i hi]
  unfold Machine.issue
  dsimp only
  split
  · rw [latestWord_postAll]
    · rfl
    · intro x hx heq
      have hb := writesAt_offsets _ _ x hx
      rw [eventWords_length] at hb
      simp only [eventOffset] at hb heq
      omega
  · rfl

/-- Mirror words lie elsewhere (R137, R156). -/
theorem EventAt.postMirrors {s : State} {h : Nat} {e : Event} {f : Frame} (k : EventAt s h e f) (hh : h < 256) (b : State) :
    EventAt (Machine.postMirrors b s) h e f := by
  intro i hi
  rw [← k i hi]
  refine postMirrors_latestWord b s _ fun hm => ?_
  simp only [IsMirror, eventOffset] at hm
  omega

/-- An event of the ring that has been issued and not read. -/
structure UnreadEvent (s : State) (h : Nat) (e : Event) (f : Frame) : Prop where
  entry  : h < 256
  head   : s.eu.evtHead < 256
  read   : s.eu.evtRead < 256
  unread : (h + 256 - s.eu.evtRead) % 256 < s.eu.unread
  event  : EventAt s h e f

/-- No unread event is lost from one state to the other. -/
def EventsKept (s t : State) : Prop := ∀ h e f, UnreadEvent s h e f → UnreadEvent t h e f

theorem EventsKept.refl (s : State) : EventsKept s s := fun _ _ _ k => k

theorem EventsKept.trans {a b c : State} (h : EventsKept a b) (k : EventsKept b c) : EventsKept a c := fun x e f u => k x e f (h x e f u)

/-- The event ring's indices, the queue and the SRAM are all that matters. -/
theorem EventsKept.congr {s₀ s t : State} (hh : t.eu.evtHead = s.eu.evtHead) (hr : t.eu.evtRead = s.eu.evtRead) (hb : t.bi = s.bi)
    (hm : t.mem = s.mem) (h : EventsKept s₀ s) : EventsKept s₀ t := by
  intro x e f k
  obtain ⟨k1, k2, k3, k4, k5⟩ := h x e f k
  exact ⟨k1, hh ▸ k2, hr ▸ k3, by simpa [EU.unread, hh, hr] using k4, k5.congr hb hm⟩

theorem eventsKept_foldl {α : Type} {s₀ s : State} (f : State → α → State) (l : List α)
    (hf : ∀ s a, EventsKept s₀ s → EventsKept s₀ (f s a)) (h : EventsKept s₀ s) : EventsKept s₀ (l.foldl f s) := by
  induction l generalizing s with
  | nil => exact h
  | cons a l ih => exact ih (hf s a h)

/-- An event that has room is unread right after its issue (R155). -/
theorem issue_unreadEvent (s : State) (e : Event) (hh : s.eu.evtHead < 256) (hr : s.eu.evtRead < 256) (hu : s.eu.unread ≤ 254) :
    UnreadEvent (issue s e) s.eu.evtHead e s.frame := by
  have hhead := issue_evtHead s e hu
  have hread : (issue s e).eu.evtRead = s.eu.evtRead := issue_eu_evtRead s e
  refine ⟨hh, by rw [hhead]; omega, by rw [hread]; exact hr, ?_, issue_eventAt s e hu⟩
  simp only [EU.unread, hhead, hread] at hu ⊢
  omega

variable {s₀ s : State}

@[simp] theorem eventsKept_issue (e : Event) (h : EventsKept s₀ s) : EventsKept s₀ (issue s e) := by
  intro x e' f k
  obtain ⟨hx, hh, hr, hu, he⟩ := h x e' f k
  by_cases hroom : s.eu.unread ≤ 254
  · have hhead := issue_evtHead s e hroom
    have hread : (issue s e).eu.evtRead = s.eu.evtRead := issue_eu_evtRead s e
    refine ⟨hx, by rw [hhead]; omega, by rw [hread]; exact hr, ?_, he.issue ?_ e⟩
    · simp only [EU.unread, hhead, hread] at hu hroom ⊢
      omega
    · rintro rfl
      simp only [EU.unread] at hu
      omega
  · have hsame : (issue s e).eu.evtHead = s.eu.evtHead ∧ (issue s e).bi = s.bi := by simp [issue, hroom]
    have hread : (issue s e).eu.evtRead = s.eu.evtRead := issue_eu_evtRead s e
    exact ⟨hx, hsame.1 ▸ hh, hread ▸ hr, by simpa [EU.unread, hsame.1, hread] using hu, he.congr hsame.2 (by simp)⟩

@[simp] theorem eventsKept_postMirrors (b : State) (h : EventsKept s₀ s) : EventsKept s₀ (postMirrors b s) := fun x e f k => by
  obtain ⟨hx, hh, hr, hu, he⟩ := h x e f k
  exact ⟨hx, by simpa using hh, by simpa using hr, by simpa using hu, he.postMirrors hx b⟩

theorem eventsKept_congr {s₀ s t : State} (hh : t.eu.evtHead = s.eu.evtHead) (hr : t.eu.evtRead = s.eu.evtRead) (hb : t.bi = s.bi)
    (hm : t.mem = s.mem) : EventsKept s₀ t ↔ EventsKept s₀ s := ⟨.congr hh.symm hr.symm hb.symm hm.symm, .congr hh hr hb hm⟩

@[simp] theorem eventsKept_recorderOccurrence (h : EventsKept s₀ s) : EventsKept s₀ (recorderOccurrence s) :=
  .congr (by simp) (by simp) (by simp) (by simp) h

/-! ### Recording -/

@[simp] theorem eventsKept_setChannel (n : Nat) (r : ChannelRec) : EventsKept s₀ (s.setChannel n r) ↔ EventsKept s₀ s :=
  eventsKept_congr rfl rfl rfl rfl
@[simp] theorem eventsKept_setPort (n : Nat) (r : PortRec) : EventsKept s₀ (s.setPort n r) ↔ EventsKept s₀ s := eventsKept_congr rfl rfl rfl rfl
@[simp] theorem eventsKept_setFreeList (l : List Nat) : EventsKept s₀ (s.setFreeList l) ↔ EventsKept s₀ s := eventsKept_congr rfl rfl rfl rfl
@[simp] theorem eventsKept_setWaitQueue (l : List Nat) : EventsKept s₀ (s.setWaitQueue l) ↔ EventsKept s₀ s := eventsKept_congr rfl rfl rfl rfl
@[simp] theorem eventsKept_setOrder (l : List Nat) : EventsKept s₀ (s.setOrder l) ↔ EventsKept s₀ s := eventsKept_congr rfl rfl rfl rfl

@[simp] theorem eventsKept_enterClass (q : Nat) (l : Level) (h : EventsKept s₀ s) : EventsKept s₀ (enterClass s q l) := by
  unfold enterClass; split <;> simp (maxDischargeDepth := 9) [*]
@[simp] theorem eventsKept_leaveQueue (q : Nat) (h : EventsKept s₀ s) : EventsKept s₀ (leaveQueue s q) := by
  simp (maxDischargeDepth := 9) [leaveQueue, *]
@[simp] theorem eventsKept_markUnrecorded (q : Nat) (h : EventsKept s₀ s) : EventsKept s₀ (markUnrecorded s q) := by
  unfold markUnrecorded; split <;> simp (maxDischargeDepth := 9) [*]
@[simp] theorem eventsKept_clearUnrecorded (q : Nat) (c : Option Nat) (h : EventsKept s₀ s) : EventsKept s₀ (clearUnrecorded s q c) := by
  unfold clearUnrecorded; split <;> simp (maxDischargeDepth := 9) [*]
@[simp] theorem eventsKept_assignChannel (ch q : Nat) (p : Option Nat) (l : Bool) (h : EventsKept s₀ s) :
    EventsKept s₀ (assignChannel s ch q p l) := by
  simp (maxDischargeDepth := 9) [assignChannel, *]
@[simp] theorem eventsKept_giveFree (q : Nat) (h : EventsKept s₀ s) : EventsKept s₀ (giveFree s q) := by
  unfold giveFree; split <;> simp (maxDischargeDepth := 9) [*]
@[simp] theorem eventsKept_preempt (q v : Nat) (h : EventsKept s₀ s) : EventsKept s₀ (preempt s q v) := by
  unfold preempt; split <;> simp (maxDischargeDepth := 9) [*]
@[simp] theorem eventsKept_obtainChannel (q : Nat) (h : EventsKept s₀ s) : EventsKept s₀ (obtainChannel s q) := by
  unfold obtainChannel; (repeat' split) <;> simp (maxDischargeDepth := 9) [*]
@[simp] theorem eventsKept_releaseChannel (q : Nat) (h : EventsKept s₀ s) : EventsKept s₀ (releaseChannel s q) := by
  unfold releaseChannel; split <;> simp (maxDischargeDepth := 9) [*]
@[simp] theorem eventsKept_passFall (e : Nat × Level) (h : EventsKept s₀ s) : EventsKept s₀ (passFall s e) := by
  unfold passFall; split <;> simp (maxDischargeDepth := 9) [*]
@[simp] theorem eventsKept_passClass (e : Nat × Level) (h : EventsKept s₀ s) : EventsKept s₀ (passClass s e) := by
  unfold passClass; dsimp only; (repeat' split) <;> simp (maxDischargeDepth := 9) [*]
@[simp] theorem eventsKept_passRise (e : Nat × Level) (h : EventsKept s₀ s) : EventsKept s₀ (passRise s e) := by
  unfold passRise; dsimp only; (repeat' split) <;> simp (maxDischargeDepth := 9) [*]
theorem eventsKept_passServe (k : Nat) (h : EventsKept s₀ s) : EventsKept s₀ (passServe k s) := by
  induction k generalizing s with
  | zero => exact h
  | succ k ih => unfold passServe; split <;> simp [*]
@[simp] theorem eventsKept_passPreempt (q : Nat) (h : EventsKept s₀ s) : EventsKept s₀ (passPreempt s q) := by
  unfold passPreempt; (repeat' split) <;> simp (maxDischargeDepth := 9) [*]
theorem eventsKept_recomputePorts (l : List Nat) (h : EventsKept s₀ s) : EventsKept s₀ (recomputePorts s l) := by
  unfold recomputePorts
  refine eventsKept_foldl _ _ (fun s a h => by simp [h]) (eventsKept_passServe _ ?_)
  refine eventsKept_foldl _ _ (fun s a h => by simp [h]) ?_
  refine eventsKept_foldl _ _ (fun s a h => by simp [h]) ?_
  exact eventsKept_foldl _ _ (fun s a h => by simp [h]) h
theorem eventsKept_provideChannel (p : Party) (n : Nat) (h : EventsKept s₀ s) : EventsKept s₀ (provideChannel s p n) := by
  unfold provideChannel; split <;> simp [*]

/-- An unread event is where it was when the command has ended. -/
theorem UnreadEvent.settle {s : State} {h : Nat} {e : Event} {f : Frame} (k : UnreadEvent s h e f) (b : State) : EventAt (settle b s) h e f :=
  k.event.settle k.entry b

end EventsKept

end Sys2Proof.Machine

namespace Sys2Proof.Machine

/-! ## Work on calls: what each shared operation leaves

`CallWork` says what all work on calls leaves; `Work` adds the blocks that an operation may change beside it, and is composed step by step. -/

section WorkRules

/-- Work on calls that keeps unread events and, with the event ring's head in range, changes at most the listed blocks. -/
structure Work (s t : State) (changed : List Block) : Prop where
  call   : CallWork s t
  events : EventsKept s t
  leaves : s.eu.evtHead < 256 → Leaves s t changed

theorem Work.refl (s : State) (xs : List Block) : Work s s xs := ⟨.refl s, .refl s, fun _ => (Leaves.refl s).mono (by simp)⟩

theorem Work.trans {s t u : State} {xs : List Block} (h : Work s t xs) (k : Work t u xs) : Work s u xs :=
  ⟨h.call.trans k.call, h.events.trans k.events, fun he => ((h.leaves he).trans (k.leaves (h.call.words he).1)).mono (by simp)⟩

theorem Work.mono {s t : State} {xs ys : List Block} (h : Work s t xs) (hs : xs ⊆ ys) : Work s t ys :=
  ⟨h.call, h.events, fun he => (h.leaves he).mono hs⟩

/-- One more operation, which changes some of the blocks. -/
theorem Work.step {s t u : State} {xs ys : List Block} (h : Work s t xs) (k : Work t u ys) (hs : ys ⊆ xs := by decide) : Work s u xs :=
  h.trans (k.mono hs)

theorem Work.ite {s t u : State} {xs : List Block} {c : Prop} [Decidable c] (ht : Work s t xs) (hu : Work s u xs) :
    Work s (if c then t else u) xs := by split <;> assumption

theorem Work.foldl {α : Type} {s : State} {xs : List Block} (f : State → α → State) (l : List α) (hf : ∀ s a, Work s (f s a) xs) :
    Work s (l.foldl f s) xs := by
  induction l generalizing s with
  | nil => exact .refl s xs
  | cons a l ih => exact (hf s a).trans ih

theorem Work.head {s t : State} {xs : List Block} (h : Work s t xs) (he : s.eu.evtHead < 256) : t.eu.evtHead < 256 := (h.call.words he).1

/-- A frame for fewer blocks, where those taken off the list are in fact unchanged. -/
theorem Leaves.narrow {s t : State} {xs ys : List Block} (h : Leaves s t xs) (hx : ∀ b ∈ xs, b ∉ ys → Same s t b) : Leaves s t ys :=
  ⟨h.1, fun b hb => if hm : b ∈ xs then hx b hm hb else h.2 b hm⟩

/-- Work is known by what it does to the blocks that work on calls may change. -/
theorem Work.of_call {s t : State} {ys : List Block} (h : CallWork s t) (k : EventsKept s t)
    (hx : ∀ b ∈ [Block.events, .alarms, .lc, .cc, .link, .hc, .ra, .um, .meter], b ∉ ys → Same s t b) : Work s t ys :=
  ⟨h, k, fun he => (h.leaves he).narrow hx⟩

/-- Work that leaves the event ring and the queue. -/
theorem Work.of_records {s t : State} {ys : List Block} (h : CallWork s t) (he : t.eu = s.eu) (hb : t.bi = s.bi)
    (hx : ∀ b ∈ [Block.events, .alarms, .lc, .cc, .link, .hc, .ra, .um, .meter], b ∉ ys → Same s t b) : Work s t ys :=
  .of_call h (.congr (by rw [he]) (by rw [he]) hb h.mem (.refl s)) hx

/-! ### Single records -/

variable (s : State)

theorem work_modLine (n : Nat) (f : LineRec → LineRec) : Work s (modLine s n f) [.lc] := .of_records (by simp [CallWork.refl]) (by simp) (by simp) (by simp [Same])
theorem work_setAlertList (p : Nat) (l : List Nat) : Work s (s.setAlertList p l) [.lc] := .of_records (by simp [CallWork.refl]) (by simp) (by simp) (by simp [Same])
theorem work_modCircuit (c : Nat) (f : CircuitRec → CircuitRec) : Work s (modCircuit s c f) [.cc] :=
  .of_records (by simp [CallWork.refl]) (by simp) (by simp) (by simp [Same])
theorem work_modPath (n : Nat) (f : PathRec → PathRec) : Work s (modPath s n f) [.cc] := .of_records (by simp [CallWork.refl]) (by simp) (by simp) (by simp [Same])
theorem work_setPendingList (l : List Nat) : Work s (s.setPendingList l) [.link] := .of_records (by simp [CallWork.refl]) (by simp) (by simp) (by simp [Same])
theorem work_modHandset (p : Party) (f : HandsetRec → HandsetRec) : Work s (modHandset s p f) [.hc] :=
  .of_records (by simp [CallWork.refl]) (by simp) (by simp) (by simp [Same])
theorem work_setCall (c : Nat) (r : IcmRec) : Work s (s.setCall c r) [.hc] := .of_records (by simp [CallWork.refl]) (by simp) (by simp) (by simp [Same])
theorem work_modPosition (p : Nat) (f : PosRec → PosRec) : Work s (modPosition s p f) [.hc] :=
  .of_records (by simp [CallWork.refl]) (by simp) (by simp) (by simp [Same])
theorem work_setUpdates (l : List UpdateRec) : Work s (s.setUpdates l) [.um] := .of_records (by simp [CallWork.refl]) (by simp) (by simp) (by simp [Same])
theorem work_setContext (n : Nat) (c : Option MeasContext) : Work s (s.setContext n c) [.meter] :=
  .of_records (by simp [CallWork.refl]) (by simp) (by simp) (by simp [Same])

theorem put_none_nil {α : Type} [DecidableEq α] (d : α) (i : Nat) : Table.put d [] i d = [] := by simp [Table.put, Table.erase]

theorem context_of_noContexts {s : State} (h : s.um.contexts = []) (n : Nat) : s.context n = none := by simp [State.context, h, Table.get]

/-- A change of an open context: where there is none, nothing changes. -/
theorem work_modContext (n : Nat) (f : MeasContext → MeasContext) : Work s (modContext s n f) [] := by
  have hrecords : (modContext s n f).eu = s.eu ∧ (modContext s n f).bi = s.bi := by
    unfold modContext
    split <;> simp
  refine .of_records (by simp [CallWork.refl]) hrecords.1 hrecords.2 ?_
  have hmeter : Same s (modContext s n f) .meter := by
    refine ⟨fun h => ?_, fun h => ?_⟩
    · simp [modContext, context_of_noContexts h, h]
    · unfold modContext
      split <;> simp [h]
  cases hc : s.context n <;> simp_all [modContext, Same]

/-- The close of a context: where there is none, nothing changes. -/
theorem work_closeContext (n : Nat) : Work s (s.setContext n none) [] := by
  refine .of_records (by simp [CallWork.refl]) (by simp ) (by simp ) ?_
  have hmeter : Same s (s.setContext n none) .meter := by
    refine ⟨fun h => ?_, fun h => by simp [h]⟩
    simp [State.setContext, h, put_none_nil]
  simpa [Same] using hmeter

theorem work_issue (e : Event) : Work s (issue s e) [.events] :=
  .of_call (by simp [CallWork.refl]) (eventsKept_issue e (.refl s)) (by simp [Same])

theorem work_postMirrors (b : State) : Work s (postMirrors b s) [] :=
  .of_call (by simp [CallWork.refl]) (eventsKept_postMirrors b (.refl s)) (by simp [Same])

/-- The Recording Allocator's operations change its own records, and the events and occurrences of gaps. -/
theorem RecordingOnly.work {s t : State} (h : RecordingOnly s t) (hc : CallWork s t) (hk : EventsKept s t) :
    Work s t [.events, .alarms, .ra] := by
  refine .of_call hc hk ?_
  have hbi := h.bi
  simp only [Prod.mk.injEq] at hbi
  simp [Same, h.lc, h.cc, h.hc, h.um, hbi]

theorem work_recomputePorts (l : List Nat) : Work s (recomputePorts s l) [.events, .alarms, .ra] :=
  (recordingOnly_recomputePorts l (.refl s)).work (by simp [CallWork.refl]) (eventsKept_recomputePorts l (.refl s))

theorem work_provideChannel (p : Party) (n : Nat) : Work s (provideChannel s p n) [.events, .alarms, .ra] :=
  (recordingOnly_provideChannel p n (.refl s)).work (by simp [CallWork.refl]) (eventsKept_provideChannel p n (.refl s))

/-! ### Alerts -/

theorem work_addAlert (p n : Nat) : Work s (addAlert s p n) [.lc] := by
  unfold addAlert
  exact .ite (work_setAlertList s p _) (.refl s _)

theorem work_backfill (p : Nat) (l : Option Nat) : Work s (backfill s p l) [.lc] := by
  unfold backfill
  split
  · exact work_addAlert s p _
  · exact .refl s _

theorem work_removeAlert (p n : Nat) (l : Option Nat) : Work s (removeAlert s p n l) [.lc] := by
  unfold removeAlert
  split
  · exact (work_setAlertList s p _).trans (work_backfill _ p l)
  · exact .refl s _

theorem work_leaveAlerts (n : Nat) : Work s (leaveAlerts s n) [.lc] := .foldl _ _ fun s p => work_removeAlert s p n _

theorem work_enterAlerts (n : Nat) : Work s (enterAlerts s n) [.lc] :=
  .foldl _ _ fun s e => .ite (work_addAlert s e.pos n) (.refl s _)

/-! ### Circuits -/

theorem work_enterIdle (c : Nat) : Work s (enterIdle s c) [.cc] := work_modCircuit s c _

theorem work_renameCircuit (c : Nat) : Work s (renameCircuit s c) [.cc] := by
  unfold renameCircuit
  split
  · exact work_enterIdle s c
  · exact work_enterIdle s c
  · exact .refl s _

theorem work_renameCircuits (cs : List Nat) : Work s (renameCircuits s cs) [.cc] := .foldl _ _ work_renameCircuit

theorem work_refreshMasks (n : Nat) (old new : List Nat) : Work s (refreshMasks s n old new) [.cc] := work_modPath s n _

theorem work_takeCallCopy (n : Nat) : Work s (takeCallCopy s n) [.lc] := work_modLine s n _

theorem work_dropCallCopy (n : Nat) : Work s (dropCallCopy s n) [.lc, .cc] := by
  unfold dropCallCopy
  split
  · exact .refl s _
  · exact (((work_modLine s n _).mono (by decide)).step (work_renameCircuits _ _)).step (work_refreshMasks _ n _ _)

theorem work_relist (c : Nat) : Work s (relist s c) [.link] := by
  obtain ⟨l, hl⟩ := relist_eq s c
  rw [hl]
  exact work_setPendingList s l

theorem work_setDesired (c : Nat) (d : LinkState) : Work s (setDesired s c d) [.cc, .link] :=
  ((work_modCircuit s c _).mono (by decide)).step (work_relist _ c)

theorem work_wantActive (n : Nat) (d : LinkState) : Work s (wantActive s n d) [.cc, .link] := by
  unfold wantActive
  split
  · exact work_setDesired s _ d
  · exact .refl s _

theorem work_finishRelease (c : Nat) : Work s (finishRelease s c) [.cc] := .ite (work_enterIdle s c) (.refl s _)

theorem work_releaseCircuit (c : Nat) (b : Bool) (o : Option Nat) : Work s (releaseCircuit s c b o) [.cc, .link] :=
  (((work_modCircuit s c _).mono (by decide)).step (work_relist _ c)).step (work_finishRelease _ c)

theorem work_seizeAt (n i : Nat) : Work s (seizeAt s n i) [.lc, .cc, .link] := by
  unfold seizeAt
  split
  · exact ((((work_modCircuit s _ _).mono (by decide)).step (work_setDesired _ _ _)).step (work_modPath _ n _)).step (work_modLine _ n _)
  · exact .refl s _

theorem work_clearActive (n : Nat) : Work s (clearActive s n) [.lc] := work_modLine s n _

theorem work_giveUpCircuit (n : Nat) (b : Bool) : Work s (giveUpCircuit s n b) [.lc, .cc, .link] := by
  unfold giveUpCircuit
  split
  · exact ((work_releaseCircuit s _ b none).mono (by decide)).step (work_clearActive _ n)
  · exact .refl s _

theorem work_stopState (n : Nat) : Work s (stopState s n) [.lc] := work_modLine s n _

/-! ### Measurement -/

theorem work_latchContext (n k : Nat) (r : Option Frame) : Work s (latchContext s n k r) [.meter] := work_setContext s n _

theorem work_formUpdate (n : Nat) (ops : Table UpdOp) : Work s (formUpdate s n ops) [.um] := .ite (work_setUpdates s _) (work_setUpdates s _)

theorem work_endMeasurement (n : Nat) : Work s (endMeasurement s n).1 [.um] := by
  unfold endMeasurement
  split
  · exact .refl s _
  · exact (Work.ite (work_formUpdate s n _) (.refl s _)).step (work_closeContext _ n)

theorem work_countRefusal (n : Nat) : Work s (countRefusal s n) [.um] := .ite (work_formUpdate s n _) (.refl s _)

theorem work_countRejectedRing (n : Nat) : Work s (countRejectedRing s n) [.um] := .ite (work_formUpdate s n _) (.refl s _)

/-! ### Lines and handsets -/

theorem work_changeState (n : Nat) (new : LineState) (cause : StateCause) : Work s (changeState s n new cause) [.events, .lc, .cc] := by
  unfold changeState
  dsimp only
  refine .ite (.refl s _) ?_
  exact (((work_modLine s n _).mono (by decide)).step (Work.ite (work_dropCallCopy _ n) (.refl _ _))).step (work_issue _ _)

theorem work_applyModes (n : Nat) : Work s (applyModes s n) [.events, .lc, .cc] := by
  unfold applyModes
  dsimp only
  split
  · exact .ite (work_changeState s n _ _) (.refl s _)
  · exact .ite (work_changeState s n _ _) (.refl s _)
  · exact .refl s _

theorem work_becomeConnected (n : Nat) (cause : StateCause) : Work s (becomeConnected s n cause) [.events, .lc, .cc] :=
  ((work_modContext s n _).mono (by decide)).step (work_changeState _ n _ cause)

theorem work_callEnd (n : Nat) (why : ReleaseCause) : Work s (callEnd s n why) [.events, .lc, .um] :=
  (((work_endMeasurement s n).mono (by decide)).step (work_modLine _ n _)).step (work_issue _ _)

theorem work_enterClearing (n : Nat) (why : ReleaseCause) (cause : StateCause) (b : Bool) :
    Work s (enterClearing s n why cause b) [.events, .lc, .cc, .link, .um] := by
  unfold enterClearing
  dsimp only
  refine Work.step (Work.step (Work.step (t := match (s.line n).active with
    | some c => releaseCircuit s c b (some n)
    | none => s) ?_ (work_callEnd _ n why)) (work_modLine _ n _)) (work_changeState _ n _ cause)
  split
  · exact (work_releaseCircuit s _ b _).mono (by decide)
  · exact .refl s _

theorem work_releaseIfEmpty (n : Nat) : Work s (releaseIfEmpty s n) [.events, .lc, .cc, .link, .um] := by
  unfold releaseIfEmpty
  dsimp only
  refine .ite ?_ (.refl s _)
  split
  · exact (((work_giveUpCircuit s n false).mono (by decide)).step (work_callEnd _ n _)).step (work_changeState _ n _ _)
  · exact work_enterClearing s n _ _ _
  · exact work_enterClearing s n _ _ _
  · exact .refl s _

theorem work_refreshDim (p : Nat) : Work s (refreshDim s p) [.hc] := work_modPosition s p _

theorem work_completePorts (b : State) : Work s (completePorts b s) [.events, .alarms, .hc, .ra] := by
  unfold completePorts
  split
  · exact .refl s _
  · exact ((work_recomputePorts s _).mono (by decide)).step (Work.foldl _ _ work_refreshDim)

theorem work_complete (b : State) : Work s (complete b s) [.events, .alarms, .hc, .ra] :=
  (work_completePorts s b).step (work_postMirrors _ b)

theorem work_hcDrop (p : Party) (n : Nat) : Work s (hcDrop s p n) [.hc] := work_modHandset s p _

theorem work_dropAll (n : Nat) : Work s (dropAll s n) [.lc, .hc] := by
  unfold dropAll
  exact ((Work.foldl _ _ fun s (e : Participant) => work_hcDrop s e.party n).mono (by decide)).step (work_modLine _ n _)

theorem work_dropAllComplete (n : Nat) : Work s (dropAllComplete s n) [.events, .alarms, .lc, .hc, .ra] :=
  ((work_dropAll s n).mono (by decide)).step (work_complete _ s)

theorem work_setMode (n : Nat) (p : Party) (m : Mode) : Work s (setMode s n p m) [.events, .lc, .cc] :=
  ((work_modLine s n _).mono (by decide)).step (work_applyModes _ n)

theorem work_leaveLine (p : Party) (n : Nat) : Work s (leaveLine s p n) [.events, .lc, .cc, .link, .hc, .um] := by
  unfold leaveLine
  refine .ite ?_ ((work_hcDrop s p n).mono (by decide))
  exact ((((work_hcDrop s p n).mono (by decide)).step (work_modLine _ n _)).step (work_applyModes _ n)).step (work_releaseIfEmpty _ n)

theorem work_recomputeReach : Work s (recomputeReach s) [.hc] := .foldl _ _ fun s p => work_modPosition s p _

theorem work_endIntercom (c : Nat) (why : IcmEnd) : Work s (endIntercom s c why) [.events, .hc] := by
  unfold endIntercom
  dsimp only
  exact ((((Work.foldl _ _ fun s (p : Party) => work_modHandset s p _).mono (by decide)).step (work_setCall _ c _)).step
    (work_issue _ _)).step (work_recomputeReach _)

theorem work_seizeLine (n i : Nat) (cause : StateCause) : Work s (seizeLine s n i cause) [.events, .lc, .cc, .link, .meter] :=
  ((((work_takeCallCopy s n).mono (by decide)).step (work_latchContext _ n 1 none)).step (work_seizeAt _ n i)).step
    (work_changeState _ n _ cause)

theorem work_seizeNailed (n : Nat) (found notFound : StateCause) :
    Work s (seizeNailed s n found notFound) [.events, .lc, .cc, .link, .meter] := by
  unfold seizeNailed
  split
  · exact work_seizeLine s n _ _
  · exact (work_changeState s n _ _).mono (by decide)

/-! ### A command of work on calls -/

/-- A command whose work is on calls, with no access held: its next state and what it leaves. -/
theorem Work.done {s u : State} {xs : List Block} (h : Work s u xs) (hh : s.bi.held = []) (he : s.eu.evtHead < 256) (b : State) :
    Machine.done b u = .next (settle b u) ∧ Leaves s (settle b u) xs := by
  refine ⟨done_of_nothingHeld b u (h.call.held.trans hh), ?_⟩
  have := (h.leaves he).trans (leaves_settle b u)
  simpa using this

end WorkRules

end Sys2Proof.Machine

namespace Sys2Proof.Machine

/-! ## What the shared operations do to lines, circuits, contexts and events -/

section Effects

variable (s : State)

@[simp] theorem postMirrors_line (b : State) (m : Nat) : (postMirrors b s).line m = s.line m := rfl
@[simp] theorem postMirrors_circuit (b : State) (m : Nat) : (postMirrors b s).circuit m = s.circuit m := rfl
@[simp] theorem postMirrors_path (b : State) (m : Nat) : (postMirrors b s).path m = s.path m := rfl
@[simp] theorem postMirrors_alertList (b : State) (m : Nat) : (postMirrors b s).alertList m = s.alertList m := rfl
@[simp] theorem postMirrors_handset (b : State) (p : Party) : (postMirrors b s).handset p = s.handset p := rfl
@[simp] theorem postMirrors_call (b : State) (m : Nat) : (postMirrors b s).call m = s.call m := rfl
@[simp] theorem postMirrors_position (b : State) (m : Nat) : (postMirrors b s).position m = s.position m := rfl
@[simp] theorem postMirrors_context (b : State) (m : Nat) : (postMirrors b s).context m = s.context m := rfl

/-! ### Naming and masks (R28, R29) -/

/-- A circuit as naming has it: IDLE or UNINSTALLED by whether a group names it; in any other state it is left (R28). -/
def CircuitRec.renamed (r : CircuitRec) (named : Bool) : CircuitRec :=
  if r.state = .idle ∨ r.state = .uninstalled then { r with state := if named then .idle else .uninstalled } else r

theorem CircuitRec.renamed_renamed (r : CircuitRec) (b : Bool) : (r.renamed b).renamed b = r.renamed b := by
  unfold CircuitRec.renamed
  cases b <;> by_cases h : r.state = .idle ∨ r.state = .uninstalled <;> simp [h]

@[simp] theorem CircuitRec.renamed_owner (r : CircuitRec) (b : Bool) : (r.renamed b).owner = r.owner := by
  unfold CircuitRec.renamed; split <;> rfl
@[simp] theorem CircuitRec.renamed_desired (r : CircuitRec) (b : Bool) : (r.renamed b).desired = r.desired := by
  unfold CircuitRec.renamed; split <;> rfl
@[simp] theorem CircuitRec.renamed_lastSent (r : CircuitRec) (b : Bool) : (r.renamed b).lastSent = r.lastSent := by
  unfold CircuitRec.renamed; split <;> rfl
@[simp] theorem CircuitRec.renamed_farHeld (r : CircuitRec) (b : Bool) : (r.renamed b).farHeld = r.farHeld := by
  unfold CircuitRec.renamed; split <;> rfl

/-- Naming moves a circuit only between IDLE and UNINSTALLED, so no path group's availability (R29). -/
theorem CircuitRec.renamed_down (r : CircuitRec) (b : Bool) :
    ((r.renamed b).state = .down ↔ r.state = .down) ∧ ((r.renamed b).state = .resetting ↔ r.state = .resetting) := by
  unfold CircuitRec.renamed
  split
  · next h => cases b <;> rcases h with h | h <;> simp [h]
  · exact ⟨Iff.rfl, Iff.rfl⟩

theorem CircuitRec.renamed_of_busy (r : CircuitRec) (b : Bool) (h1 : r.state ≠ .idle) (h2 : r.state ≠ .uninstalled) : r.renamed b = r := by
  simp [CircuitRec.renamed, h1, h2]

/-- Naming depends on the lines and their count alone. -/
theorem isNamed_congr {s t : State} (hl : t.lc.lines = s.lc.lines) (hc : t.su.lineCount = s.su.lineCount) (c : Nat) :
    isNamed t c = isNamed s c := by simp [isNamed, hl, hc]

@[simp] theorem enterIdle_lc (c : Nat) : (enterIdle s c).lc = s.lc := rfl
@[simp] theorem enterIdle_su (c : Nat) : (enterIdle s c).su = s.su := rfl
@[simp] theorem enterIdle_pendingList (c : Nat) : (enterIdle s c).cc.pendingList = s.cc.pendingList := rfl
@[simp] theorem enterIdle_sending (c : Nat) : (enterIdle s c).cc.sending = s.cc.sending := rfl
@[simp] theorem enterIdle_line (c m : Nat) : (enterIdle s c).line m = s.line m := rfl
@[simp] theorem enterIdle_path (c m : Nat) : (enterIdle s c).path m = s.path m := rfl
theorem enterIdle_circuit (c d : Nat) : (enterIdle s c).circuit d =
    if d = c then { s.circuit c with state := if isNamed s c then .idle else .uninstalled } else s.circuit d := by simp [enterIdle]

theorem renameCircuit_circuit (c d : Nat) :
    (renameCircuit s c).circuit d = if d = c then (s.circuit c).renamed (isNamed s c) else s.circuit d := by
  unfold renameCircuit
  split
  · next h => simp [h, enterIdle_circuit, CircuitRec.renamed]
  · next h => simp [h, enterIdle_circuit, CircuitRec.renamed]
  · next hidle huninstalled =>
    rw [CircuitRec.renamed_of_busy _ _ huninstalled hidle]
    split
    · next hd => rw [hd]
    · rfl

@[simp] theorem renameCircuit_lc (c : Nat) : (renameCircuit s c).lc = s.lc := by unfold renameCircuit; split <;> rfl
@[simp] theorem renameCircuit_su (c : Nat) : (renameCircuit s c).su = s.su := by unfold renameCircuit; split <;> rfl
@[simp] theorem renameCircuit_paths (c : Nat) : (renameCircuit s c).cc.paths = s.cc.paths := by unfold renameCircuit; split <;> rfl

/-- Renaming a list of circuits keeps a field that renaming each keeps. -/
theorem foldl_keeps {α β : Type} (g : State → β) (f : State → α → State) (hf : ∀ s a, g (f s a) = g s) (l : List α) (s : State) :
    g (l.foldl f s) = g s := by
  induction l generalizing s with
  | nil => rfl
  | cons a l ih => exact (ih _).trans (hf s a)

@[simp] theorem renameCircuits_lc (cs : List Nat) : (renameCircuits s cs).lc = s.lc := foldl_keeps State.lc _ renameCircuit_lc cs s
@[simp] theorem renameCircuits_su (cs : List Nat) : (renameCircuits s cs).su = s.su := foldl_keeps State.su _ renameCircuit_su cs s
@[simp] theorem renameCircuits_paths (cs : List Nat) : (renameCircuits s cs).cc.paths = s.cc.paths :=
  foldl_keeps (fun s => s.cc.paths) _ renameCircuit_paths cs s
@[simp] theorem renameCircuits_line (cs : List Nat) (m : Nat) : (renameCircuits s cs).line m = s.line m :=
  State.line_congr (renameCircuits_lc s cs) m
@[simp] theorem renameCircuits_path (cs : List Nat) (m : Nat) : (renameCircuits s cs).path m = s.path m := by simp [State.path]

theorem renameCircuits_circuit (cs : List Nat) (d : Nat) :
    (renameCircuits s cs).circuit d = if d ∈ cs then (s.circuit d).renamed (isNamed s d) else s.circuit d := by
  induction cs generalizing s with
  | nil => simp [renameCircuits]
  | cons c cs ih =>
    have hnamed : isNamed (renameCircuit s c) d = isNamed s d := isNamed_congr (by simp) (by simp) d
    have hstep : renameCircuits s (c :: cs) = renameCircuits (renameCircuit s c) cs := rfl
    rw [hstep, ih, hnamed, renameCircuit_circuit]
    by_cases hd : d = c
    · subst hd
      simp [CircuitRec.renamed_renamed]
    · simp [hd]

@[simp] theorem refreshMasks_lc (n : Nat) (old new : List Nat) : (refreshMasks s n old new).lc = s.lc := rfl
@[simp] theorem refreshMasks_circuit (n : Nat) (old new : List Nat) (c : Nat) : (refreshMasks s n old new).circuit c = s.circuit c := rfl
@[simp] theorem refreshMasks_line (n : Nat) (old new : List Nat) (m : Nat) : (refreshMasks s n old new).line m = s.line m := rfl
theorem refreshMasks_path_ne (n : Nat) (old new : List Nat) (m : Nat) (h : m ≠ n) : (refreshMasks s n old new).path m = s.path m := by
  simp [refreshMasks, h]
theorem refreshMasks_lastUsed (n : Nat) (old new : List Nat) : ((refreshMasks s n old new).path n).lastUsed = (s.path n).lastUsed := by
  simp [refreshMasks]

/-! ### Call copies (R3) -/

/-- Without a call copy, dropping it does nothing. -/
theorem dropCallCopy_of_none (n : Nat) (h : (s.line n).callCopy = none) : dropCallCopy s n = s := by simp [dropCallCopy, h]

/-- The end of a call copy renames circuits of its group (R3, R28). -/
theorem dropCallCopy_circuit (n c : Nat) : ∃ b : Bool,
    (dropCallCopy s n).circuit c = s.circuit c ∨ (dropCallCopy s n).circuit c = (s.circuit c).renamed b := by
  unfold dropCallCopy
  split
  · exact ⟨true, .inl rfl⟩
  · next cc _ =>
    refine ⟨isNamed (modLine s n fun l => { l with callCopy := none }) c, ?_⟩
    simp only [refreshMasks_circuit, renameCircuits_circuit]
    split
    · exact .inr rfl
    · exact .inl rfl

theorem CallsOnly.refl (s : State) : CallsOnly s s := ⟨_, _, rfl⟩

theorem callsOnly_modLine (n : Nat) (f : LineRec → LineRec) : CallsOnly s (modLine s n f) := ⟨_, _, rfl⟩

theorem callsOnly_dropCallCopy (n : Nat) : CallsOnly s (dropCallCopy s n) := by
  obtain ⟨x, hx | ⟨-, hx⟩⟩ := dropCallCopy_eq s n
  · exact ⟨_, x, hx⟩
  · rw [hx]
    exact .refl s

/-- What work on lines and circuits alone leaves. -/
theorem CallsOnly.rest {s t : State} (h : CallsOnly s t) :
    t.bi = s.bi ∧ t.eu = s.eu ∧ t.mem = s.mem ∧ t.frame = s.frame ∧ t.hc = s.hc ∧ t.ra = s.ra ∧ t.um = s.um ∧ t.mx = s.mx ∧ t.su = s.su ∧
    t.re = s.re ∧ t.pending = s.pending ∧ t.lc.keys = s.lc.keys ∧ t.lc.appIndex = s.lc.appIndex ∧ t.lc.alerts = s.lc.alerts := by
  obtain ⟨l, x, rfl⟩ := h
  simp

/-! ### Changes of state (R8, R19) -/

/-- A line's record after a change to another state (R3, R8, R19, R25). -/
def LineRec.changedTo (l : LineRec) (new : LineState) (now : Frame) : LineRec :=
  { l with
    state := new, lastChange := now, pendingAdmin := l.pendingAdmin && decide (l.state ≠ .clearing)
    setter := if new.keepsSetter then l.setter else none, callCopy := if new.atRest then none else l.callCopy }

/-- A line in the state asked for does not change, and nothing is reported (R19). -/
theorem changeState_of_eq (n : Nat) (new : LineState) (cause : StateCause) (h : (s.line n).state = new) : changeState s n new cause = s := by
  simp [changeState, h]

/-- A change of state: the record, the call copy's end at rest, then the event (R3, R8, R19). -/
theorem changeState_eq (n : Nat) (new : LineState) (cause : StateCause) (h : (s.line n).state ≠ new) :
    ∃ u, changeState s n new cause = issue u (.lineState n (s.line n).state new cause) ∧ CallsOnly s u ∧
      (∀ m, u.line m = if m = n then (s.line n).changedTo new s.frame else s.line m) ∧
      (∀ c, ∃ b : Bool, u.circuit c = s.circuit c ∨ (new.atRest = true ∧ u.circuit c = (s.circuit c).renamed b)) ∧
      (new.atRest = false ∨ (s.line n).callCopy = none → u.cc = s.cc) := by
  let v := modLine s n fun l =>
      { l with state := new, lastChange := s.frame, pendingAdmin := l.pendingAdmin && decide ((s.line n).state ≠ .clearing),
               setter := if new.keepsSetter then l.setter else none }
  refine ⟨if new.atRest then dropCallCopy v n else v, by simp only [changeState, h, if_false]; rfl, ?_, ?_, ?_, ?_⟩
  · split
    · exact (callsOnly_modLine s n _).trans (callsOnly_dropCallCopy v n)
    · exact callsOnly_modLine s n _
  · intro m
    split
    · next hr =>
      rw [dropCallCopy_line]
      by_cases hm : m = n
      · simp [hm, v, LineRec.changedTo, hr]
      · simp [hm, v]
    · next hr =>
      by_cases hm : m = n
      · simp [hm, v, LineRec.changedTo, hr]
      · simp [hm, v]
  · intro c
    split
    · next hr =>
      obtain ⟨b, hb⟩ := dropCallCopy_circuit v n c
      exact ⟨b, hb.imp id fun hb => ⟨hr, hb⟩⟩
    · exact ⟨true, .inl rfl⟩
  · rintro (hr | hc)
    · simp [hr, v]
    · rw [dropCallCopy_of_none v n (by simp [v, hc])]
      simp [v]

theorem changeState_line (n : Nat) (new : LineState) (cause : StateCause) (m : Nat) : (changeState s n new cause).line m =
    if m = n ∧ (s.line n).state ≠ new then (s.line n).changedTo new s.frame else s.line m := by
  by_cases h : (s.line n).state = new
  · rw [changeState_of_eq s n new cause h]
    simp [h]
  · obtain ⟨u, hu, -, hline, -⟩ := changeState_eq s n new cause h
    simp [hu, hline, h]

theorem changeState_alerts (n : Nat) (new : LineState) (cause : StateCause) : (changeState s n new cause).lc.alerts = s.lc.alerts := by
  by_cases h : (s.line n).state = new
  · rw [changeState_of_eq s n new cause h]
  · obtain ⟨u, hu, hc, -⟩ := changeState_eq s n new cause h
    simp [hu, hc.rest]

@[simp] theorem changeState_alertList (n : Nat) (new : LineState) (cause : StateCause) (p : Nat) :
    (changeState s n new cause).alertList p = s.alertList p := by simp [State.alertList, changeState_alerts]

theorem changeState_circuit (n : Nat) (new : LineState) (cause : StateCause) (c : Nat) : ∃ b : Bool,
    (changeState s n new cause).circuit c = s.circuit c ∨
    (new.atRest = true ∧ (changeState s n new cause).circuit c = (s.circuit c).renamed b) := by
  by_cases h : (s.line n).state = new
  · rw [changeState_of_eq s n new cause h]
    exact ⟨true, .inl rfl⟩
  · obtain ⟨u, hu, -, -, hc, -⟩ := changeState_eq s n new cause h
    simpa [hu] using hc c

/-- A change into a call, or without a call copy, leaves circuits and paths. -/
theorem changeState_cc (n : Nat) (new : LineState) (cause : StateCause) (hr : new.atRest = false ∨ (s.line n).callCopy = none) :
    (changeState s n new cause).cc = s.cc := by
  by_cases h : (s.line n).state = new
  · rw [changeState_of_eq s n new cause h]
  · obtain ⟨u, hu, -, -, -, hcc⟩ := changeState_eq s n new cause h
    simp [hu, hcc hr]

/-- The fields of a circuit that no naming touches. -/
theorem changeState_circuit_fields (n : Nat) (new : LineState) (cause : StateCause) (c : Nat) :
    ((changeState s n new cause).circuit c).owner = (s.circuit c).owner ∧
    ((changeState s n new cause).circuit c).desired = (s.circuit c).desired ∧
    ((changeState s n new cause).circuit c).lastSent = (s.circuit c).lastSent ∧
    ((changeState s n new cause).circuit c).farHeld = (s.circuit c).farHeld := by
  obtain ⟨b, h | ⟨-, h⟩⟩ := changeState_circuit s n new cause c <;> rw [h] <;> simp

/-- LINE_STATE is reported with a change of state (R19). -/
theorem changeState_event (n : Nat) (new : LineState) (cause : StateCause) (h : (s.line n).state ≠ new) (hu : s.eu.unread ≤ 254) :
    EventAt (changeState s n new cause) s.eu.evtHead (.lineState n (s.line n).state new cause) s.frame ∧
    (changeState s n new cause).eu.evtHead = (s.eu.evtHead + 1) % 256 := by
  obtain ⟨u, he, hc, -⟩ := changeState_eq s n new cause h
  have heu : u.eu = s.eu := hc.rest.2.1
  have hframe : u.frame = s.frame := hc.rest.2.2.2.1
  rw [he, ← heu, ← hframe]
  exact ⟨issue_eventAt u _ (heu ▸ hu), issue_evtHead u _ (heu ▸ hu)⟩

end Effects

end Sys2Proof.Machine

namespace Sys2Proof.Machine

section Effects

variable (s : State)

/-! ### What a change of state leaves -/

theorem changeState_rest (n : Nat) (new : LineState) (cause : StateCause) :
    let t := changeState s n new cause
    t.hc = s.hc ∧ t.ra = s.ra ∧ t.um = s.um ∧ t.mx = s.mx ∧ t.su = s.su ∧ t.frame = s.frame ∧ t.lc.keys = s.lc.keys ∧
      t.lc.appIndex = s.lc.appIndex ∧ t.lc.alerts = s.lc.alerts := by
  by_cases h : (s.line n).state = new
  · simp [changeState_of_eq s n new cause h]
  · obtain ⟨u, hu, hc, -⟩ := changeState_eq s n new cause h
    simp [hu, hc.rest]

@[simp] theorem changeState_hc (n : Nat) (new : LineState) (cause : StateCause) : (changeState s n new cause).hc = s.hc :=
  (changeState_rest s n new cause).1
@[simp] theorem changeState_ra (n : Nat) (new : LineState) (cause : StateCause) : (changeState s n new cause).ra = s.ra :=
  (changeState_rest s n new cause).2.1
@[simp] theorem changeState_um (n : Nat) (new : LineState) (cause : StateCause) : (changeState s n new cause).um = s.um :=
  (changeState_rest s n new cause).2.2.1
@[simp] theorem changeState_su (n : Nat) (new : LineState) (cause : StateCause) : (changeState s n new cause).su = s.su :=
  (changeState_rest s n new cause).2.2.2.2.1
@[simp] theorem changeState_frame (n : Nat) (new : LineState) (cause : StateCause) : (changeState s n new cause).frame = s.frame :=
  (changeState_rest s n new cause).2.2.2.2.2.1
@[simp] theorem changeState_appIndex (n : Nat) (new : LineState) (cause : StateCause) :
    (changeState s n new cause).lc.appIndex = s.lc.appIndex := (changeState_rest s n new cause).2.2.2.2.2.2.2.1
@[simp] theorem changeState_handset (n : Nat) (new : LineState) (cause : StateCause) (p : Party) :
    (changeState s n new cause).handset p = s.handset p := State.handset_congr (by simp) p
@[simp] theorem changeState_context (n : Nat) (new : LineState) (cause : StateCause) (m : Nat) :
    (changeState s n new cause).context m = s.context m := State.context_congr (by simp) m

/-! ### Circuits: desired state, release, seizure (R30 to R35) -/

@[simp] theorem relist_circuit' (c d : Nat) : (relist s c).circuit d = s.circuit d := relist_circuit s c d

theorem CcOnly.rest {s t : State} (h : CcOnly s t) : t.lc = s.lc ∧ t.bi = s.bi ∧ t.eu = s.eu ∧ t.mem = s.mem ∧ t.frame = s.frame ∧
    t.hc = s.hc ∧ t.ra = s.ra ∧ t.um = s.um ∧ t.mx = s.mx ∧ t.su = s.su ∧ t.re = s.re ∧ t.pending = s.pending := by
  obtain ⟨x, rfl⟩ := h
  simp

theorem setDesired_circuit (c : Nat) (d : LinkState) (e : Nat) :
    (setDesired s c d).circuit e = if e = c then { s.circuit c with desired := d } else s.circuit e := by simp [setDesired]

@[simp] theorem setDesired_line (c : Nat) (d : LinkState) (m : Nat) : (setDesired s c d).line m = s.line m :=
  State.line_congr (ccOnly_setDesired s c d).rest.1 m
@[simp] theorem setDesired_path (c : Nat) (d : LinkState) (m : Nat) : (setDesired s c d).path m = s.path m := by
  obtain ⟨l, hl⟩ := setDesired_eq s c d
  simp [hl]

/-- The end of a release changes nothing of the circuit but its state (R35). -/
theorem finishRelease_circuit (c d : Nat) : (finishRelease s c).circuit d = s.circuit d ∨
    (d = c ∧ (s.circuit c).owner = none ∧
      (finishRelease s c).circuit c = { s.circuit c with state := if isNamed s c then .idle else .uninstalled }) := by
  unfold finishRelease
  dsimp only
  split
  · next h =>
    rw [enterIdle_circuit]
    split
    · next hd => exact .inr ⟨hd, h.2.1, by simp [enterIdle_circuit]⟩
    · exact .inl rfl
  · exact .inl rfl

/-- A circuit's record once its release has begun (R35). -/
def CircuitRec.releasing (r : CircuitRec) (byFarClear : Bool) (owner : Option Nat) : CircuitRec :=
  { r with
    lastSent := if r.farHeld && !byFarClear then .seized else r.lastSent, desired := .idle, farHeld := false, state := .releasing
    owner := owner }

theorem releaseCircuit_eq (c : Nat) (b : Bool) (o : Option Nat) :
    releaseCircuit s c b o = finishRelease (relist (s.setCircuit c ((s.circuit c).releasing b o)) c) c := rfl

theorem releaseCircuit_circuit_owned (c n : Nat) (b : Bool) (d : Nat) :
    (releaseCircuit s c b (some n)).circuit d = if d = c then (s.circuit c).releasing b (some n) else s.circuit d := by
  rw [releaseCircuit_eq, finishRelease_owned _ c n (by simp [CircuitRec.releasing])]
  simp

theorem releaseCircuit_circuit_ne (c : Nat) (b : Bool) (o : Option Nat) (d : Nat) (h : d ≠ c) :
    (releaseCircuit s c b o).circuit d = s.circuit d := by
  rw [releaseCircuit_eq]
  rcases finishRelease_circuit (relist (s.setCircuit c ((s.circuit c).releasing b o)) c) c d with hd | ⟨hd, -⟩
  · rw [hd]
    simp [h]
  · exact absurd hd h

/-- What becomes of a circuit that is given up: RELEASING, or free at once (R35). -/
theorem releaseCircuit_circuit_unowned (c : Nat) (b : Bool) : ∃ st, (st = CircuitState.releasing ∨ st = .idle ∨ st = .uninstalled) ∧
    (releaseCircuit s c b none).circuit c = { (s.circuit c).releasing b none with state := st } := by
  rw [releaseCircuit_eq]
  rcases finishRelease_circuit (relist (s.setCircuit c ((s.circuit c).releasing b none)) c) c c with hd | ⟨-, -, hd⟩
  · exact ⟨.releasing, .inl rfl, by rw [hd]; simp [CircuitRec.releasing]⟩
  · refine ⟨if isNamed (relist (s.setCircuit c ((s.circuit c).releasing b none)) c) c then .idle else .uninstalled, ?_, by rw [hd]; simp⟩
    split
    · exact .inr (.inl rfl)
    · exact .inr (.inr rfl)

@[simp] theorem releaseCircuit_line (c : Nat) (b : Bool) (o : Option Nat) (m : Nat) : (releaseCircuit s c b o).line m = s.line m :=
  State.line_congr (ccOnly_releaseCircuit s c b o).rest.1 m
@[simp] theorem releaseCircuit_bi (c : Nat) (b : Bool) (o : Option Nat) : (releaseCircuit s c b o).bi = s.bi :=
  (ccOnly_releaseCircuit s c b o).rest.2.1
@[simp] theorem releaseCircuit_um (c : Nat) (b : Bool) (o : Option Nat) : (releaseCircuit s c b o).um = s.um :=
  (ccOnly_releaseCircuit s c b o).rest.2.2.2.2.2.2.2.1

/-! ### Contexts (R115 to R119) -/

/-- Only the open contexts differ. -/
def ContextsOnly (s t : State) : Prop := ∃ c, t = { s with um := { s.um with contexts := c } }

theorem contextsOnly_modContext (n : Nat) (f : MeasContext → MeasContext) : ContextsOnly s (modContext s n f) := by
  unfold modContext
  split
  · exact ⟨_, rfl⟩
  · exact ⟨s.um.contexts, rfl⟩

theorem ContextsOnly.rest {s t : State} (h : ContextsOnly s t) : t.lc = s.lc ∧ t.bi = s.bi ∧ t.eu = s.eu ∧ t.mem = s.mem ∧
    t.frame = s.frame ∧ t.hc = s.hc ∧ t.ra = s.ra ∧ t.cc = s.cc ∧ t.mx = s.mx ∧ t.su = s.su ∧ t.um.updates = s.um.updates ∧
    t.um.enable = s.um.enable ∧ t.um.format = s.um.format := by
  obtain ⟨x, rfl⟩ := h
  simp

theorem modContext_context (n : Nat) (f : MeasContext → MeasContext) (m : Nat) :
    (modContext s n f).context m = if m = n then (s.context n).map f else s.context m := by
  unfold modContext
  split
  · next c hc =>
    by_cases hm : m = n <;> simp [hm, hc]
  · next hc =>
    by_cases hm : m = n <;> simp [hm, hc]

@[simp] theorem modContext_lc (n : Nat) (f : MeasContext → MeasContext) : (modContext s n f).lc = s.lc := (contextsOnly_modContext s n f).rest.1
@[simp] theorem modContext_bi (n : Nat) (f : MeasContext → MeasContext) : (modContext s n f).bi = s.bi := (contextsOnly_modContext s n f).rest.2.1
@[simp] theorem modContext_eu (n : Nat) (f : MeasContext → MeasContext) : (modContext s n f).eu = s.eu :=
  (contextsOnly_modContext s n f).rest.2.2.1
@[simp] theorem modContext_mem (n : Nat) (f : MeasContext → MeasContext) : (modContext s n f).mem = s.mem :=
  (contextsOnly_modContext s n f).rest.2.2.2.1
@[simp] theorem modContext_frame (n : Nat) (f : MeasContext → MeasContext) : (modContext s n f).frame = s.frame :=
  (contextsOnly_modContext s n f).rest.2.2.2.2.1
@[simp] theorem modContext_hc (n : Nat) (f : MeasContext → MeasContext) : (modContext s n f).hc = s.hc :=
  (contextsOnly_modContext s n f).rest.2.2.2.2.2.1
@[simp] theorem modContext_ra (n : Nat) (f : MeasContext → MeasContext) : (modContext s n f).ra = s.ra :=
  (contextsOnly_modContext s n f).rest.2.2.2.2.2.2.1
@[simp] theorem modContext_cc (n : Nat) (f : MeasContext → MeasContext) : (modContext s n f).cc = s.cc :=
  (contextsOnly_modContext s n f).rest.2.2.2.2.2.2.2.1
@[simp] theorem modContext_su (n : Nat) (f : MeasContext → MeasContext) : (modContext s n f).su = s.su :=
  (contextsOnly_modContext s n f).rest.2.2.2.2.2.2.2.2.2.1
@[simp] theorem modContext_updates (n : Nat) (f : MeasContext → MeasContext) : (modContext s n f).um.updates = s.um.updates :=
  (contextsOnly_modContext s n f).rest.2.2.2.2.2.2.2.2.2.2.1
@[simp] theorem modContext_enable (n : Nat) (f : MeasContext → MeasContext) : (modContext s n f).um.enable = s.um.enable :=
  (contextsOnly_modContext s n f).rest.2.2.2.2.2.2.2.2.2.2.2.1
@[simp] theorem modContext_format (n : Nat) (f : MeasContext → MeasContext) : (modContext s n f).um.format = s.um.format :=
  (contextsOnly_modContext s n f).rest.2.2.2.2.2.2.2.2.2.2.2.2
@[simp] theorem modContext_line (n : Nat) (f : MeasContext → MeasContext) (m : Nat) : (modContext s n f).line m = s.line m :=
  State.line_congr (by simp) m
@[simp] theorem modContext_circuit (n : Nat) (f : MeasContext → MeasContext) (m : Nat) : (modContext s n f).circuit m = s.circuit m :=
  State.circuit_congr (by simp) m
@[simp] theorem modContext_path (n : Nat) (f : MeasContext → MeasContext) (m : Nat) : (modContext s n f).path m = s.path m :=
  State.path_congr (by simp) m
@[simp] theorem modContext_alertList (n : Nat) (f : MeasContext → MeasContext) (m : Nat) : (modContext s n f).alertList m = s.alertList m :=
  State.alertList_congr (by simp) m
@[simp] theorem modContext_handset (n : Nat) (f : MeasContext → MeasContext) (p : Party) : (modContext s n f).handset p = s.handset p :=
  State.handset_congr (by simp) p

/-- The end of a command moves only unrecorded intervals (R118). -/
theorem followUnrecorded_context (m n : Nat) : ∃ (o : MeasContext → Option Frame) (k : MeasContext → Nat), (followUnrecorded s m).context n =
    (s.context n).map fun x => { x with unrecOpen := o x, unrecFrames := k x } := by
  unfold followUnrecorded
  rw [modContext_context]
  split
  · next hm =>
    subst hm
    split
    · exact ⟨fun x => some (x.unrecOpen.getD s.frame), fun x => x.unrecFrames, rfl⟩
    · refine ⟨fun x => none, fun x => (x.closeUnrecorded s.frame).unrecFrames, ?_⟩
      congr 1
      funext x
      cases hx : x.unrecOpen with
      | none =>
        have hclose : x.closeUnrecorded s.frame = x := by simp [MeasContext.closeUnrecorded, hx]
        simp only [hclose]
        rw [← hx]
      | some f => simp [MeasContext.closeUnrecorded, hx]
  · exact ⟨fun x => x.unrecOpen, fun x => x.unrecFrames, by simp⟩

theorem followUnrecordeds_context (l : List Nat) (n : Nat) : ∃ (o : MeasContext → Option Frame) (k : MeasContext → Nat), (l.foldl followUnrecorded s).context n =
    (s.context n).map fun x => { x with unrecOpen := o x, unrecFrames := k x } := by
  induction l generalizing s with
  | nil => exact ⟨fun x => x.unrecOpen, fun x => x.unrecFrames, by simp⟩
  | cons m l ih =>
    obtain ⟨o, k, h⟩ := ih (followUnrecorded s m)
    obtain ⟨o', k', h'⟩ := followUnrecorded_context s m n
    exact ⟨fun x => o { x with unrecOpen := o' x, unrecFrames := k' x }, fun x => k { x with unrecOpen := o' x, unrecFrames := k' x }, by
      simp [h, h', Function.comp_def]⟩

theorem endUpdateIfDone_context (n : Nat) : (endUpdateIfDone s).context n = s.context n := by simp [State.context]

theorem settle_context (b : State) (n : Nat) : ∃ (o : MeasContext → Option Frame) (k : MeasContext → Nat), (settle b s).context n =
    (s.context n).map fun x => { x with unrecOpen := o x, unrecFrames := k x } := by
  obtain ⟨o, k, h⟩ := followUnrecordeds_context (startSending (lookAgain s)) (Table.keys (startSending (lookAgain s)).um.contexts) n
  refine ⟨o, k, ?_⟩
  have hcontext : (settle b s).context n = (followAllUnrecorded (startSending (lookAgain s))).context n := endUpdateIfDone_context _ n
  have hstart : (startSending (lookAgain s)).context n = s.context n := State.context_congr (by simp) n
  rw [hcontext, followAllUnrecorded, h, hstart]

theorem settle_context_none (b : State) (n : Nat) (h : s.context n = none) : (settle b s).context n = none := by
  obtain ⟨o, k, hk⟩ := settle_context s b n
  simp [hk, h]

/-! ### The end of a call (R119) -/

theorem formUpdate_eq (n : Nat) (ops : Table UpdOp) : ∃ us, formUpdate s n ops = s.setUpdates us := by
  unfold formUpdate
  split
  · exact ⟨_, rfl⟩
  · exact ⟨_, rfl⟩

/-- The update list after an update depends on the list alone. -/
theorem formUpdate_updates_congr {s t : State} (h : t.um.updates = s.um.updates) (n : Nat) (ops : Table UpdOp) :
    (formUpdate t n ops).um.updates = (formUpdate s n ops).um.updates := by
  unfold formUpdate
  rw [h]
  split <;> rfl

theorem finish_enabled (c : MeasContext) (now : Frame) : (c.finish now).enabled = c.enabled := by
  unfold MeasContext.finish MeasContext.closeUnrecorded MeasContext.closeSegment MeasContext.closeRing
  repeat' split
  all_goals rfl

/-- The end of a measurement closes the context and forms its update, when it is enabled (R119, R120). -/
theorem endMeasurement_eq (n : Nat) : ∃ us c, (endMeasurement s n).1 = { s with um := { s.um with contexts := c, updates := us } } ∧
    us = updatesAfter s n id ∧ (endMeasurement s n).1.context n = none := by
  unfold endMeasurement updatesAfter
  cases hc : s.context n with
  | none => exact ⟨s.um.updates, s.um.contexts, rfl, rfl, hc⟩
  | some c =>
    simp only [finish_enabled, id]
    split
    · obtain ⟨us, hus⟩ := formUpdate_eq s n (callEndOps (c.finish s.frame) s.frame)
      refine ⟨us, Table.put none s.um.contexts n none, ?_, ?_, ?_⟩
      · simp [hus, State.setContext, State.setUpdates]
      · rw [hus]
        rfl
      · simp
    · exact ⟨s.um.updates, Table.put none s.um.contexts n none, rfl, rfl, by simp⟩

/-- A line's record after the end of its call (R36). -/
def LineRec.callEnded (l : LineRec) : LineRec :=
  { l with signalTimer := none, stateTimer := none, pathSwitching := false, switchFrom := none, ringBurst := false }

/-- The end of a call: the measurement, the record, then LINE_RELEASED (R36, R119). -/
theorem callEnd_eq (n : Nat) (why : ReleaseCause) : ∃ us c d,
    callEnd s n why = issue (State.setLine { s with um := { s.um with contexts := c, updates := us } } n (s.line n).callEnded)
      (.lineReleased n why d) ∧ us = updatesAfter s n id ∧ Table.get none c n = none := by
  obtain ⟨us, c, he, hus, hc⟩ := endMeasurement_eq s n
  refine ⟨us, c, (endMeasurement s n).2, ?_, hus, ?_⟩
  · unfold callEnd
    dsimp only
    rw [he]
    rfl
  · rw [he] at hc
    exact hc

@[simp] theorem callEnd_line (n : Nat) (why : ReleaseCause) (m : Nat) :
    (callEnd s n why).line m = if m = n then (s.line n).callEnded else s.line m := by
  obtain ⟨us, c, d, h, -, -⟩ := callEnd_eq s n why
  rw [h, issue_line, State.setLine_line]
  rfl
theorem callEnd_context (n : Nat) (why : ReleaseCause) : (callEnd s n why).context n = none := by
  obtain ⟨us, c, d, h, -, hc⟩ := callEnd_eq s n why
  rw [h, issue_context, State.setLine_context]
  exact hc
theorem callEnd_updates (n : Nat) (why : ReleaseCause) : (callEnd s n why).um.updates = updatesAfter s n id := by
  obtain ⟨us, c, d, h, hus, -⟩ := callEnd_eq s n why
  rw [h, issue_um, State.setLine_um]
  exact hus
@[simp] theorem callEnd_cc (n : Nat) (why : ReleaseCause) : (callEnd s n why).cc = s.cc := by
  obtain ⟨us, c, d, h, -, -⟩ := callEnd_eq s n why
  rw [h, issue_cc, State.setLine_cc]
@[simp] theorem callEnd_hc (n : Nat) (why : ReleaseCause) : (callEnd s n why).hc = s.hc := by
  obtain ⟨us, c, d, h, -, -⟩ := callEnd_eq s n why
  rw [h, issue_hc, State.setLine_hc]
@[simp] theorem callEnd_ra (n : Nat) (why : ReleaseCause) : (callEnd s n why).ra = s.ra := by
  obtain ⟨us, c, d, h, -, -⟩ := callEnd_eq s n why
  rw [h, issue_ra, State.setLine_ra]
@[simp] theorem callEnd_frame (n : Nat) (why : ReleaseCause) : (callEnd s n why).frame = s.frame := by
  obtain ⟨us, c, d, h, -, -⟩ := callEnd_eq s n why
  rw [h, issue_frame, State.setLine_frame]
@[simp] theorem callEnd_su (n : Nat) (why : ReleaseCause) : (callEnd s n why).su = s.su := by
  obtain ⟨us, c, d, h, -, -⟩ := callEnd_eq s n why
  rw [h, issue_su, State.setLine_su]
@[simp] theorem callEnd_alertList (n : Nat) (why : ReleaseCause) (p : Nat) : (callEnd s n why).alertList p = s.alertList p := by
  obtain ⟨us, c, d, h, -, -⟩ := callEnd_eq s n why
  rw [h, issue_alertList, State.setLine_alertList]
  rfl
@[simp] theorem callEnd_circuit (n : Nat) (why : ReleaseCause) (m : Nat) : (callEnd s n why).circuit m = s.circuit m :=
  State.circuit_congr (callEnd_cc s n why) m
@[simp] theorem callEnd_path (n : Nat) (why : ReleaseCause) (m : Nat) : (callEnd s n why).path m = s.path m :=
  State.path_congr (callEnd_cc s n why) m
@[simp] theorem callEnd_handset (n : Nat) (why : ReleaseCause) (p : Party) : (callEnd s n why).handset p = s.handset p :=
  State.handset_congr (callEnd_hc s n why) p

/-- LINE_RELEASED is reported with the end of a call (R119). -/
theorem callEnd_event (n : Nat) (why : ReleaseCause) (hu : s.eu.unread ≤ 254) :
    (∃ d, EventAt (callEnd s n why) s.eu.evtHead (.lineReleased n why d) s.frame) ∧
    (callEnd s n why).eu.evtHead = (s.eu.evtHead + 1) % 256 ∧ (callEnd s n why).eu.evtRead = s.eu.evtRead := by
  obtain ⟨us, c, d, h, -, -⟩ := callEnd_eq s n why
  rw [h]
  exact ⟨⟨d, issue_eventAt _ _ hu⟩, issue_evtHead _ _ hu, issue_eu_evtRead _ _⟩

/-- The updates after a call's end look at the context and the update list alone. -/
theorem updatesAfter_congr {s t : State} (n : Nat) (f : MeasContext → MeasContext) (hc : t.context n = s.context n)
    (hu : t.um.updates = s.um.updates) (hf : t.frame = s.frame) : updatesAfter t n f = updatesAfter s n f := by
  unfold updatesAfter
  rw [hc, hf]
  split
  · split
    · exact formUpdate_updates_congr hu n _
    · exact hu
  · exact hu

/-- The updates after the end of a call whose context was changed first, but for the mark that enables it. -/
theorem updatesAfter_modContext {s t : State} (n : Nat) (f : MeasContext → MeasContext) (hc : t.context n = (s.context n).map f)
    (hf : ∀ x, (f x).enabled = x.enabled) (hu : t.um.updates = s.um.updates) (hfr : t.frame = s.frame) :
    updatesAfter t n id = updatesAfter s n f := by
  unfold updatesAfter
  rw [hc, hfr]
  cases s.context n with
  | none => exact hu
  | some c =>
    simp only [Option.map_some, hf, id]
    split
    · exact formUpdate_updates_congr hu n _
    · exact hu

/-! ### Alerts -/

/-- Only the alert lists differ. -/
def AlertsOnly (s t : State) : Prop := ∃ a, t = { s with lc := { s.lc with alerts := a } }

theorem AlertsOnly.refl (s : State) : AlertsOnly s s := ⟨_, rfl⟩

theorem AlertsOnly.trans {a b c : State} (h : AlertsOnly a b) (k : AlertsOnly b c) : AlertsOnly a c := by
  obtain ⟨x, rfl⟩ := h
  obtain ⟨y, rfl⟩ := k
  exact ⟨y, rfl⟩

theorem alertsOnly_addAlert (p n : Nat) : AlertsOnly s (addAlert s p n) := by
  unfold addAlert
  dsimp only
  split
  · exact ⟨_, rfl⟩
  · exact .refl s

theorem alertsOnly_removeAlert (p n : Nat) (l : Option Nat) : AlertsOnly s (removeAlert s p n l) := by
  unfold removeAlert backfill
  split
  · refine AlertsOnly.trans (b := s.setAlertList p ((s.alertList p).filter (· ≠ n))) ⟨_, rfl⟩ ?_
    split
    · exact alertsOnly_addAlert _ p _
    · exact .refl _
  · exact .refl s

theorem alertsOnly_foldl {α : Type} (f : State → α → State) (l : List α) (hf : ∀ s a, AlertsOnly s (f s a)) (s : State) :
    AlertsOnly s (l.foldl f s) := by
  induction l generalizing s with
  | nil => exact .refl s
  | cons a l ih => exact (hf s a).trans (ih _)

theorem alertsOnly_leaveAlerts (n : Nat) : AlertsOnly s (leaveAlerts s n) :=
  alertsOnly_foldl _ _ (fun s p => alertsOnly_removeAlert s p n (some n)) s

theorem alertsOnly_enterAlerts (n : Nat) : AlertsOnly s (enterAlerts s n) := by
  refine alertsOnly_foldl _ _ (fun s e => ?_) s
  split
  · exact alertsOnly_addAlert s _ n
  · exact .refl s

theorem AlertsOnly.rest {s t : State} (h : AlertsOnly s t) : (∀ m, t.line m = s.line m) ∧ t.bi = s.bi ∧ t.eu = s.eu ∧ t.mem = s.mem ∧
    t.frame = s.frame ∧ t.hc = s.hc ∧ t.ra = s.ra ∧ t.cc = s.cc ∧ t.um = s.um ∧ t.su = s.su ∧ t.lc.appIndex = s.lc.appIndex ∧
    t.lc.keys = s.lc.keys ∧ t.lc.lines = s.lc.lines := by
  obtain ⟨x, rfl⟩ := h
  simp [State.line]

@[simp] theorem leaveAlerts_line (n m : Nat) : (leaveAlerts s n).line m = s.line m := (alertsOnly_leaveAlerts s n).rest.1 m
@[simp] theorem leaveAlerts_bi (n : Nat) : (leaveAlerts s n).bi = s.bi := (alertsOnly_leaveAlerts s n).rest.2.1
@[simp] theorem leaveAlerts_eu (n : Nat) : (leaveAlerts s n).eu = s.eu := (alertsOnly_leaveAlerts s n).rest.2.2.1
@[simp] theorem leaveAlerts_mem (n : Nat) : (leaveAlerts s n).mem = s.mem := (alertsOnly_leaveAlerts s n).rest.2.2.2.1
@[simp] theorem leaveAlerts_frame (n : Nat) : (leaveAlerts s n).frame = s.frame := (alertsOnly_leaveAlerts s n).rest.2.2.2.2.1
@[simp] theorem leaveAlerts_hc (n : Nat) : (leaveAlerts s n).hc = s.hc := (alertsOnly_leaveAlerts s n).rest.2.2.2.2.2.1
@[simp] theorem leaveAlerts_ra (n : Nat) : (leaveAlerts s n).ra = s.ra := (alertsOnly_leaveAlerts s n).rest.2.2.2.2.2.2.1
@[simp] theorem leaveAlerts_cc (n : Nat) : (leaveAlerts s n).cc = s.cc := (alertsOnly_leaveAlerts s n).rest.2.2.2.2.2.2.2.1
@[simp] theorem leaveAlerts_um (n : Nat) : (leaveAlerts s n).um = s.um := (alertsOnly_leaveAlerts s n).rest.2.2.2.2.2.2.2.2.1
@[simp] theorem leaveAlerts_su (n : Nat) : (leaveAlerts s n).su = s.su := (alertsOnly_leaveAlerts s n).rest.2.2.2.2.2.2.2.2.2.1
@[simp] theorem leaveAlerts_circuit (n m : Nat) : (leaveAlerts s n).circuit m = s.circuit m := State.circuit_congr (by simp) m
@[simp] theorem leaveAlerts_context (n m : Nat) : (leaveAlerts s n).context m = s.context m := State.context_congr (by simp) m
@[simp] theorem leaveAlerts_handset (n : Nat) (p : Party) : (leaveAlerts s n).handset p = s.handset p := State.handset_congr (by simp) p

end Effects

end Sys2Proof.Machine

namespace Sys2Proof.Machine

/-! ## Requests that are ready (R149, R151) -/

section RequestsReady

/-- The state in which a ready request's command ends, its own effects done: mirrors, REQ_DONE, then what follows every command (R55, R151). -/
def requestEnd (b u : State) (ws : List Word) (r : Result) : State := settle b (completeRequest (postMirrors b u) ws r (0#32, 0#32))

variable (b u : State) (ws : List Word) (r : Result)

@[simp] theorem requestEnd_lc : (requestEnd b u ws r).lc = u.lc := by simp [requestEnd]
@[simp] theorem requestEnd_hc : (requestEnd b u ws r).hc = u.hc := by simp [requestEnd]
@[simp] theorem requestEnd_line (m : Nat) : (requestEnd b u ws r).line m = u.line m := by simp [requestEnd]
@[simp] theorem requestEnd_circuit (m : Nat) : (requestEnd b u ws r).circuit m = u.circuit m := by simp [requestEnd]
@[simp] theorem requestEnd_path (m : Nat) : (requestEnd b u ws r).path m = u.path m := by simp [requestEnd]
@[simp] theorem requestEnd_alertList (m : Nat) : (requestEnd b u ws r).alertList m = u.alertList m := by simp [requestEnd]
@[simp] theorem requestEnd_handset (p : Party) : (requestEnd b u ws r).handset p = u.handset p := by simp [requestEnd]
@[simp] theorem requestEnd_call (m : Nat) : (requestEnd b u ws r).call m = u.call m := by simp [requestEnd]
@[simp] theorem requestEnd_position (m : Nat) : (requestEnd b u ws r).position m = u.position m := by simp [requestEnd]
@[simp] theorem requestEnd_updates : (requestEnd b u ws r).um.updates = u.um.updates := by simp [requestEnd]
@[simp] theorem requestEnd_enable : (requestEnd b u ws r).um.enable = u.um.enable := by simp [requestEnd]
@[simp] theorem requestEnd_format : (requestEnd b u ws r).um.format = u.um.format := by simp [requestEnd]

theorem requestEnd_context (n : Nat) : ∃ (o : MeasContext → Option Frame) (k : MeasContext → Nat), (requestEnd b u ws r).context n =
    (u.context n).map fun x => { x with unrecOpen := o x, unrecFrames := k x } := by
  obtain ⟨o, k, h⟩ := settle_context (completeRequest (postMirrors b u) ws r (0#32, 0#32)) b n
  exact ⟨o, k, by rw [requestEnd, h]; simp⟩

theorem requestEnd_context_none (n : Nat) (h : u.context n = none) : (requestEnd b u ws r).context n = none := by
  obtain ⟨o, k, hk⟩ := requestEnd_context b u ws r n
  simp [hk, h]

variable {b u}

/-- An event stays where it is, unless the REQ_DONE takes its entry (R151). -/
theorem EventAt.requestEnd {h : Nat} {e : Event} {f : Frame} (k : EventAt u h e f) (hh : h < 256) (hne : h ≠ u.eu.evtHead) :
    EventAt (requestEnd b u ws r) h e f := by
  refine EventAt.settle ?_ hh b
  have hmirrors := k.postMirrors hh b
  intro i hi
  rw [completeRequest_latestWord]
  exact hmirrors.issue (by simpa using hne) _ i hi

variable {s : State} {code k : Nat}

/-- A request that is ready and that no common check refuses ends with its own effects and their completion (R149, R151). -/
theorem request_next (h : Ready s code ws k) (names : Names) (own : State → List Word → State × Result)
    (hn : commonRefusal s ws names = none) (ho : own s ws = (u, r)) (hw : CallWork s u) :
    requestTaken s code names own noDetail = .next (requestEnd s u ws r) := by
  rw [requestTaken_ready h, takeRequest_ready h names own noDetail hn, ho]
  exact done_of_nothingHeld s _ (by simp [hw.held, h.held])

/-- What a request leaves: what its own effects leave, but the ring, the engine and the event ring. -/
theorem Work.requestEnd {xs : List Block} (h : Work s u xs) (he : s.eu.evtHead < 256) (b : State) :
    Leaves s (requestEnd b u ws r) (xs ++ [.ring, .take, .events]) := by
  have hmirrors : Leaves s (postMirrors b u) xs := by simpa using (h.leaves he).trans (leaves_postMirrors u b)
  exact leaves_completed hmirrors (by simpa using h.head he) b ws r _

/-- A request with room for its REQ_DONE after its own effects completes (R151). -/
theorem CallWork.completed (h : CallWork s u) (hu : u.eu.unread ≤ 254) (he : s.eu.evtHead < 256) (b : State) :
    Completed s (Machine.requestEnd b u ws r) ws r 0#32 0#32 :=
  completed_settle b ws r (0#32, 0#32) (by simp [h.re]) (by simp [h.re]) (by simp [h.frame]) (by simpa using hu) (by simpa using (h.words he).1)

theorem CallWork.finished (h : CallWork s u) (he : s.eu.evtHead < 256) (b : State) : Finished s (Machine.requestEnd b u ws r) ws r :=
  finished_settle (u := postMirrors b u) (work_postMirrors u b |>.call |> h.trans) b ws r he

/-- An event of a request's own effects is where it was when the request has completed. -/
theorem UnreadEvent.requestEnd {h : Nat} {e : Event} {f : Frame} (k : UnreadEvent u h e f) (b : State) :
    EventAt (Machine.requestEnd b u ws r) h e f := by
  have hmirrors := eventsKept_postMirrors b (.refl u) h e f k
  have hissue := eventsKept_issue (.reqDone (Machine.postMirrors b u).re.head (wordOf ws 0) r 0#32 0#32) (.refl _) h e f hmirrors
  refine EventAt.settle ?_ k.entry b
  intro i hi
  rw [completeRequest_latestWord]
  exact hissue.event i hi

theorem Ready.unread (h : Ready s code ws (k + 1)) : s.eu.unread ≤ 254 := by
  have := h.room
  omega

/-- A request whose own effects change nothing: it only completes. -/
theorem request_unchanged (h : Ready s code ws (k + 1)) (names : Names) (own : State → List Word → State × Result)
    (hn : commonRefusal s ws names = none) (ho : own s ws = (s, r)) :
    requestTaken s code names own noDetail = .next (requestEnd s s ws r) ∧ Completed s (requestEnd s s ws r) ws r 0#32 0#32 ∧
    Leaves s (requestEnd s s ws r) [.ring, .take, .events] :=
  ⟨request_next ws r h names own hn ho (.refl s), (CallWork.refl s).completed ws r h.unread h.head s,
    by simpa using (Work.refl s []).requestEnd ws r h.head s⟩

end RequestsReady

/-! ## PRIVACY (R23, O50) -/

section Privacy

theorem onOff_eq (v : Nat) : onOff v = if v = 1 then some true else if v = 0 then some false else none := by
  unfold onOff
  split <;> simp_all

/-- The setter after PRIVACY, and its result, by R23. -/
theorem setPrivacy_eq (s : State) (p : Party) (n : Nat) (on : Bool) : ∃ u, setPrivacy s p n on =
    (u, if on = true then
        (if isActive (s.line n) p = false then .badParam else if (s.line n).setter = none then .ok
         else if (s.line n).setter = some p then .noChange else .privateLine)
      else if (s.line n).setter = none then .noChange else if (s.line n).setter = some p then .ok else .privateLine) ∧
    Work s u [.lc] ∧ u.eu = s.eu ∧ (∀ m, m ≠ n → u.line m = s.line m) ∧
    u.line n = { s.line n with
      setter :=
        if on = true ∧ isActive (s.line n) p = true ∧ (s.line n).setter = none then some p
        else if on = false ∧ (s.line n).setter = some p then none else (s.line n).setter } := by
  have hset : ∀ st : Option Party, Work s (modLine s n fun l => { l with setter := st }) [.lc] := fun st => work_modLine s n _
  have hlines : ∀ st : Option Party, ∀ m, m ≠ n → (modLine s n fun l => { l with setter := st }).line m = s.line m := by simp +contextual
  unfold setPrivacy
  cases on with
  | true =>
    cases ha : isActive (s.line n) p with
    | false => exact ⟨s, by simp [ha], .refl s _, rfl, fun _ _ => rfl, by simp⟩
    | true =>
      cases hs : (s.line n).setter with
      | none => exact ⟨_, by simp [ha, hs], hset (some p), rfl, hlines _, by simp⟩
      | some st => exact ⟨s, by simp [ha, hs], .refl s _, rfl, fun _ _ => rfl, by simp; rw [← hs]⟩
  | false =>
    cases hs : (s.line n).setter with
    | none => exact ⟨s, by simp [hs], .refl s _, rfl, fun _ _ => rfl, by simp [← hs]⟩
    | some st =>
      by_cases hp : st = p
      · exact ⟨_, by simp [hs, hp], hset none, rfl, hlines _, by simp [hp]⟩
      · exact ⟨s, by simp [hs, hp], .refl s _, rfl, fun _ _ => rfl, by simp [hp]; rw [← hs]⟩

/-- Settles O50: the cases of R23 at the setter, then the completion of a request. -/
theorem privacySetsOrClearsTheSetter : Obligations.PrivacySetsOrClearsTheSetter := by
  intro s ws p n hr hp hn
  refine ⟨fun hlt hdir => ?_, fun hbad => ?_⟩
  · obtain ⟨u, hset, hw, heu, hother, hline⟩ := setPrivacy_eq s p n (decide (param ws 2 = 1))
    have hon : onOff (param ws 2) = some (decide (param ws 2 = 1)) := by
      rcases Nat.le_one_iff_eq_zero_or_eq_one.mp hdir with h | h <;> simp [onOff_eq, h]
    have hown : ownPrivacy s ws = setPrivacy s p n (decide (param ws 2 = 1)) := by simp [ownPrivacy, hn, hon, hlt, hp.party]
    have hoff : (decide (param ws 2 = 1) = false) ↔ param ws 2 = 0 := by simp; omega
    simp only [hoff, decide_eq_true_eq] at hset hline
    refine ⟨requestEnd s u ws _, request_next ws _ hr .handset ownPrivacy (commonRefusal_handset hp) (hown.trans hset) hw.call, ?_, ?_,
      hw.call.completed ws _ (heu ▸ hr.unread) hr.head s, (hw.requestEnd ws _ hr.head s).mono (by decide)⟩
    · simpa using hline
    · simpa using hother
  · have hown : ownPrivacy s ws = (s, .badParam) := by
      unfold ownPrivacy
      rw [hn]
      rcases hbad with h | h
      · dsimp only
        split <;> simp [Nat.not_lt.mpr h]
      · have : onOff (param ws 2) = none := by rw [onOff_eq, if_neg (by omega), if_neg (by omega)]
        simp [this]
    exact ⟨_, request_unchanged ws _ hr .handset ownPrivacy (commonRefusal_handset hp) hown⟩

end Privacy

/-! ## The guard (R18, O42) -/

section Guard

@[simp] theorem freeCircuit_line (s : State) (n m : Nat) :
    (freeCircuit s n).line m = if m = n then { s.line n with active := none } else s.line m := by
  unfold freeCircuit
  split
  · next c hc =>
    rcases finishRelease_eq (modCircuit s c fun r => { r with owner := none }) c with h | h <;> rw [h] <;> simp [clearActive]
  · next hc =>
    split
    · next hm => rw [hm, ← hc]
    · rfl

theorem work_freeCircuit (s : State) (n : Nat) : Work s (freeCircuit s n) [.lc, .cc] := by
  unfold freeCircuit
  split
  · exact (((work_modCircuit s _ _).mono (by decide)).step (work_finishRelease _ _)).step (work_clearActive _ n)
  · exact .refl s _

theorem freeCircuit_owner (s : State) (n c : Nat) (h : (s.line n).active = some c) : ((freeCircuit s n).circuit c).owner = none := by
  unfold freeCircuit
  rw [h]
  rcases finishRelease_eq (modCircuit s c fun r => { r with owner := none }) c with hf | hf <;> dsimp only <;> rw [hf] <;>
    simp [clearActive, enterIdle_circuit]

theorem freeCircuit_eu (s : State) (n : Nat) : (freeCircuit s n).eu = s.eu := by
  unfold freeCircuit
  split
  · next c hc =>
    rcases finishRelease_eq (modCircuit s c fun r => { r with owner := none }) c with h | h <;> rw [h] <;> rfl
  · rfl

theorem dropCallCopy_owner (s : State) (n c : Nat) : ((dropCallCopy s n).circuit c).owner = (s.circuit c).owner := by
  obtain ⟨b, h | h⟩ := dropCallCopy_circuit s n c <;> simp [h]

/-- The state a line enters at guard expiry, unless it is NAILED and seized anew (R18, R25). -/
def LineRec.afterGuard (l : LineRec) : LineState := if l.pendingAdmin = true then .outOfService .admin else .idle

/-- At guard expiry the circuit is freed and the timer stopped, and unless service is asked out of the line its call copy ends (R18, R35). -/
def guardFreed (s : State) (n : Nat) : State :=
  if (s.line n).pendingAdmin = true then stopState (freeCircuit s n) n else dropCallCopy (stopState (freeCircuit s n) n) n

theorem work_guardFreed (s : State) (n : Nat) : Work s (guardFreed s n) [.lc, .cc] := by
  have h : Work s (stopState (freeCircuit s n) n) [.lc, .cc] := (work_freeCircuit s n).step (work_stopState _ n)
  exact .ite h (h.step (work_dropCallCopy _ n))

theorem guardFreed_eu (s : State) (n : Nat) : (guardFreed s n).eu = s.eu := by
  have h : (stopState (freeCircuit s n) n).eu = s.eu := freeCircuit_eu s n
  unfold guardFreed
  split
  · exact h
  · exact (callsOnly_dropCallCopy _ n).rest.2.1.trans h

theorem guardFreed_line (s : State) (n m : Nat) : (guardFreed s n).line m =
    if m = n then
      { s.line n with
        active := none, stateTimer := none, callCopy := if (s.line n).pendingAdmin = true then (s.line n).callCopy else none }
    else s.line m := by
  unfold guardFreed
  by_cases hp : (s.line n).pendingAdmin = true <;> by_cases hm : m = n <;> simp [hp, hm, stopState, dropCallCopy_line]

theorem guardFreed_owner (s : State) (n c : Nat) (h : (s.line n).active = some c) : ((guardFreed s n).circuit c).owner = none := by
  have howner : ((stopState (freeCircuit s n) n).circuit c).owner = none := freeCircuit_owner s n c h
  unfold guardFreed
  split
  · exact howner
  · rw [dropCallCopy_owner]
    exact howner

/-- At guard expiry a line changes state once, unless it is NAILED and no service is asked out of it (R18). -/
theorem guardExpires_eq (s : State) (n : Nat) (h : (s.line n).pendingAdmin = true ∨ (s.line n).applied.call.kind ≠ .nailed) :
    guardExpires s n = changeState (guardFreed s n) n (s.line n).afterGuard .timer := by
  have hpend : ((stopState (freeCircuit s n) n).line n).pendingAdmin = (s.line n).pendingAdmin := by simp [stopState]
  unfold guardExpires
  dsimp only
  rw [hpend]
  by_cases hp : (s.line n).pendingAdmin = true
  · simp [hp, guardFreed, LineRec.afterGuard]
  · have hkind : ((dropCallCopy (stopState (freeCircuit s n) n) n).line n).applied.call.kind ≠ .nailed := by
      simpa [dropCallCopy_line, stopState, hp] using h
    simp [hp, hkind, guardFreed, LineRec.afterGuard]

/-- Settles O42: the circuit is freed, then the line changes state once. -/
theorem guardExpiryFreesTheLine : Obligations.GuardExpiryFreesTheLine := by
  intro n c s hheld hhead hroom hdue hstate hactive hkind
  have hfreed := work_guardFreed s n
  have hframe : (guardFreed s n).frame = s.frame := hfreed.call.frame
  have hclearing : ((guardFreed s n).line n).state = .clearing := by simp [guardFreed_line, hstate]
  have hnew : (s.line n).afterGuard.keepsSetter = false ∧ (s.line n).afterGuard.atRest = true ∧ (s.line n).afterGuard ≠ .clearing := by
    unfold LineRec.afterGuard
    split <;> simp [LineState.keepsSetter, LineState.atRest]
  obtain ⟨hsetter, hrest, hne⟩ := hnew
  have hchange : ((guardFreed s n).line n).state ≠ (s.line n).afterGuard := fun h => hne (h.symm.trans hclearing)
  obtain ⟨hevent, -⟩ := changeState_event (guardFreed s n) n (s.line n).afterGuard .timer hchange (by rwa [guardFreed_eu])
  have hwork : Work s (changeState (guardFreed s n) n (s.line n).afterGuard .timer) [.events, .lc, .cc] :=
    (hfreed.mono (by decide)).step (work_changeState _ n _ .timer)
  obtain ⟨hdone, hleaves⟩ := hwork.done hheld hhead s
  refine ⟨_, (s.line n).afterGuard, rfl, ?_, ?_, ?_, ?_, ?_, hleaves⟩
  · rw [← guardExpires_eq s n hkind] at hdone ⊢
    simpa [exec, execGuard, hdue] using hdone
  · rw [settle_line, changeState_line, if_pos ⟨rfl, hchange⟩]
    simp [LineRec.changedTo, guardFreed_line, hsetter, hrest, hframe, hstate]
  · rw [settle_circuit, (changeState_circuit_fields (guardFreed s n) n (s.line n).afterGuard .timer c).1]
    exact guardFreed_owner s n c hactive
  · rw [guardFreed_eu, hframe, hclearing] at hevent
    exact hevent.settle hhead s
  · intro m hm
    simp [changeState_line, guardFreed_line, hm]

end Guard

end Sys2Proof.Machine

namespace Sys2Proof.Machine

/-! ## Acknowledgements and answers (R37, R38, R43, O30) -/

section Acknowledgement

/-- The circuit of a line is in use and wanted in a state, and the line's two timers are given ones; every other line, circuit and context is
as it was (R37, R38). -/
structure PutInUse (s u : State) (n c : Nat) (d : LinkState) (sg : Option (SignalPurpose × Frame)) (st : Option (StatePurpose × Frame)) :
    Prop where
  work    : Work s u [.lc, .cc, .link]
  eu      : u.eu = s.eu
  um      : u.um = s.um
  line    : ∀ m, u.line m = if m = n then { s.line n with signalTimer := sg, stateTimer := st } else s.line m
  circuit : ∀ e, u.circuit e = if e = c then { s.circuit c with state := .inUse, desired := d } else s.circuit e
  path    : ∀ m, u.path m = s.path m

theorem PutInUse.frame {s u : State} {n c : Nat} {d : LinkState} {sg : Option (SignalPurpose × Frame)} {st : Option (StatePurpose × Frame)}
    (h : PutInUse s u n c d sg st) : u.frame = s.frame := h.work.call.frame

theorem PutInUse.su {s u : State} {n c : Nat} {d : LinkState} {sg : Option (SignalPurpose × Frame)} {st : Option (StatePurpose × Frame)}
    (h : PutInUse s u n c d sg st) : u.su = s.su := h.work.call.su

/-- The line's kind, which timers do not touch. -/
theorem PutInUse.kind {s u : State} {n c : Nat} {d : LinkState} {sg : Option (SignalPurpose × Frame)} {st : Option (StatePurpose × Frame)}
    (h : PutInUse s u n c d sg st) : (u.line n).eff = (s.line n).eff := by
  simp [h.line, LineRec.eff]

variable (s : State) (n c : Nat)

theorem putInUse_eq : PutInUse s (putInUse s c) n c (s.circuit c).desired (s.line n).signalTimer (s.line n).stateTimer where
  work := (work_modCircuit s c _).mono (by decide)
  eu := rfl
  um := rfl
  line m := by
    by_cases hm : m = n <;> simp [putInUse, hm]
  circuit e := by simp [putInUse]
  path m := by simp [putInUse]

variable {s n c} {u : State} {d : LinkState} {sg : Option (SignalPurpose × Frame)} {st : Option (StatePurpose × Frame)}

theorem PutInUse.of_inUse (h : (s.circuit c).state = .inUse) :
    PutInUse s s n c (s.circuit c).desired (s.line n).signalTimer (s.line n).stateTimer where
  work := .refl s _
  eu := rfl
  um := rfl
  line m := by split <;> simp [*]
  circuit e := by
    split
    · next he => rw [he, ← h]
    · rfl
  path _ := rfl

theorem PutInUse.setDesired (h : PutInUse s u n c d sg st) (d' : LinkState) : PutInUse s (setDesired u c d') n c d' sg st := by
  have hcc := (ccOnly_setDesired u c d').rest
  obtain ⟨hlc, hbi, heu, hmem, hframe, hhc, hra, hum, -⟩ := hcc
  exact {
    work := h.work.step (work_setDesired u c d')
    eu := heu.trans h.eu
    um := hum.trans h.um
    line := fun m => by rw [setDesired_line, h.line]
    circuit := fun e => by
      rw [setDesired_circuit, h.circuit c, h.circuit e]
      split <;> simp
    path := fun m => by rw [setDesired_path, h.path] }

/-- Timers of the line that change. -/
theorem PutInUse.timers (h : PutInUse s u n c d sg st) (sg' : Option (SignalPurpose × Frame)) (st' : Option (StatePurpose × Frame))
    (f : LineRec → LineRec) (hf : f (u.line n) = { u.line n with signalTimer := sg', stateTimer := st' }) :
    PutInUse s (modLine u n f) n c d sg' st' where
  work := h.work.step (work_modLine u n f)
  eu := h.eu
  um := h.um
  line m := by
    rw [modLine_eq, State.setLine_line, hf, h.line n, h.line m]
    split <;> simp
  circuit e := by rw [← h.circuit e]; simp
  path m := by rw [← h.path m]; simp

theorem PutInUse.stopState (h : PutInUse s u n c d sg st) : PutInUse s (stopState u n) n c d sg none :=
  h.timers sg none _ (by simp [h.line])

theorem PutInUse.stopTimers (h : PutInUse s u n c d sg st) : PutInUse s (stopTimers u n) n c d none none :=
  (h.timers none st _ (by simp [h.line])).stopState

theorem PutInUse.startSignal (h : PutInUse s u n c d sg st) (p : SignalPurpose) (k : Nat) :
    PutInUse s (startSignal u n p k) n c d (some (p, after s k)) st :=
  h.timers (some (p, after s k)) st _ (by simp [h.line, after, h.frame])

theorem PutInUse.startState (h : PutInUse s u n c d sg st) (p : StatePurpose) (k : Nat) :
    PutInUse s (startState u n p k) n c d sg (some (p, after s k)) :=
  h.timers sg (some (p, after s k)) _ (by simp [h.line, after, h.frame])

/-- Where the far end of an AUTO_RINGDOWN line is to be rung, an acknowledgement starts its cadence and its NO_ANSWER timer (R37). -/
theorem acknowledge_autoRingdown (h : (s.line n).eff.kind = .autoRingdown) :
    PutInUse s (acknowledge s n c) n c .seizedRinging (some (.cadenceOn, after s 16000)) (some (.noAnswer, after s (ringFrames s))) := by
  have h0 := (putInUse_eq s n c).stopState
  have hring : ringFrames (stopState (putInUse s c) n) = ringFrames s := rfl
  have hk := h0.kind
  unfold acknowledge
  simp only [hk, h, if_true, hring]
  exact ((h0.setDesired .seizedRinging).startSignal _ _).startState _ _

/-- On any other line the acknowledgement connects the call (R38). -/
theorem acknowledge_connects (h : (s.line n).eff.kind ≠ .autoRingdown) :
    ∃ u, acknowledge s n c = becomeConnected u n .far ∧ PutInUse s u n c .seized (s.line n).signalTimer none := by
  have h0 := (putInUse_eq s n c).stopState
  refine ⟨_, ?_, h0.setDesired .seized⟩
  simp [acknowledge, h0.kind, h]

/-- What is stated of a line in CALLING that becomes connected by the far end (R8, R37, R38, R117). -/
theorem PutInUse.connected (h : PutInUse s u n c .seized sg none) (hcall : (s.line n).state = .calling) (hheld : s.bi.held = [])
    (hhead : s.eu.evtHead < 256) (hroom : s.eu.unread ≤ 254) :
    let t := settle s (becomeConnected u n .far)
    done s (becomeConnected u n .far) = .next t ∧ t.circuit c = { s.circuit c with state := .inUse, desired := .seized } ∧
    t.line n = { s.line n with state := connectedOrHeld (s.line n), lastChange := s.frame, stateTimer := none, signalTimer := sg } ∧
    (∀ x, s.context n = some x → ∃ y, t.context n = some y ∧ y.connectAt = some (x.connectAt.getD s.frame) ∧
      y.segment = some (s.frame, (s.path n).lastUsed)) ∧
    EventAt t s.eu.evtHead (.lineState n .calling (connectedOrHeld (s.line n)) .far) s.frame ∧
    (∀ m, m ≠ n → t.line m = s.line m) ∧ (∀ d, d ≠ c → t.circuit d = s.circuit d) ∧ Leaves s t [.events, .lc, .cc, .link] := by
  intro t
  have hline : u.line n = { s.line n with signalTimer := sg, stateTimer := none } := by simp [h.line]
  have hheldness : connectedOrHeld (u.line n) = connectedOrHeld (s.line n) := by simp [connectedOrHeld, hline, LineRec.eff, allHeld]
  have hnew : (connectedOrHeld (s.line n)).keepsSetter = true ∧ (connectedOrHeld (s.line n)).atRest = false ∧
      connectedOrHeld (s.line n) ≠ .calling := by
    unfold connectedOrHeld
    split <;> simp [LineState.keepsSetter, LineState.atRest]
  obtain ⟨hsetter, hrest, hne⟩ := hnew
  have hconn : becomeConnected u n .far = changeState (openConnection u n) n (connectedOrHeld (s.line n)) .far := by
    rw [← hheldness]
    rfl
  have hopen : ∀ m, (openConnection u n).line m = u.line m := fun m => by simp [openConnection]
  have hchange : ((openConnection u n).line n).state ≠ connectedOrHeld (s.line n) := by
    rw [hopen, hline, hcall]
    exact hne.symm
  have hcircuit : ∀ e, (becomeConnected u n .far).circuit e = u.circuit e := fun e => by
    rw [hconn, State.circuit_congr (changeState_cc (openConnection u n) n _ .far (.inl hrest))]
    simp [openConnection]
  have heu : (openConnection u n).eu = s.eu := by simp [openConnection, h.eu]
  have hframe : (openConnection u n).frame = s.frame := by simp [openConnection, h.frame]
  have hwork : Work s (becomeConnected u n .far) [.events, .lc, .cc, .link] :=
    (h.work.mono (by decide)).step (work_becomeConnected u n .far)
  obtain ⟨hdone, hleaves⟩ := hwork.done hheld hhead s
  refine ⟨hdone, ?_, ?_, ?_, ?_, ?_, ?_, hleaves⟩
  · rw [settle_circuit, hcircuit, h.circuit, if_pos rfl]
  · rw [settle_line, hconn, changeState_line, if_pos ⟨rfl, hchange⟩]
    simp [LineRec.changedTo, hopen, hline, hsetter, hrest, hframe, hcall]
  · intro x hx
    obtain ⟨o, k, hk⟩ := settle_context (becomeConnected u n .far) s n
    have hctx : (becomeConnected u n .far).context n =
        some { x with connectAt := some (x.connectAt.getD s.frame), segment := some (s.frame, (s.path n).lastUsed) } := by
      rw [hconn, changeState_context, openConnection, modContext_context, if_pos rfl, State.context_congr h.um, hx]
      simp [h.frame, h.path]
    exact ⟨_, by rw [hk, hctx]; rfl, rfl, rfl⟩
  · obtain ⟨hevent, -⟩ := changeState_event (openConnection u n) n (connectedOrHeld (s.line n)) .far hchange (by rwa [heu])
    rw [heu, hframe, hopen, hline] at hevent
    simp only [hcall] at hevent
    rw [← hconn] at hevent
    exact hevent.settle hhead s
  · intro m hm
    rw [settle_line, hconn, changeState_line, if_neg (by simp [hm]), hopen, h.line, if_neg hm]
  · intro e he
    rw [settle_circuit, hcircuit, h.circuit, if_neg he]

/-- How a far end, in each of R37's and R38's ways, connects a line in CALLING. -/
theorem far_connects {i : Instr} {c : Fin 256} (hactive : linkActive s = true) (howner : (s.circuit c).owner = some n)
    (hcall : (s.line n).state = .calling)
    (hi : ((s.circuit c).state = .seizing ∧
          ((i = Instr.seizeAck c ∧ seizeSent (s.circuit c) = true ∧ (s.line n).eff.kind ≠ .autoRingdown) ∨
           (i = Instr.farAnswer c ∧ seizeSent (s.circuit c) = true) ∨ i = Instr.ringDetect c)) ∨
        ((s.circuit c).state = .inUse ∧ (s.line n).eff.kind = .autoRingdown ∧ (i = Instr.farAnswer c ∨ i = Instr.ringDetect c))) :
    ∃ u, exec i s = done s (becomeConnected u n .far) ∧ PutInUse s u n c .seized
      (if i = .ringDetect c ∨ (i = .farAnswer c ∧ (s.line n).eff.kind = .autoRingdown) then none else (s.line n).signalTimer) none := by
  have hown : ownerLine s c = some (n, s.line n) := by simp [ownerLine, howner]
  rcases hi with ⟨hst, ⟨rfl, hsent, hkind⟩ | ⟨rfl, hsent⟩ | rfl⟩ | ⟨hst, hkind, rfl | rfl⟩
  · obtain ⟨u, hu, hput⟩ := acknowledge_connects (c := c) hkind
    exact ⟨u, by simp [exec, execSeizeAck, whenLinkActive, hactive, seizeAckOn, hst, hown, hsent, hcall, hu], by simpa using hput⟩
  · by_cases hkind : (s.line n).eff.kind = .autoRingdown
    · refine ⟨_, ?_, by simpa [hkind] using ((acknowledge_autoRingdown (c := c) hkind).setDesired .seized).stopTimers⟩
      simp [exec, execFarAnswer, whenLinkActive, hactive, farAnswerOn, hst, hown, hsent, hcall, hkind, farAnswered]
    · obtain ⟨u, hu, hput⟩ := acknowledge_connects (c := c) hkind
      exact ⟨u, by simp [exec, execFarAnswer, whenLinkActive, hactive, farAnswerOn, hst, hown, hsent, hcall, hkind, hu],
        by simpa [hkind] using hput⟩
  · refine ⟨_, ?_, by simpa using ((putInUse_eq s n c).setDesired .seized).stopTimers⟩
    simp [exec, execRingDetect, whenLinkActive, hactive, ringDetectOn, hst, hown, hcall, farAnswered]
  · refine ⟨_, ?_, by simpa [hkind] using ((PutInUse.of_inUse (n := n) hst).setDesired .seized).stopTimers⟩
    simp [exec, execFarAnswer, whenLinkActive, hactive, farAnswerOn, hst, hown, hcall, hkind, farAnswered]
  · refine ⟨_, ?_, by simpa using ((PutInUse.of_inUse (n := n) hst).setDesired .seized).stopTimers⟩
    simp [exec, execRingDetect, whenLinkActive, hactive, ringDetectOn, hst, hown, hcall, farAnswered]

end Acknowledgement

/-- Settles O30: an AUTO_RINGDOWN line's acknowledgement starts its ringing; every other message of R37 and R38 connects the line. -/
theorem acknowledgementTakesTheSeizure : Obligations.AcknowledgementTakesTheSeizure := by
  intro c n s hactive hheld hhead hroom howner hcall
  refine ⟨fun hst hsent hkind => ?_, fun i hi => ?_⟩
  · have hput := acknowledge_autoRingdown (c := c.val) hkind
    have hexec : exec (.seizeAck c) s = done s (acknowledge s n c) := by
      simp [exec, execSeizeAck, whenLinkActive, hactive, seizeAckOn, hst, ownerLine, howner, hsent, hcall]
    obtain ⟨hdone, hleaves⟩ := hput.work.done hheld hhead s
    refine ⟨_, hexec.trans hdone, ?_, ?_, ?_, ?_, hleaves⟩
    · simp [hput.circuit]
    · simp [hput.line, after]
    · intro m hm
      simp [hput.line, hm]
    · intro d hd
      simp [hput.circuit, hd]
  · obtain ⟨u, hexec, hput⟩ := far_connects hactive howner hcall hi
    obtain ⟨hdone, hrest⟩ := hput.connected hcall hheld hhead hroom
    exact ⟨_, hexec.trans hdone, hrest⟩

end Sys2Proof.Machine

namespace Sys2Proof.Machine

/-! ## Rings (R14, R41, O31) -/

section Rings

/-! ### Alert lists that a line enters (R14) -/

theorem addAlert_alertList (s : State) (p n q : Nat) : (addAlert s p n).alertList q =
    if q = p ∧ (s.position p).applied.enabled = true ∧ (s.alertList p).length < 8 ∧ n ∉ s.alertList p then insertByRing s n (s.alertList p)
    else s.alertList q := by
  unfold addAlert
  dsimp only
  split
  · next h =>
    by_cases hq : q = p
    · simp [hq, h.1, h.2.1, (by simpa using h.2.2 : n ∉ s.alertList p)]
    · simp [hq]
  · next h =>
    rw [if_neg fun hn => h ⟨hn.2.1, hn.2.2.1, by simpa using hn.2.2.2⟩]

theorem addAlert_mono (s : State) (p n q : Nat) (h : n ∈ s.alertList q) : n ∈ (addAlert s p n).alertList q := by
  rw [addAlert_alertList]
  split
  · next hc => exact absurd (hc.1 ▸ h) hc.2.2.2
  · exact h

/-- One step of entering alert lists: the entry's position, where the appearance is AUDIBLE (R14). -/
def enterAlert (n : Nat) (s : State) (e : AppEntry) : State := if e.audible then addAlert s e.pos n else s

theorem enterAlert_rest (n : Nat) (s : State) (e : AppEntry) : (enterAlert n s e).hc = s.hc := by
  unfold enterAlert
  split
  · exact (alertsOnly_addAlert s e.pos n).rest.2.2.2.2.2.1
  · rfl

theorem enterAlerts_eq (s : State) (n : Nat) : enterAlerts s n = (s.appEntries n).foldl (enterAlert n) s := rfl

/-- A line that is on a list stays on it while it enters further lists. -/
theorem enterAlert_foldl_mono (n q : Nat) (es : List AppEntry) (s : State) (h : n ∈ s.alertList q) :
    n ∈ (es.foldl (enterAlert n) s).alertList q := by
  induction es generalizing s with
  | nil => exact h
  | cons e es ih =>
    refine ih _ ?_
    unfold enterAlert
    split
    · exact addAlert_mono s e.pos n q h
    · exact h

/-- An entry that is not an AUDIBLE one of the position leaves its list. -/
theorem enterAlert_other (n q : Nat) (s : State) (e : AppEntry) (h : e.pos = q → e.audible = false) :
    (enterAlert n s e).alertList q = s.alertList q := by
  unfold enterAlert
  split
  · next ha =>
    rw [addAlert_alertList, if_neg]
    rintro ⟨rfl, -⟩
    simp [h rfl] at ha
  · rfl

theorem enterAlert_foldl_other (n q : Nat) (es : List AppEntry) (s : State) (h : ∀ e ∈ es, e.pos = q → e.audible = false) :
    (es.foldl (enterAlert n) s).alertList q = s.alertList q := by
  induction es generalizing s with
  | nil => rfl
  | cons e es ih => exact (ih _ fun x hx => h x (by simp [hx])).trans (enterAlert_other n q s e (h e (by simp)))

/-- A line joins the list of each enabled position that has an AUDIBLE appearance of it and room (R14, R16). -/
theorem enterAlert_foldl_mem (n q : Nat) (es : List AppEntry) (s : State) (he : ∃ e ∈ es, e.pos = q ∧ e.audible = true)
    (hp : (s.position q).applied.enabled = true) (hroom : (s.alertList q).length < 8) : n ∈ (es.foldl (enterAlert n) s).alertList q := by
  induction es generalizing s with
  | nil => simp at he
  | cons e es ih =>
    by_cases hq : e.pos = q ∧ e.audible = true
    · refine enterAlert_foldl_mono n q es _ ?_
      unfold enterAlert
      rw [if_pos hq.2, hq.1, addAlert_alertList]
      split
      · rw [mem_insertByRing]
        exact .inl rfl
      · next hno =>
        by_contra hn
        exact hno ⟨rfl, hp, hroom, hn⟩
    · have hlist := enterAlert_other n q s e fun hpos => by simpa [hpos] using hq
      refine ih _ ?_ ?_ ?_
      · obtain ⟨x, hx, hxq⟩ := he
        rcases List.mem_cons.mp hx with rfl | hx
        · exact absurd hxq hq
        · exact ⟨x, hx, hxq⟩
      · rw [State.position_congr (enterAlert_rest n s e)]
        exact hp
      · rw [hlist]
        exact hroom

/-! ### A ring accepted (R41) -/

/-- What a ring makes of its line and circuit before the line changes state (R3, R41). -/
def ringTaken (s : State) (n c : Nat) : State :=
  let i := pathPositionOf s n c
  let s := modCircuit s c fun r => { r with owner := some n, state := .inUse, farHeld := true }
  let s := modPath s n fun p => { p with lastUsed := i }
  let s := latchContext (takeCallCopy s n) n 0 (some s.frame)
  modLine s n fun l => { l with active := some c, ringStart := s.frame }

theorem work_ringTaken (s : State) (n c : Nat) : Work s (ringTaken s n c) [.lc, .cc, .meter] := by
  unfold ringTaken
  exact (((((work_modCircuit s c _).mono (by decide)).step (work_modPath _ n _)).step (work_takeCallCopy _ n)).step
    (work_latchContext _ n 0 _)).step (work_modLine _ n _)

theorem ringTaken_line (s : State) (n c m : Nat) : (ringTaken s n c).line m =
    if m = n then { s.line n with callCopy := some (s.line n).applied.call, active := some c, ringStart := s.frame } else s.line m := by
  by_cases hm : m = n <;> simp [ringTaken, takeCallCopy, latchContext, hm]

theorem ringTaken_circuit (s : State) (n c d : Nat) : (ringTaken s n c).circuit d =
    if d = c then { s.circuit c with owner := some n, state := .inUse, farHeld := true } else s.circuit d := by
  simp [ringTaken, takeCallCopy, latchContext]

/-- The line in RINGING_IN with its ring timer, its ring reported, before it enters alert lists (R14, R41). -/
def ringReported (s : State) (n c : Nat) : State :=
  let s := startState (changeState (ringTaken s n c) n .ringingIn .far) n .ringIn (ringFrames s)
  issue s (.ringAlert n c s.frame)

theorem acceptRing_eq (s : State) (n c : Nat) : acceptRing s n c = enterAlerts (ringReported s n c) n := rfl

theorem work_ringReported (s : State) (n c : Nat) : Work s (ringReported s n c) [.events, .lc, .cc, .meter] :=
  ((((work_ringTaken s n c).mono (by decide)).step (work_changeState _ n _ _)).step (work_modLine _ n _)).step (work_issue _ _)

/-- The record of a line that rings in (R41). -/
theorem ringReported_line (s : State) (n c m : Nat) (h : (s.line n).state = .idle) : (ringReported s n c).line m =
    if m = n then { s.line n with
      callCopy := some (s.line n).applied.call, active := some c, ringStart := s.frame, state := .ringingIn
      lastChange := s.frame, stateTimer := some (.ringIn, after s (ringFrames s)) }
    else s.line m := by
  have hframe : (ringTaken s n c).frame = s.frame := (work_ringTaken s n c).call.frame
  have hchange : ((ringTaken s n c).line n).state ≠ .ringingIn := by simp [ringTaken_line, h]
  unfold ringReported
  dsimp only
  rw [issue_line, startState, modLine_eq, State.setLine_line]
  by_cases hm : m = n
  · rw [if_pos hm, if_pos hm, changeState_line, if_pos ⟨rfl, hchange⟩]
    simp [LineRec.changedTo, ringTaken_line, h, LineState.keepsSetter, LineState.atRest, after, hframe]
  · rw [if_neg hm, if_neg hm, changeState_line, if_neg (by simp [hm]), ringTaken_line, if_neg hm]

theorem ringReported_circuit (s : State) (n c d : Nat) : (ringReported s n c).circuit d =
    if d = c then { s.circuit c with owner := some n, state := .inUse, farHeld := true } else s.circuit d := by
  have hcc := changeState_cc (ringTaken s n c) n .ringingIn .far (.inl rfl)
  unfold ringReported
  dsimp only
  rw [issue_circuit, startState, modLine_eq, State.setLine_circuit, State.circuit_congr hcc, ringTaken_circuit]

theorem ringReported_rest (s : State) (n c : Nat) : (ringReported s n c).hc = s.hc ∧ (∀ p, (ringReported s n c).alertList p = s.alertList p) ∧
    (ringReported s n c).appEntries n = s.appEntries n := by
  have htaken : (ringTaken s n c).hc = s.hc ∧ (ringTaken s n c).lc.alerts = s.lc.alerts ∧ (ringTaken s n c).lc.appIndex = s.lc.appIndex := by
    simp [ringTaken, takeCallCopy, latchContext]
  obtain ⟨hhc, halerts, hindex⟩ := htaken
  refine ⟨by simpa [ringReported, startState] using hhc, fun p => ?_, ?_⟩
  · simpa [ringReported, startState, changeState_alerts, State.alertList] using congrArg (Table.get [] · p) halerts
  · simpa [ringReported, startState, State.appEntries] using congrArg (Table.get [] · n) hindex

/-- The two events of a ring, in their order (R19, R41). -/
theorem ringReported_events (s : State) (n c : Nat) (h : (s.line n).state = .idle) (hhead : s.eu.evtHead < 256) (hread : s.eu.evtRead < 256)
    (hroom : s.eu.unread ≤ 253) :
    EventAt (ringReported s n c) s.eu.evtHead (.lineState n .idle .ringingIn .far) s.frame ∧
    EventAt (ringReported s n c) ((s.eu.evtHead + 1) % 256) (.ringAlert n c s.frame) s.frame := by
  have hframe : (ringTaken s n c).frame = s.frame := (work_ringTaken s n c).call.frame
  have heu : (ringTaken s n c).eu = s.eu := by simp [ringTaken, takeCallCopy, latchContext]
  have hchange : ((ringTaken s n c).line n).state ≠ .ringingIn := by simp [ringTaken_line, h]
  have hidle : ((ringTaken s n c).line n).state = .idle := by simp [ringTaken_line, h]
  obtain ⟨hevent, hnext⟩ := changeState_event (ringTaken s n c) n .ringingIn .far hchange (by rw [heu]; omega)
  let v := startState (changeState (ringTaken s n c) n .ringingIn .far) n .ringIn (ringFrames s)
  have hv : ringReported s n c = issue v (.ringAlert n c v.frame) := rfl
  have hvhead : v.eu.evtHead = (s.eu.evtHead + 1) % 256 := by simpa [v, startState, heu] using hnext
  have hvframe : v.frame = s.frame := by simp [v, startState, hframe]
  have hvread : v.eu.evtRead = s.eu.evtRead := by
    have := (((work_ringTaken s n c).mono (by decide : _ ⊆ [Block.events, .lc, .cc, .meter])).step
      (work_changeState _ n .ringingIn .far)).call.eu
    simp only [Prod.mk.injEq] at this
    exact this.1
  have hvroom : v.eu.unread ≤ 254 := by
    have := hroom
    simp only [EU.unread, hvhead, hvread] at this ⊢
    omega
  rw [heu, hframe, hidle] at hevent
  have hv1 : EventAt v s.eu.evtHead (.lineState n .idle .ringingIn .far) s.frame := hevent.congr (by simp [v, startState]) (by simp [v, startState])
  rw [hv, hvframe]
  refine ⟨hv1.issue (by rw [hvhead]; omega) _, ?_⟩
  have := issue_eventAt v (.ringAlert n c s.frame) hvroom
  rwa [hvhead, hvframe] at this

/-! ### A ring rejected (R41) -/

/-- The circuit of a rejected ring: released as far-held, so that a RELEASE is due (R35, R41). -/
def ringReleased (s : State) (c : Nat) : State := releaseCircuit (modCircuit s c fun r => { r with farHeld := true }) c false none

theorem rejectRing_eq (s : State) (c : Nat) (target : Option Nat) : rejectRing s c target =
    match target with
    | some n => countRejectedRing (issue (ringReleased s c) (.ringRejected c target)) n
    | none => issue (ringReleased s c) (.ringRejected c target) := rfl

/-- The far-held release is not complete before its RELEASE has been sent (R35). -/
theorem ringReleased_eq (s : State) (c : Nat) : ∃ v, ringReleased s c = relist v c ∧ CcOnly s v ∧ v.cc.sending = s.cc.sending ∧
    ∀ d, v.circuit d = if d = c then
      { s.circuit c with lastSent := .seized, desired := .idle, farHeld := false, state := .releasing, owner := none }
    else s.circuit d := by
  let v := modCircuit (modCircuit s c fun r => { r with farHeld := true }) c fun r =>
    { r with lastSent := if r.farHeld && !false then .seized else r.lastSent, desired := .idle, farHeld := false, state := .releasing
             owner := none }
  have hv : ∀ d, v.circuit d = if d = c then
      { s.circuit c with lastSent := .seized, desired := .idle, farHeld := false, state := .releasing, owner := none }
    else s.circuit d := by
    intro d
    by_cases hd : d = c <;> simp [v, hd]
  refine ⟨v, ?_, ⟨_, rfl⟩, rfl, hv⟩
  show finishRelease (relist v c) c = relist v c
  have hquiet : quiet (relist v c) c = false := by simp [quiet, hv]
  simp [finishRelease, hquiet]

theorem inTransmission_congr {s t : State} (h : t.cc.sending = s.cc.sending) (c : Nat) : inTransmission t c = inTransmission s c := by
  simp [inTransmission, h]

/-- A circuit with a message due that is not in transmission is on the pending list (R34). -/
theorem relist_mem (s : State) (c : Nat) (ht : inTransmission s c = false) (hd : (s.circuit c).desired ≠ (s.circuit c).lastSent) :
    c ∈ (relist s c).cc.pendingList := by
  unfold relist
  simp only [ht, hd, Bool.false_eq_true, if_false]
  split
  · next h => simpa using h
  · simp

/-- A circuit on the pending list at the end of a command is still on it, or its message is being sent (R34). -/
theorem settle_stillPending (b s : State) (c : Nat) (m : LinkMsg) (hc : c ∈ s.cc.pendingList)
    (hm : messageFor (s.circuit c).lastSent (s.circuit c).desired = some m) :
    c ∈ (settle b s).cc.pendingList ∨ (settle b s).cc.sending = some { circuit := c, msg := m, wentDown := false } := by
  have hcc : (settle b s).cc = (startSending (lookAgain s)).cc := by simp [settle]
  have hcircuit : (lookAgain s).circuit c = s.circuit c := State.circuit_congr (by simp) c
  have hpending : (lookAgain s).cc.pendingList = s.cc.pendingList := by simp
  rw [hcc]
  generalize lookAgain s = v at hcircuit hpending ⊢
  unfold startSending
  split
  · next x rest hsend hlist =>
    rw [← hpending, hlist] at hc
    by_cases hx : x = c
    · subst hx
      simp [hcircuit, hm]
    · have hrest : c ∈ rest := by simpa [Ne.symm hx] using hc
      left
      dsimp only
      split <;> simpa using hrest
  · left
    rw [hpending]
    exact hc

theorem work_ringReleased (s : State) (c : Nat) : Work s (ringReleased s c) [.cc, .link] :=
  ((work_modCircuit s c _).mono (by decide)).step (work_releaseCircuit _ c _ _)

theorem countRejectedRing_eq (s : State) (n : Nat) : ∃ us, countRejectedRing s n = s.setUpdates us := by
  unfold countRejectedRing
  split
  · exact formUpdate_eq s n _
  · exact ⟨s.um.updates, rfl⟩

/-- The count of a rejected ring looks at the measurement mode, the line and the update list alone. -/
theorem countRejectedRing_updates_congr {s t : State} (hum : t.um = s.um) (n : Nat) (hl : t.line n = s.line n) :
    (countRejectedRing t n).um.updates = (countRejectedRing s n).um.updates := by
  have hm : measuring t n = measuring s n := by simp only [measuring, measureEnabled, State.context, hum, hl]
  unfold countRejectedRing
  rw [hm]
  split
  · exact formUpdate_updates_congr (by rw [hum]) n _
  · rw [hum]

/-- A rejected ring changes its circuit, its place in the pending list, and the update list; then it is reported (R41). -/
theorem rejectRing_rest (s : State) (c : Nat) (target : Option Nat) :
    Work s (rejectRing s c target) [.events, .cc, .link, .um] ∧ (rejectRing s c target).cc = (ringReleased s c).cc ∧
    (rejectRing s c target).um.updates = (match target with
      | some n => (countRejectedRing s n).um.updates
      | none => s.um.updates) := by
  have hreleased : Work s (issue (ringReleased s c) (.ringRejected c target)) [.events, .cc, .link, .um] :=
    ((work_ringReleased s c).mono (by decide)).step (work_issue _ _)
  obtain ⟨v, hv, hcc, -, -⟩ := ringReleased_eq s c
  obtain ⟨l, hl⟩ := relist_eq v c
  have hrest := hcc.rest
  obtain ⟨hlc, -, -, -, -, -, -, hum, -⟩ := hrest
  have hum' : (issue (ringReleased s c) (.ringRejected c target)).um = s.um := by simp [hv, hl, hum]
  have hlc' : (issue (ringReleased s c) (.ringRejected c target)).lc = s.lc := by simp [hv, hl, hlc]
  rw [rejectRing_eq]
  cases target with
  | none => exact ⟨hreleased, by simp, by rw [hum']⟩
  | some n =>
    obtain ⟨us, hus⟩ := countRejectedRing_eq (issue (ringReleased s c) (.ringRejected c (some n))) n
    refine ⟨hreleased.step (work_countRejectedRing _ n), ?_, ?_⟩
    · simp only [hus]
      simp
    · exact countRejectedRing_updates_congr hum' n (State.line_congr hlc' n)

theorem rejectRing_event (s : State) (c : Nat) (target : Option Nat) (hu : s.eu.unread ≤ 254) :
    EventAt (rejectRing s c target) s.eu.evtHead (.ringRejected c target) s.frame := by
  obtain ⟨v, hv, hcc, -, -⟩ := ringReleased_eq s c
  obtain ⟨l, hl⟩ := relist_eq v c
  have hrest := hcc.rest
  obtain ⟨-, -, heu, -, hframe, -⟩ := hrest
  have heu' : (ringReleased s c).eu = s.eu := by simp [hv, hl, heu]
  have hframe' : (ringReleased s c).frame = s.frame := by simp [hv, hl, hframe]
  have h := issue_eventAt (ringReleased s c) (.ringRejected c target) (heu' ▸ hu)
  rw [heu', hframe'] at h
  rw [rejectRing_eq]
  cases target with
  | none => exact h
  | some n =>
    obtain ⟨us, hus⟩ := countRejectedRing_eq (issue (ringReleased s c) (.ringRejected c (some n))) n
    simp only [hus]
    exact h.congr (by simp) (by simp)

/-- Settles O31. -/
theorem ringsAreAcceptedOrRejected : Obligations.RingsAreAcceptedOrRejected := by
  intro c s hactive hheld hhead hread hroom hidle
  refine ⟨fun n htarget hline => ?_, fun target htarget hline => ?_⟩
  · have hexec : exec (.ringDetect c) s = done s (acceptRing s n c) := by
      simp [exec, execRingDetect, whenLinkActive, hactive, ringDetectOn, hidle, htarget, hline]
    have hwork : Work s (acceptRing s n c) [.events, .lc, .cc, .meter] := by
      rw [acceptRing_eq]
      exact (work_ringReported s n c).step (work_enterAlerts _ n)
    obtain ⟨hdone, hleaves⟩ := hwork.done hheld hhead s
    obtain ⟨hhc, halerts, hentries⟩ := ringReported_rest s n c
    obtain ⟨hstate, hring⟩ := ringReported_events s n c hline hhead hread hroom
    have halertsOnly := (alertsOnly_enterAlerts (ringReported s n c) n).rest
    obtain ⟨hlines, hbi, -, hmem, -, -, -, hcc, -⟩ := halertsOnly
    refine ⟨_, hexec.trans hdone, ?_, ?_, ?_, ?_, ?_, ?_, ?_, ?_, hleaves⟩
    · rw [settle_circuit, acceptRing_eq, State.circuit_congr hcc, ringReported_circuit, if_pos rfl]
    · rw [settle_line, acceptRing_eq, hlines, ringReported_line s n c n hline, if_pos rfl]
    · intro p hentry henabled hlength
      rw [settle_alertList, acceptRing_eq, enterAlerts_eq, hentries]
      refine enterAlert_foldl_mem n p _ _ hentry ?_ ?_
      · rw [State.position_congr hhc]
        exact henabled
      · rw [halerts]
        exact hlength
    · intro p hentry
      rw [settle_alertList, acceptRing_eq, enterAlerts_eq, hentries, enterAlert_foldl_other n p _ _ hentry, halerts]
    · exact (hstate.congr hbi hmem).settle hhead s
    · exact (hring.congr hbi hmem).settle (by omega) s
    · intro m hm
      rw [settle_line, acceptRing_eq, hlines, ringReported_line s n c m hline, if_neg hm]
    · intro d hd
      rw [settle_circuit, acceptRing_eq, State.circuit_congr hcc, ringReported_circuit, if_neg hd]
  · have hexec : exec (.ringDetect c) s = done s (rejectRing s c target) := by
      simp only [exec, execRingDetect, whenLinkActive, hactive, if_true, ringDetectOn, hidle]
      cases target with
      | none => simp [htarget]
      | some n => simp [htarget, hline n rfl]
    obtain ⟨hwork, hcc, hupdates⟩ := rejectRing_rest s c target
    obtain ⟨hdone, hleaves⟩ := hwork.done hheld hhead s
    obtain ⟨v, hv, -, hsending, hcircuit⟩ := ringReleased_eq s c
    have hcircuits : ∀ d, (rejectRing s c target).circuit d = v.circuit d := fun d => by
      rw [State.circuit_congr hcc, hv, relist_circuit]
    have hum := hwork.call.um
    simp only [Prod.mk.injEq] at hum
    refine ⟨_, hexec.trans hdone, ?_, ?_, ?_, ?_, ?_, hleaves⟩
    · rw [settle_circuit, hcircuits, hcircuit, if_pos rfl]
    · intro htrans
      refine settle_stillPending s (rejectRing s c target) c .release ?_ ?_
      · rw [hcc, hv]
        refine relist_mem v c ((inTransmission_congr hsending c).trans htrans) ?_
        simp [hcircuit]
      · simp [hcircuits, hcircuit, messageFor]
    · exact ⟨(settle_um_updates s _).trans (hupdates.trans (by cases target <;> rfl)), by simp [hum], by simp [hum]⟩
    · exact (rejectRing_event s c target (by omega)).settle hhead s
    · intro d hd
      rw [settle_circuit, hcircuits, hcircuit, if_neg hd]

end Rings

end Sys2Proof.Machine

namespace Sys2Proof.Machine

/-! ## Handsets dropped from a line, and the end of its call (R18, R36, R54, R55) -/

section CallEnds

variable (s : State)

/-! ### The completion of a handset change (R55, R73) -/

/-- What the completion of a handset change keeps: all but the Recording Allocator's work, events and positions. -/
structure CompletionOnly (s t : State) : Prop where
  lc    : t.lc = s.lc
  cc    : t.cc = s.cc
  um    : t.um = s.um
  su    : t.su = s.su
  mx    : t.mx = s.mx
  re    : t.re = s.re
  frame : t.frame = s.frame
  held  : t.bi.held = s.bi.held
  hands : t.hc.handsets = s.hc.handsets
  calls : t.hc.calls = s.hc.calls

theorem CompletionOnly.refl (s : State) : CompletionOnly s s := ⟨rfl, rfl, rfl, rfl, rfl, rfl, rfl, rfl, rfl, rfl⟩

theorem CompletionOnly.trans {a b c : State} (h : CompletionOnly a b) (k : CompletionOnly b c) : CompletionOnly a c :=
  ⟨k.lc.trans h.lc, k.cc.trans h.cc, k.um.trans h.um, k.su.trans h.su, k.mx.trans h.mx, k.re.trans h.re, k.frame.trans h.frame,
    k.held.trans h.held, k.hands.trans h.hands, k.calls.trans h.calls⟩

theorem completionOnly_recomputePorts (l : List Nat) : CompletionOnly s (recomputePorts s l) := by constructor <;> simp

theorem completionOnly_refreshDim (p : Nat) : CompletionOnly s (refreshDim s p) := by constructor <;> simp [refreshDim]

theorem completionOnly_refreshDims (ps : List Nat) : CompletionOnly s (ps.foldl refreshDim s) := by
  induction ps generalizing s with
  | nil => exact .refl s
  | cons p ps ih => exact (completionOnly_refreshDim s p).trans (ih _)

theorem completionOnly_complete (b : State) : CompletionOnly s (complete b s) := by
  have hmirrors : ∀ u, CompletionOnly u (postMirrors b u) := fun u => by constructor <;> simp
  unfold complete completePorts
  refine CompletionOnly.trans ?_ (hmirrors _)
  split
  · exact .refl s
  · exact (completionOnly_recomputePorts s _).trans (completionOnly_refreshDims _ _)

@[simp] theorem complete_lc (b : State) : (complete b s).lc = s.lc := (completionOnly_complete s b).lc
@[simp] theorem complete_cc (b : State) : (complete b s).cc = s.cc := (completionOnly_complete s b).cc
@[simp] theorem complete_um (b : State) : (complete b s).um = s.um := (completionOnly_complete s b).um
@[simp] theorem complete_su (b : State) : (complete b s).su = s.su := (completionOnly_complete s b).su
@[simp] theorem complete_frame (b : State) : (complete b s).frame = s.frame := (completionOnly_complete s b).frame
@[simp] theorem complete_line (b : State) (m : Nat) : (complete b s).line m = s.line m := State.line_congr (complete_lc s b) m
@[simp] theorem complete_alertList (b : State) (p : Nat) : (complete b s).alertList p = s.alertList p :=
  State.alertList_congr (complete_lc s b) p
@[simp] theorem complete_circuit (b : State) (c : Nat) : (complete b s).circuit c = s.circuit c := State.circuit_congr (complete_cc s b) c
@[simp] theorem complete_path (b : State) (m : Nat) : (complete b s).path m = s.path m := State.path_congr (complete_cc s b) m
@[simp] theorem complete_context (b : State) (m : Nat) : (complete b s).context m = s.context m := State.context_congr (complete_um s b) m
@[simp] theorem complete_handset (b : State) (p : Party) : (complete b s).handset p = s.handset p := by
  simp [State.handset, (completionOnly_complete s b).hands]
@[simp] theorem complete_call (b : State) (c : Nat) : (complete b s).call c = s.call c := by
  simp [State.call, (completionOnly_complete s b).calls]

theorem refreshDims_position (ps : List Nat) (q : Nat) (h : q ∉ ps) : (ps.foldl refreshDim s).position q = s.position q := by
  induction ps generalizing s with
  | nil => rfl
  | cons p ps ih =>
    simp only [List.mem_cons, not_or] at h
    exact (ih _ h.2).trans (by simp [refreshDim, h.1])

/-- The completion of a handset change keeps the record of a position of which no handset's current set has changed (R73). -/
theorem complete_position (b : State) (q : Nat)
    (h : ∀ i, i / 2 = q → (Table.get HandsetRec.cold b.hc.handsets i).current = (Table.get HandsetRec.cold s.hc.handsets i).current) :
    (complete b s).position q = s.position q := by
  have hnot : q ∉ (changedPorts b s).map (· / 4) := by
    simp only [changedPorts, List.map_map, List.mem_map, List.mem_filter, Function.comp_apply, decide_eq_true_eq, not_exists, not_and]
    intro i hi hq
    exact hi.2 (h i (by omega))
  show (completePorts b s).position q = s.position q
  unfold completePorts
  split
  · rfl
  · rw [refreshDims_position _ _ q hnot]
    simp

theorem OnlyHandsets.refl (ps : List Party) : OnlyHandsets s s ps := ⟨fun _ _ => rfl, fun _ _ => rfl, rfl⟩

theorem OnlyHandsets.congr {s t u : State} {ps : List Party} (h : OnlyHandsets s t ps) (hhc : u.hc = t.hc) : OnlyHandsets s u ps where
  handsets q hq := (State.handset_congr hhc q).trans (h.handsets q hq)
  positions q hq := (State.position_congr hhc q).trans (h.positions q hq)
  calls := (congrArg HC.calls hhc).trans h.calls

theorem OnlyHandsets.trans {s t u : State} {ps : List Party} (h : OnlyHandsets s t ps) (k : OnlyHandsets t u ps) : OnlyHandsets s u ps where
  handsets q hq := (k.handsets q hq).trans (h.handsets q hq)
  positions q hq := (k.positions q hq).trans (h.positions q hq)
  calls := k.calls.trans h.calls

theorem OnlyHandsets.mono {s t : State} {ps qs : List Party} (h : OnlyHandsets s t ps) (hs : ps ⊆ qs) : OnlyHandsets s t qs where
  handsets q hq := h.handsets q fun p hp => hq p (hs hp)
  positions q hq := h.positions q fun p hp => hq p (hs hp)
  calls := h.calls

/-- The record at a place is that of the handset there. -/
theorem handset_at (i : Nat) : Table.get HandsetRec.cold s.hc.handsets i = s.handset { pos := i / 2, hs := i % 2 } := by
  have : 2 * (i / 2) + i % 2 = i := by omega
  simp [State.handset, this]

/-- Completion after a change of some handsets touches their positions alone (R73). -/
theorem OnlyHandsets.complete {s u : State} {ps : List Party} (h : OnlyHandsets s u ps) : OnlyHandsets s (complete s u) ps where
  handsets q hq := (complete_handset u s q).trans (h.handsets q hq)
  positions q hq := by
    rw [complete_position, h.positions q hq]
    intro i hi
    rw [handset_at, handset_at, h.handsets]
    intro p hp heq
    refine hq p hp ?_
    simp only [Party.place] at heq ⊢
    omega
  calls := (completionOnly_complete u s).calls.trans h.calls

theorem onlyHandsets_modHandset (p : Party) (f : HandsetRec → HandsetRec) : OnlyHandsets s (modHandset s p f) [p] where
  handsets q hq := by
    have := hq p (by simp)
    simp only [Party.place] at this
    simp [State.setHandset_handset, this]
  positions q _ := by simp
  calls := rfl

/-! ### Drops (R54) -/

/-- A handset's record without a line. -/
def HandsetRec.without (h : HandsetRec) (n : Nat) : HandsetRec :=
  { current := h.current.filter (· ≠ .line n), hold := h.hold.filter (· ≠ n) }

theorem HandsetRec.without_without (h : HandsetRec) (n : Nat) : (h.without n).without n = h.without n := by
  simp [HandsetRec.without, List.filter_filter]

theorem HandsetRec.notMem_without (h : HandsetRec) (n : Nat) : CurEntry.line n ∉ (h.without n).current ∧ n ∉ (h.without n).hold := by
  simp [HandsetRec.without]

theorem hcDrop_handset (p : Party) (n : Nat) (q : Party) :
    (hcDrop s p n).handset q = if q.place = p.place then (s.handset q).without n else s.handset q := by
  by_cases h : q.place = p.place
  · have hsame : s.handset q = s.handset p := congrArg (Table.get HandsetRec.cold s.hc.handsets) h
    have hplace := h
    simp only [Party.place] at hplace
    simp [hcDrop, h, State.setHandset_handset, hplace, HandsetRec.without, hsame]
  · have hplace := h
    simp only [Party.place] at hplace
    simp [hcDrop, h, State.setHandset_handset, hplace]

/-- The drops of some handsets from a line. -/
theorem hcDrops_handset (ps : List Participant) (n : Nat) (q : Party) :
    (ps.foldl (fun s e => hcDrop s e.party n) s).handset q =
      if ∃ e ∈ ps, q.place = e.party.place then (s.handset q).without n else s.handset q := by
  induction ps generalizing s with
  | nil => simp
  | cons e ps ih =>
    rw [List.foldl_cons, ih, hcDrop_handset]
    by_cases he : q.place = e.party.place <;> simp [he, HandsetRec.without_without]

theorem onlyHandsets_hcDrops (ps : List Participant) (n : Nat) :
    OnlyHandsets s (ps.foldl (fun s e => hcDrop s e.party n) s) (ps.map (·.party)) := by
  induction ps generalizing s with
  | nil => exact .refl s _
  | cons e ps ih =>
    exact ((onlyHandsets_modHandset s e.party _).mono (by simp)).trans ((ih (hcDrop s e.party n)).mono (by simp))

/-- Only handsets' records differ. -/
def HandsetsOnly (s t : State) : Prop := ∃ x, t = { s with hc := { s.hc with handsets := x } }

theorem handsetsOnly_hcDrops (ps : List Participant) (n : Nat) : HandsetsOnly s (ps.foldl (fun s e => hcDrop s e.party n) s) := by
  induction ps generalizing s with
  | nil => exact ⟨_, rfl⟩
  | cons e ps ih =>
    obtain ⟨x, hx⟩ := ih (hcDrop s e.party n)
    exact ⟨x, hx⟩

/-- Every participant's drop: the handsets, then the line's list (R7, R54). -/
theorem dropAll_eq (n : Nat) : ∃ v, dropAll s n = modLine v n (fun l => { l with participants := [], setter := none }) ∧ HandsetsOnly s v ∧
    OnlyHandsets s v ((s.line n).participants.map (·.party)) ∧
    ∀ e ∈ (s.line n).participants, CurEntry.line n ∉ (v.handset e.party).current ∧ n ∉ (v.handset e.party).hold := by
  refine ⟨_, rfl, handsetsOnly_hcDrops s _ n, onlyHandsets_hcDrops s _ n, fun e he => ?_⟩
  rw [hcDrops_handset, if_pos ⟨e, he, rfl⟩]
  exact HandsetRec.notMem_without _ n

theorem dropAllComplete_line (n m : Nat) : (dropAllComplete s n).line m =
    if m = n then { s.line n with participants := [], setter := none } else s.line m := by
  obtain ⟨v, hv, ⟨x, rfl⟩, -⟩ := dropAll_eq s n
  rw [dropAllComplete, complete_line, hv, modLine_eq, State.setLine_line]
  rfl

@[simp] theorem dropAllComplete_cc (n : Nat) : (dropAllComplete s n).cc = s.cc := by
  obtain ⟨v, hv, ⟨x, rfl⟩, -⟩ := dropAll_eq s n
  rw [dropAllComplete, complete_cc, hv]
  rfl
@[simp] theorem dropAllComplete_um (n : Nat) : (dropAllComplete s n).um = s.um := by
  obtain ⟨v, hv, ⟨x, rfl⟩, -⟩ := dropAll_eq s n
  rw [dropAllComplete, complete_um, hv]
  rfl
@[simp] theorem dropAllComplete_frame (n : Nat) : (dropAllComplete s n).frame = s.frame := (work_dropAllComplete s n).call.frame
@[simp] theorem dropAllComplete_su (n : Nat) : (dropAllComplete s n).su = s.su := (work_dropAllComplete s n).call.su
@[simp] theorem dropAllComplete_alerts (n : Nat) : (dropAllComplete s n).lc.alerts = s.lc.alerts := by
  obtain ⟨v, hv, ⟨x, rfl⟩, -⟩ := dropAll_eq s n
  rw [dropAllComplete, complete_lc, hv]
  rfl
@[simp] theorem dropAllComplete_circuit (n c : Nat) : (dropAllComplete s n).circuit c = s.circuit c :=
  State.circuit_congr (dropAllComplete_cc s n) c
@[simp] theorem dropAllComplete_context (n m : Nat) : (dropAllComplete s n).context m = s.context m :=
  State.context_congr (dropAllComplete_um s n) m

/-- What a drop of all participants does to handsets: theirs lose the line, and no other handset or position is touched (R54). -/
theorem dropAllComplete_handsets (n : Nat) : OnlyHandsets s (dropAllComplete s n) ((s.line n).participants.map (·.party)) ∧
    ∀ e ∈ (s.line n).participants,
      CurEntry.line n ∉ ((dropAllComplete s n).handset e.party).current ∧ n ∉ ((dropAllComplete s n).handset e.party).hold := by
  obtain ⟨v, hv, -, honly, hnot⟩ := dropAll_eq s n
  have hhc : (dropAll s n).hc = v.hc := by rw [hv]; rfl
  refine ⟨(honly.congr hhc).complete, fun e he => ?_⟩
  rw [dropAllComplete, complete_handset, State.handset_congr hhc]
  exact hnot e he

/-! ### Entry to CLEARING (R18) -/

/-- The circuit that a line takes into CLEARING is released as its own (R18, R35). -/
def circuitKept (n : Nat) (byFarClear : Bool) : State :=
  match (s.line n).active with
  | some c => releaseCircuit s c byFarClear (some n)
  | none => s

theorem ccOnly_circuitKept (n : Nat) (b : Bool) : CcOnly s (circuitKept s n b) := by
  unfold circuitKept
  split
  · exact ccOnly_releaseCircuit s _ b _
  · exact ⟨s.cc, rfl⟩

theorem enterClearing_eq (n : Nat) (why : ReleaseCause) (cause : StateCause) (b : Bool) : enterClearing s n why cause b =
    changeState (startState (callEnd (circuitKept s n b) n why) n .guard Config.guardFrames) n .clearing cause := rfl

theorem enterClearing_circuit (n : Nat) (why : ReleaseCause) (cause : StateCause) (b : Bool) (d : Nat) :
    (enterClearing s n why cause b).circuit d = (circuitKept s n b).circuit d := by
  rw [enterClearing_eq, State.circuit_congr (changeState_cc _ n .clearing cause (.inl rfl))]
  simp [startState]

/-- The active circuit of a line that enters CLEARING, and every other circuit (R35). -/
theorem circuitKept_circuit (n c d : Nat) (b : Bool) (h : (s.line n).active = some c) : (circuitKept s n b).circuit d =
    if d = c then (s.circuit c).releasing b (some n) else s.circuit d := by
  rw [circuitKept, h]
  exact releaseCircuit_circuit_owned s c n b d

theorem enterClearing_line (n : Nat) (why : ReleaseCause) (cause : StateCause) (b : Bool) (m : Nat) (h : (s.line n).state ≠ .clearing) :
    (enterClearing s n why cause b).line m =
      if m = n then { clearingAfter (s.line n) (s.frame + 8000#48) s.frame with participants := (s.line n).participants } else s.line m := by
  obtain ⟨hlc, -, -, -, hframe, -⟩ := (ccOnly_circuitKept s n b).rest
  have hline : ∀ k, (circuitKept s n b).line k = s.line k := fun k => State.line_congr hlc k
  rw [enterClearing_eq, changeState_line]
  by_cases hm : m = n
  · simp [hm, startState, hline, LineRec.callEnded, LineRec.changedTo, h, clearingAfter, LineState.keepsSetter, LineState.atRest, after, hframe,
      Config.guardFrames]
  · simp [hm, startState, hline]

theorem enterClearing_rest (n : Nat) (why : ReleaseCause) (cause : StateCause) (b : Bool) :
    (enterClearing s n why cause b).context n = none ∧ (enterClearing s n why cause b).um.updates = updatesAfter s n id ∧
    (enterClearing s n why cause b).hc = s.hc ∧ ∀ p, (enterClearing s n why cause b).alertList p = s.alertList p := by
  obtain ⟨hlc, -, -, -, hframe, hhc, -, hum, -⟩ := (ccOnly_circuitKept s n b).rest
  have hupd : updatesAfter (circuitKept s n b) n id = updatesAfter s n id :=
    updatesAfter_congr n id (State.context_congr hum n) (by rw [hum]) hframe
  rw [enterClearing_eq]
  refine ⟨?_, ?_, ?_, fun p => ?_⟩
  · simpa [startState] using callEnd_context (circuitKept s n b) n why
  · simpa [startState, hupd] using callEnd_updates (circuitKept s n b) n why
  · simpa [startState] using hhc
  · simpa [startState] using State.alertList_congr hlc p

/-! ### The end of a ring (R15, R41) -/

theorem ringEnds_line (n : Nat) (why : ReleaseCause) (cause : StateCause) (m : Nat) (h : (s.line n).state = .ringingIn) :
    (ringEnds s n why cause).line m = if m = n then { idleAfter (s.line n) s.frame with active := (s.line n).active } else s.line m := by
  unfold ringEnds
  rw [changeState_line]
  by_cases hm : m = n
  · simp [hm, countUnanswered, LineRec.callEnded, LineRec.changedTo, h, idleAfter, LineState.keepsSetter, LineState.atRest]
  · simp [hm, countUnanswered]

theorem ringEnds_rest (n : Nat) (why : ReleaseCause) (cause : StateCause) :
    (ringEnds s n why cause).context n = none ∧ (ringEnds s n why cause).um.updates = updatesAfter s n unansweredOf ∧
    (ringEnds s n why cause).hc = s.hc ∧ ∀ p, n ∉ (ringEnds s n why cause).alertList p := by
  have hupd : updatesAfter (countUnanswered (leaveAlerts s n) n) n id = updatesAfter s n unansweredOf := by
    refine updatesAfter_modContext n unansweredOf ?_ (fun _ => rfl) (by simp [countUnanswered]) (by simp [countUnanswered])
    rw [countUnanswered, modContext_context, if_pos rfl, leaveAlerts_context]
    rfl
  unfold ringEnds
  refine ⟨?_, ?_, ?_, fun p => ?_⟩
  · simpa using callEnd_context (countUnanswered (leaveAlerts s n) n) n why
  · simpa [hupd] using callEnd_updates (countUnanswered (leaveAlerts s n) n) n why
  · simp [countUnanswered]
  · simpa [countUnanswered] using leaveAlerts_notMem s n p

/-- The fields of a circuit that no naming touches. -/
theorem ringEnds_circuit (n : Nat) (why : ReleaseCause) (cause : StateCause) (c : Nat) :
    ∃ b : Bool, (ringEnds s n why cause).circuit c = s.circuit c ∨ (ringEnds s n why cause).circuit c = (s.circuit c).renamed b := by
  obtain ⟨b, h⟩ := changeState_circuit (callEnd (countUnanswered (leaveAlerts s n) n) n why) n .idle cause c
  refine ⟨b, ?_⟩
  have hcircuit : (callEnd (countUnanswered (leaveAlerts s n) n) n why).circuit c = s.circuit c := by simp [countUnanswered]
  rw [hcircuit] at h
  exact h.imp id And.right

theorem work_countUnanswered (n : Nat) : Work s (countUnanswered s n) [] := work_modContext s n _

theorem work_ringEnds (n : Nat) (why : ReleaseCause) (cause : StateCause) : Work s (ringEnds s n why cause) [.events, .lc, .cc, .um] := by
  unfold ringEnds
  exact ((((work_leaveAlerts s n).mono (by decide)).step (work_countUnanswered _ n)).step (work_callEnd _ n why)).step
    (work_changeState _ n _ cause)

/-- LINE_RELEASED and then LINE_STATE are reported when a ring ends (R19, R119). -/
theorem ringEnds_events (n : Nat) (why : ReleaseCause) (cause : StateCause) (h : (s.line n).state = .ringingIn) (hhead : s.eu.evtHead < 256)
    (hread : s.eu.evtRead < 256) (hroom : s.eu.unread ≤ 253) :
    (∃ d, EventAt (ringEnds s n why cause) s.eu.evtHead (.lineReleased n why d) s.frame) ∧
    EventAt (ringEnds s n why cause) ((s.eu.evtHead + 1) % 256) (.lineState n .ringingIn .idle cause) s.frame := by
  let v := countUnanswered (leaveAlerts s n) n
  have hveu : v.eu = s.eu := by simp [v, countUnanswered]
  have hvframe : v.frame = s.frame := by simp [v, countUnanswered]
  have hu : ringEnds s n why cause = changeState (callEnd v n why) n .idle cause := rfl
  obtain ⟨⟨d, hreleased⟩, hhead', hread'⟩ := callEnd_event v n why (by rw [hveu]; omega)
  have hstate : ((callEnd v n why).line n).state = .ringingIn := by simp [v, countUnanswered, LineRec.callEnded, h]
  have hchange : ((callEnd v n why).line n).state ≠ .idle := by
    rw [hstate]
    simp
  obtain ⟨w, hw, hcalls, -⟩ := changeState_eq (callEnd v n why) n .idle cause hchange
  obtain ⟨hbi, heu, hmem, hframe, -⟩ := hcalls.rest
  rw [hveu] at hhead' hread'
  have hweu : w.eu.evtHead = (s.eu.evtHead + 1) % 256 := by rw [heu, hhead']
  have hwroom : w.eu.unread ≤ 254 := by
    have := hroom
    simp only [EU.unread, heu, hhead', hread'] at this ⊢
    omega
  rw [hu, hw, hstate]
  constructor
  · refine ⟨d, EventAt.issue ?_ (by rw [hweu]; omega) _⟩
    rw [hveu, hvframe] at hreleased
    exact hreleased.congr hbi hmem
  · have := issue_eventAt w (.lineState n .ringingIn .idle cause) hwroom
    rwa [hweu, hframe, callEnd_frame, hvframe] at this

/-! ### A circuit given up (R35) -/

theorem giveUpCircuit_line (n : Nat) (b : Bool) (m : Nat) : (giveUpCircuit s n b).line m =
    if m = n then { s.line n with active := none } else s.line m := by
  unfold giveUpCircuit
  by_cases hm : m = n
  · cases h : (s.line n).active with
    | none =>
      rw [if_pos hm, hm]
      dsimp only
      rw [← h]
    | some c => simp [clearActive, hm]
  · cases h : (s.line n).active with
    | none => simp [hm]
    | some c => simp [clearActive, hm]

/-- What remains of a circuit that was given up (R35). -/
structure GivenUp (r r' : CircuitRec) : Prop where
  owner   : r'.owner = none
  farHeld : r'.farHeld = false
  desired : r'.desired = .idle

theorem giveUpCircuit_circuit (n c : Nat) (b : Bool) (h : (s.line n).active = some c) :
    GivenUp (s.circuit c) ((giveUpCircuit s n b).circuit c) := by
  obtain ⟨st, -, hc⟩ := releaseCircuit_circuit_unowned s c b
  have : (giveUpCircuit s n b).circuit c = (releaseCircuit s c b none).circuit c := by simp [giveUpCircuit, h, clearActive]
  rw [this, hc]
  exact ⟨rfl, rfl, rfl⟩

theorem GivenUp.renamed {r r' : CircuitRec} (h : GivenUp r r') (b : Bool) : GivenUp r (r'.renamed b) :=
  ⟨by simp [h.owner], by simp [h.farHeld], by simp [h.desired]⟩

theorem giveUpCircuit_rest (n : Nat) (b : Bool) : (giveUpCircuit s n b).um = s.um ∧ (giveUpCircuit s n b).hc = s.hc ∧
    (giveUpCircuit s n b).eu = s.eu ∧ (giveUpCircuit s n b).frame = s.frame ∧ (giveUpCircuit s n b).lc.alerts = s.lc.alerts := by
  unfold giveUpCircuit
  split
  · next c _ =>
    obtain ⟨hlc, -, heu, -, hframe, hhc, -, hum, -⟩ := (ccOnly_releaseCircuit s c b none).rest
    simp [clearActive, hlc, heu, hframe, hhc]
  · simp

end CallEnds

end Sys2Proof.Machine

namespace Sys2Proof.Machine

/-! ## Unanswered calls, far clears, forced releases (R24, R37, R41, R44; O41, O32, O51) -/

section EndedCalls

/-! ### NO_ANSWER and RING_IN (O41) -/

theorem CallWork.updatesAre {s u : State} {us : List UpdateRec} (h : CallWork s u) (hu : u.um.updates = us) (b : State) :
    UpdatesAre s (settle b u) us := by
  have hum := h.um
  simp only [Prod.mk.injEq] at hum
  exact ⟨by rw [settle_um_updates, hu], by simp [hum], by simp [hum]⟩

/-- The state in which a call ends that nobody answered: its handsets dropped, its circuit given up (R37). -/
def unansweredState (s : State) (n : Nat) : State := giveUpCircuit (countUnanswered (dropAllComplete s n) n) n false

theorem noAnswerExpires_eq (s : State) (n : Nat) :
    noAnswerExpires s n = changeState (callEnd (unansweredState s n) n .noAnswer) n .idle .timer := rfl

theorem work_noAnswerExpires (s : State) (n : Nat) : Work s (noAnswerExpires s n) [.events, .alarms, .lc, .cc, .link, .hc, .ra, .um] := by
  have hended : Work s (unansweredState s n) [.events, .alarms, .lc, .cc, .link, .hc, .ra, .um] :=
    (((work_dropAllComplete s n).mono (by decide)).step (work_countUnanswered _ n)).step (work_giveUpCircuit _ n false)
  rw [noAnswerExpires_eq]
  exact (hended.step (work_callEnd _ n _)).step (work_changeState _ n _ _)

theorem unansweredState_line (s : State) (n m : Nat) : (unansweredState s n).line m =
    if m = n then { s.line n with participants := [], setter := none, active := none } else s.line m := by
  rw [unansweredState, giveUpCircuit_line]
  by_cases hm : m = n <;> simp [hm, countUnanswered, dropAllComplete_line]

theorem unansweredState_rest (s : State) (n : Nat) : (unansweredState s n).hc = (dropAllComplete s n).hc ∧
    (unansweredState s n).frame = s.frame ∧ updatesAfter (unansweredState s n) n id = updatesAfter s n unansweredOf := by
  obtain ⟨hum, hhc, -, hframe, -⟩ := giveUpCircuit_rest (countUnanswered (dropAllComplete s n) n) n false
  have hcount : (countUnanswered (dropAllComplete s n) n).frame = s.frame := by simp [countUnanswered]
  refine ⟨hhc.trans (by simp [countUnanswered]), hframe.trans hcount, ?_⟩
  refine updatesAfter_modContext n unansweredOf ?_ (fun _ => rfl) ?_ (hframe.trans hcount)
  · rw [unansweredState, State.context_congr hum, countUnanswered, modContext_context, if_pos rfl, dropAllComplete_context]
    rfl
  · rw [unansweredState, hum]
    simp [countUnanswered]

/-- Settles O41: the expiry of either timer ends the call, and the circuit is given up. -/
theorem unansweredCallsEnd : Obligations.UnansweredCallsEnd := by
  intro n c s hheld hhead hactive
  refine ⟨fun hdue hstate => ?_, fun hdue hstate => ?_⟩
  · have hexec : exec (.noAnswer n) s = done s (noAnswerExpires s n) := by simp [exec, execNoAnswer, hdue]
    have hwork := work_noAnswerExpires s n
    obtain ⟨hdone, hleaves⟩ := hwork.done hheld hhead s
    obtain ⟨hhc, hframe, hupdates⟩ := unansweredState_rest s n
    obtain ⟨honly, hdropped⟩ := dropAllComplete_handsets s n
    have hhc' : (noAnswerExpires s n).hc = (dropAllComplete s n).hc := by
      rw [noAnswerExpires_eq, changeState_hc, callEnd_hc, hhc]
    have hcircuit : GivenUp (s.circuit c) ((unansweredState s n).circuit c) := by
      have := giveUpCircuit_circuit (countUnanswered (dropAllComplete s n) n) n c false
        (by simp [countUnanswered, dropAllComplete_line, hactive])
      have hsame : (countUnanswered (dropAllComplete s n) n).circuit c = s.circuit c := by simp [countUnanswered]
      rwa [hsame] at this
    obtain ⟨howner, hdesired, -, hfar⟩ := changeState_circuit_fields (callEnd (unansweredState s n) n .noAnswer) n .idle .timer c
    refine ⟨_, hexec.trans hdone, ?_, ?_, (honly.congr hhc').congr (settle_hc s _), ?_, ?_, ?_, ?_, ?_, ?_, hleaves.mono (by decide)⟩
    · rw [settle_line, noAnswerExpires_eq, changeState_line, if_pos ⟨rfl, by simp [unansweredState_line, LineRec.callEnded, hstate]⟩]
      simp [LineRec.callEnded, LineRec.changedTo, unansweredState_line, hframe, hstate, idleAfter, LineState.keepsSetter, LineState.atRest]
    · intro e he
      rw [settle_handset, State.handset_congr hhc']
      exact hdropped e he
    · rw [settle_circuit, noAnswerExpires_eq, howner, callEnd_circuit, hcircuit.owner]
    · rw [settle_circuit, noAnswerExpires_eq, hfar, callEnd_circuit, hcircuit.farHeld]
    · rw [settle_circuit, noAnswerExpires_eq, hdesired, callEnd_circuit, hcircuit.desired]
    · refine settle_context_none _ s n ?_
      rw [noAnswerExpires_eq, changeState_context]
      exact callEnd_context _ _ _
    · refine hwork.call.updatesAre ?_ s
      rw [noAnswerExpires_eq, changeState_um, callEnd_updates, hupdates]
    · intro m hm
      rw [settle_line, noAnswerExpires_eq, changeState_line, if_neg (by simp [hm]), callEnd_line, if_neg hm, unansweredState_line, if_neg hm]
  · have hexec : exec (.ringIn n) s = done s (ringInExpires s n) := by simp [exec, execRingIn, hdue]
    let v := giveUpCircuit s n false
    have hv : ringInExpires s n = ringEnds v n .noAnswer .timer := rfl
    have hwork : Work s (ringInExpires s n) [.events, .lc, .cc, .link, .um] :=
      ((work_giveUpCircuit s n false).mono (by decide)).step (work_ringEnds _ n _ _)
    obtain ⟨hdone, hleaves⟩ := hwork.done hheld hhead s
    obtain ⟨hum, hhc, -, hframe, -⟩ := giveUpCircuit_rest s n false
    have hline : ∀ m, v.line m = if m = n.val then { s.line n with active := none } else s.line m := giveUpCircuit_line s n false
    have hringing : (v.line n).state = .ringingIn := by simp [hline, hstate]
    obtain ⟨hcontext, hupdates, -, halerts⟩ := ringEnds_rest v n .noAnswer .timer
    have hcircuit : GivenUp (s.circuit c) ((ringInExpires s n).circuit c) := by
      obtain ⟨b, hb | hb⟩ := ringEnds_circuit v n .noAnswer .timer c
      · rw [hv, hb]
        exact giveUpCircuit_circuit s n c false hactive
      · rw [hv, hb]
        exact (giveUpCircuit_circuit s n c false hactive).renamed b
    refine ⟨_, hexec.trans hdone, ?_, fun p => ?_, ?_, ?_, ?_, settle_context_none _ s n hcontext, ?_, ?_, hleaves.mono (by decide)⟩
    · rw [settle_line, hv, ringEnds_line v n _ _ n hringing, if_pos rfl, hline, if_pos rfl, hframe]
      simp [idleAfter]
    · rw [settle_alertList]
      exact halerts p
    · rw [settle_circuit, hcircuit.owner]
    · rw [settle_circuit, hcircuit.farHeld]
    · rw [settle_circuit, hcircuit.desired]
    · refine hwork.call.updatesAre ?_ s
      rw [hv, hupdates]
      exact updatesAfter_congr n _ (State.context_congr hum n) (by rw [hum]) hframe
    · intro m hm
      rw [settle_line, hv, ringEnds_line v n _ _ m hringing, if_neg hm, hline, if_neg hm]

/-! ### FAR_CLEAR of a line that is not NAILED (O32) -/

theorem freeRinging_circuit (s : State) (c d : Nat) : (freeRinging s c).circuit d = if d = c then
      { s.circuit c with
        owner := none, farHeld := false, desired := .idle
        state := if isNamed (freeRinging s c) c then .idle else .uninstalled }
    else s.circuit d := by
  have hnamed : isNamed (relist (modCircuit s c fun r => { r with owner := none, farHeld := false, desired := .idle }) c) c =
      isNamed (freeRinging s c) c := rfl
  unfold freeRinging at hnamed ⊢
  rw [enterIdle_circuit, hnamed]
  by_cases hd : d = c <;> simp [hd]

theorem freeRinging_rest (s : State) (c : Nat) : CcOnly s (freeRinging s c) ∧ (freeRinging s c).cc.sending = s.cc.sending := by
  obtain ⟨l, hl⟩ := relist_eq (modCircuit s c fun r => { r with owner := none, farHeld := false, desired := .idle }) c
  unfold freeRinging
  rw [hl]
  exact ⟨⟨_, rfl⟩, rfl⟩

theorem relist_notMem (s : State) (c : Nat) (ht : inTransmission s c = false) (hd : (s.circuit c).desired = (s.circuit c).lastSent) :
    c ∉ (relist s c).cc.pendingList := by simp [relist, ht, hd]

theorem freeRinging_notMem (s : State) (c : Nat) (ht : inTransmission s c = false) (hsent : (s.circuit c).lastSent = .idle) :
    c ∉ (freeRinging s c).cc.pendingList := by
  have := relist_notMem (modCircuit s c fun r => { r with owner := none, farHeld := false, desired := .idle }) c
    ((inTransmission_congr rfl c).trans ht) (by simp [hsent])
  simpa [freeRinging] using this

theorem work_freeRinging (s : State) (c : Nat) : Work s (freeRinging s c) [.cc, .link] :=
  ((((work_modCircuit s c _).mono (by decide)).step (work_relist _ c)).step (work_enterIdle _ c))

/-- A circuit that nothing is due on and that is not in transmission is in neither place after a command (R34). -/
theorem settle_notPending (b s : State) (c : Nat) (hc : c ∉ s.cc.pendingList) (ht : inTransmission s c = false) :
    c ∉ (settle b s).cc.pendingList ∧ inTransmission (settle b s) c = false := by
  have hcc : (settle b s).cc = (startSending (lookAgain s)).cc := by simp [settle]
  have hpending : (lookAgain s).cc = s.cc := by simp
  have ht' : inTransmission (lookAgain s) c = false := (inTransmission_congr (by rw [hpending]) c).trans ht
  rw [hcc, inTransmission_congr (congrArg CC.sending hcc) c]
  rw [← hpending] at hc
  generalize lookAgain s = v at hc ht' ⊢
  unfold startSending
  split
  · next x rest hsend hlist =>
    rw [hlist] at hc
    obtain ⟨hx, hrest⟩ := not_or.mp (mt List.mem_cons.mpr hc)
    dsimp only
    split
    · exact ⟨by simpa using hrest, by simp [inTransmission, Ne.symm hx]⟩
    · exact ⟨by simpa using hrest, by simp [inTransmission, hsend]⟩
  · exact ⟨hc, ht'⟩

theorem renameCircuit_pendingList (s : State) (c : Nat) : (renameCircuit s c).cc.pendingList = s.cc.pendingList := by
  unfold renameCircuit
  split <;> rfl

theorem dropCallCopy_pendingList (s : State) (n : Nat) : (dropCallCopy s n).cc.pendingList = s.cc.pendingList := by
  unfold dropCallCopy
  split
  · rfl
  · exact foldl_keeps (fun s => s.cc.pendingList) renameCircuit renameCircuit_pendingList _ _

/-- A change of state, even one that ends a call copy, puts no circuit on the pending list and takes none off it. -/
theorem changeState_pendingList (s : State) (n : Nat) (new : LineState) (cause : StateCause) :
    (changeState s n new cause).cc.pendingList = s.cc.pendingList := by
  unfold changeState
  dsimp only
  split
  · rfl
  · rw [issue_cc]
    split
    · exact dropCallCopy_pendingList _ n
    · rfl

theorem ringEnds_pendingList (s : State) (n : Nat) (why : ReleaseCause) (cause : StateCause) :
    (ringEnds s n why cause).cc.pendingList = s.cc.pendingList := by
  rw [ringEnds, changeState_pendingList, callEnd_cc]
  simp [countUnanswered]

/-- A far clear of an owned circuit whose seizure has been sent is work on its owner's call (R44). -/
theorem farClear_exec {s : State} {c : Fin 256} {n : Nat} (hactive : linkActive s = true) (howner : (s.circuit c).owner = some n)
    (hstate : (s.circuit c).state = .inUse ∨ ((s.circuit c).state = .seizing ∧ seizeSent (s.circuit c) = true)) :
    exec (.farClear c) s = done s (clearCall s n c (s.line n)) := by
  have hown : ownerLine s c = some (n, s.line n) := by simp [ownerLine, howner]
  rcases hstate with h | ⟨h, hsent⟩
  · simp [exec, execFarClear, whenLinkActive, hactive, farClearOn, h, hown]
  · simp [exec, execFarClear, whenLinkActive, hactive, farClearOn, h, hown, hsent]

/-- The state in which a ring that the far end clears ends: its circuit is free (R44). -/
def ringCleared (s : State) (n c : Nat) : State := clearActive (freeRinging s c) n

theorem ringCleared_line (s : State) (n c m : Nat) : (ringCleared s n c).line m =
    if m = n then { s.line n with active := none } else s.line m := by
  obtain ⟨hlc, -⟩ := (freeRinging_rest s c).1.rest
  have hline : ∀ k, (freeRinging s c).line k = s.line k := fun k => State.line_congr hlc k
  by_cases hm : m = n <;> simp [ringCleared, clearActive, hm, hline]

/-- The end of a ring by a far clear (R44). -/
theorem farClear_ringingIn {s : State} {c : Fin 256} {n : Nat} (hheld : s.bi.held = []) (hhead : s.eu.evtHead < 256)
    (hread : s.eu.evtRead < 256) (hroom : s.eu.unread ≤ 253) (hline : (s.line n).state = .ringingIn) :
    let t := settle s (ringEnds (ringCleared s n c) n .far .far)
    done s (ringEnds (ringCleared s n c) n .far .far) = .next t ∧ t.line n = idleAfter (s.line n) s.frame ∧ (t.circuit c).owner = none ∧
    (t.circuit c).farHeld = false ∧ (t.circuit c).desired = .idle ∧
    ((t.circuit c).state = .idle ∨ (t.circuit c).state = .uninstalled) ∧ (t.circuit c).lastSent = (s.circuit c).lastSent ∧
    ((s.circuit c).lastSent = .idle → inTransmission s c = false → c.val ∉ t.cc.pendingList ∧ inTransmission t c = false) ∧
    (∀ p, n ∉ t.alertList p) ∧
    (∃ duration, EventAt t s.eu.evtHead (.lineReleased n .far duration) s.frame) ∧
    EventAt t ((s.eu.evtHead + 1) % 256) (.lineState n .ringingIn .idle .far) s.frame ∧ t.context n = none ∧
    UpdatesAre s t (updatesAfter s n unansweredOf) ∧
    (∀ m, m ≠ n → t.line m = s.line m) ∧ Leaves s t [.events, .lc, .cc, .link, .um, .meter] := by
  intro t
  obtain ⟨hcc, hsending⟩ := freeRinging_rest s c
  obtain ⟨hlc, -, heu, -, hframe, hhc, -, hum, -⟩ := hcc.rest
  have hveu : (ringCleared s n c).eu = s.eu := heu
  have hvframe : (ringCleared s n c).frame = s.frame := hframe
  have hvum : (ringCleared s n c).um = s.um := hum
  have hringing : ((ringCleared s n c).line n).state = .ringingIn := by simp [ringCleared_line, hline]
  have hwork : Work s (ringEnds (ringCleared s n c) n .far .far) [.events, .lc, .cc, .link, .um] :=
    (((work_freeRinging s c).mono (by decide)).step (work_clearActive _ n)).step (work_ringEnds _ n _ _)
  obtain ⟨hdone, hleaves⟩ := hwork.done hheld hhead s
  obtain ⟨hcontext, hupdates, -, halerts⟩ := ringEnds_rest (ringCleared s n c) n .far .far
  obtain ⟨⟨d, hreleased⟩, hevent⟩ := ringEnds_events (ringCleared s n c) n .far .far hringing (hveu ▸ hhead) (hveu ▸ hread) (hveu ▸ hroom)
  have hfree : (ringCleared s n c).circuit c = (freeRinging s c).circuit c := by simp [ringCleared, clearActive]
  -- Naming may move the circuit between IDLE and UNINSTALLED once more, when the line's call copy ends (R3, R28).
  have hcircuit : ∃ st, (st = CircuitState.idle ∨ st = .uninstalled) ∧ (ringEnds (ringCleared s n c) n .far .far).circuit c =
      { s.circuit c with owner := none, farHeld := false, desired := .idle, state := st } := by
    obtain ⟨b, hb⟩ := ringEnds_circuit (ringCleared s n c) n .far .far c
    have h0 := freeRinging_circuit s c c
    rw [if_pos rfl] at h0
    rcases hb with hb | hb
    · refine ⟨_, ?_, hb.trans (hfree.trans h0)⟩
      cases isNamed (freeRinging s c) c <;> simp
    · refine ⟨if b then .idle else .uninstalled, by cases b <;> simp, ?_⟩
      rw [hb, hfree, h0, CircuitRec.renamed, if_pos]
      cases isNamed (freeRinging s c) c <;> simp
  obtain ⟨st, hst, hcircuit⟩ := hcircuit
  refine ⟨hdone, ?_, ?_, ?_, ?_, ?_, ?_, fun hsent htrans => ?_, fun p => ?_, ⟨d, ?_⟩, ?_, settle_context_none _ s n hcontext, ?_, ?_,
    hleaves.mono (by decide)⟩
  · rw [settle_line, ringEnds_line _ n _ _ n hringing, if_pos rfl, ringCleared_line, if_pos rfl, hvframe]
    simp [idleAfter]
  · rw [settle_circuit, hcircuit]
  · rw [settle_circuit, hcircuit]
  · rw [settle_circuit, hcircuit]
  · rw [settle_circuit, hcircuit]
    exact hst
  · rw [settle_circuit, hcircuit]
  · have hlist : (ringEnds (ringCleared s n c) n .far .far).cc.pendingList = (freeRinging s c).cc.pendingList :=
      ringEnds_pendingList _ n _ _
    refine settle_notPending s _ c ?_ ?_
    · rw [hlist]
      exact freeRinging_notMem s c htrans hsent
    · exact (inTransmission_congr hwork.call.cc c).trans htrans
  · rw [settle_alertList]
    exact halerts p
  · rw [hveu, hvframe] at hreleased
    exact hreleased.settle hhead s
  · rw [hveu, hvframe] at hevent
    exact hevent.settle (by omega) s
  · refine hwork.call.updatesAre (hupdates.trans ?_) s
    exact updatesAfter_congr n _ (State.context_congr hvum n) (by rw [hvum]) hvframe
  · intro m hm
    rw [settle_line, ringEnds_line _ n _ _ m hringing, if_neg hm, ringCleared_line, if_neg hm]

/-- Every handset has been dropped from a line, and its context brought up to date by a function (R54, R116). -/
structure Dropped (s v : State) (n : Nat) (f : MeasContext → MeasContext) : Prop where
  work    : Work s v [.events, .alarms, .lc, .hc, .ra]
  line    : ∀ m, v.line m = if m = n then { s.line n with participants := [], setter := none } else s.line m
  cc      : v.cc = s.cc
  hc      : v.hc = (dropAllComplete s n).hc
  context : v.context n = (s.context n).map f
  enabled : ∀ x, (f x).enabled = x.enabled
  updates : v.um.updates = s.um.updates

theorem dropped_dropAllComplete (s : State) (n : Nat) : Dropped s (dropAllComplete s n) n id where
  work := work_dropAllComplete s n
  line := dropAllComplete_line s n
  cc := by simp
  hc := rfl
  context := by simp
  enabled _ := rfl
  updates := by simp

/-- A ring that ends with the drop ends unanswered (R15, R116). -/
theorem Dropped.ringEnded {s v : State} {n : Nat} (h : Dropped s v n id) : Dropped s (countUnanswered (leaveAlerts v n) n) n unansweredOf where
  work := (h.work.step (work_leaveAlerts v n)).step (work_countUnanswered _ n)
  line m := by
    rw [← h.line m]
    simp [countUnanswered]
  cc := by
    rw [← h.cc]
    simp [countUnanswered]
  hc := by
    rw [← h.hc]
    simp [countUnanswered]
  context := by
    rw [countUnanswered, modContext_context, if_pos rfl, leaveAlerts_context, h.context, Option.map_id]
    rfl
  enabled _ := rfl
  updates := by
    rw [← h.updates]
    simp [countUnanswered]

/-- Handsets lose the line with a drop, and no other handset or position is touched (R54). -/
theorem Dropped.handsets {s v u : State} {n : Nat} {f : MeasContext → MeasContext} (h : Dropped s v n f) (hu : u.hc = v.hc) :
    (∀ e ∈ (s.line n).participants, CurEntry.line n ∉ (u.handset e.party).current ∧ n ∉ (u.handset e.party).hold) ∧
    OnlyHandsets s u ((s.line n).participants.map (·.party)) := by
  obtain ⟨honly, hdropped⟩ := dropAllComplete_handsets s n
  have hhc : u.hc = (dropAllComplete s n).hc := hu.trans h.hc
  refine ⟨fun e he => ?_, honly.congr hhc⟩
  rw [State.handset_congr hhc]
  exact hdropped e he

/-- The updates of a call that ends after the drop (R119). -/
theorem Dropped.updatesAfter {s v : State} {n : Nat} {f : MeasContext → MeasContext} (h : Dropped s v n f) :
    updatesAfter v n id = updatesAfter s n f :=
  updatesAfter_modContext n f h.context h.enabled h.updates h.work.call.frame

/-- A drop of every handset and entry to CLEARING, whatever the cause (R18, R54). -/
theorem Dropped.clearing {s v : State} {n : Nat} {f : MeasContext → MeasContext} (h : Dropped s v n f) (why : ReleaseCause)
    (cause : StateCause) (b : Bool) (hstate : (s.line n).state ≠ .clearing) :
    let u := enterClearing v n why cause b
    Work s u [.events, .alarms, .lc, .cc, .link, .hc, .ra, .um] ∧
    (∀ m, u.line m = if m = n then clearingAfter (s.line n) (s.frame + 8000#48) s.frame else s.line m) ∧
    (∀ c, (s.line n).active = some c → ∀ d, u.circuit d = if d = c then (s.circuit c).releasing b (some n) else s.circuit d) ∧
    (∀ e ∈ (s.line n).participants, CurEntry.line n ∉ (u.handset e.party).current ∧ n ∉ (u.handset e.party).hold) ∧
    OnlyHandsets s u ((s.line n).participants.map (·.party)) ∧ u.context n = none ∧ u.um.updates = Machine.updatesAfter s n f ∧
    (∀ p, u.alertList p = v.alertList p) := by
  intro u
  have hframe : v.frame = s.frame := h.work.call.frame
  obtain ⟨hcontext, hupdates, hhc, halerts⟩ := enterClearing_rest v n why cause b
  obtain ⟨hdropped, honly⟩ := h.handsets hhc
  refine ⟨(h.work.mono (by decide)).step (work_enterClearing _ n why cause b), fun m => ?_, fun c hc d => ?_, hdropped, honly, hcontext,
    hupdates.trans h.updatesAfter, halerts⟩
  · rw [enterClearing_line _ n why cause b m (by simpa [h.line] using hstate), hframe]
    by_cases hm : m = n <;> simp [hm, h.line, clearingAfter]
  · rw [enterClearing_circuit, circuitKept_circuit _ n c d b (by simpa [h.line] using hc), State.circuit_congr h.cc, State.circuit_congr h.cc]

/-- Settles O32. -/
theorem farClearEndsTheCall : Obligations.FarClearEndsTheCall := by
  intro c n s hactive hheld hhead hread howner
  refine ⟨fun hstate hline hroom => ?_, fun hstate hline hkind hcurrent => ?_⟩
  · have hexec := farClear_exec hactive howner (.inl hstate)
    have hclear : clearCall s n c (s.line n) = ringEnds (ringCleared s n c) n .far .far := by
      rw [clearCall, if_pos hline]
      rfl
    rw [hclear] at hexec
    obtain ⟨hdone, hrest⟩ := farClear_ringingIn (c := c) hheld hhead hread hroom hline
    exact ⟨_, hexec.trans hdone, hrest⟩
  · have hexec := farClear_exec hactive howner hstate
    have hcall : (s.line n).state ≠ .ringingIn ∧ (s.line n).state.inCall = true ∧ (s.line n).state ≠ .clearing := by
      rcases hline with h | h | h <;> simp [h, LineState.inCall]
    obtain ⟨hring, hin, hclearing⟩ := hcall
    have hclear : clearCall s n c (s.line n) = enterClearing (dropAllComplete s n) n .far .far true := by
      simp [clearCall, hring, hin, hkind]
    rw [hclear] at hexec
    obtain ⟨hwork, hlines, hcircuits, hdropped, honly, hcontext, hupdates, -⟩ :=
      (dropped_dropAllComplete s n).clearing .far .far true hclearing
    obtain ⟨hdone, hleaves⟩ := hwork.done hheld hhead s
    refine ⟨_, hexec.trans hdone, ?_, ?_, ?_, honly.congr (settle_hc s _), settle_context_none _ s n hcontext, ?_, ?_, ?_,
      hleaves.mono (by decide)⟩
    · rw [settle_line, hlines, if_pos rfl]
    · rw [settle_circuit, hcircuits c hcurrent, if_pos rfl]
      simp [CircuitRec.releasing]
    · intro e he
      rw [settle_handset]
      exact hdropped e he
    · exact hwork.call.updatesAre hupdates s
    · intro m hm
      rw [settle_line, hlines, if_neg hm]
    · intro d hd
      rw [settle_circuit, hcircuits c hcurrent, if_neg hd]

/-! ### FORCE_RELEASE and LINE_SERVICE (O51) -/

/-- A forced release drops every handset, ends a ring, and takes the line into CLEARING (R24). -/
theorem forceRelease_eq (s : State) (n : Nat) : ∃ v, forceRelease s n = enterClearing v n .forced .request false ∧
    Dropped s v n (if (s.line n).state = .ringingIn then unansweredOf else id) ∧
    ((s.line n).state = .ringingIn → ∀ p, n ∉ v.alertList p) := by
  have hdrop := dropped_dropAllComplete s n
  unfold forceRelease
  by_cases h : (s.line n).state = .ringingIn
  · refine ⟨countUnanswered (leaveAlerts (dropAllComplete s n) n) n, by simp [h], by simpa [h] using hdrop.ringEnded, fun _ p => ?_⟩
    simpa [countUnanswered] using leaveAlerts_notMem (dropAllComplete s n) n p
  · exact ⟨dropAllComplete s n, by simp [h], by simpa [h] using hdrop, fun hn => absurd hn h⟩

/-- What a forced release does (R24), stated of any later state in which the records it touches are the same. -/
theorem forceRelease_spec (s : State) (n : Nat) (hstate : (s.line n).state.inCall = true) :
    Work s (forceRelease s n) [.events, .alarms, .lc, .cc, .link, .hc, .ra, .um] ∧
    (forceRelease s n).line n = clearingAfter (s.line n) (s.frame + 8000#48) s.frame ∧
    ∀ t : State, t.hc = (forceRelease s n).hc → (∀ c, t.circuit c = (forceRelease s n).circuit c) →
      (∀ p, t.alertList p = (forceRelease s n).alertList p) → t.context n = none → t.um.updates = (forceRelease s n).um.updates →
      t.um.enable = s.um.enable → t.um.format = s.um.format → (∀ m, m ≠ n → t.line m = (forceRelease s n).line m) → ForcedOff s t n := by
  obtain ⟨v, hv, hdrop, halerts⟩ := forceRelease_eq s n
  have hclearing : (s.line n).state ≠ .clearing := by
    intro h
    simp [h, LineState.inCall] at hstate
  obtain ⟨hwork, hlines, hcircuits, hdropped, honly, hcontext, hupdates, hlists⟩ := hdrop.clearing .forced .request false hclearing
  rw [hv]
  refine ⟨hwork, (hlines n).trans (if_pos rfl), fun t hhc hcircuit hlist hctx hupd henable hformat hline => ?_⟩
  exact {
    handsets := fun e he => by
      rw [State.handset_congr hhc]
      exact hdropped e he
    others := honly.congr hhc
    circuit := fun c hc => by
      rw [hcircuit, hcircuits c hc, if_pos rfl]
      exact ⟨rfl, rfl, rfl, rfl⟩
    alerts := fun hring p => by
      rw [hlist, hlists]
      exact halerts hring p
    measured := ⟨hctx, hupd.trans hupdates, henable, hformat⟩
    lines := fun m hm => by rw [hline m hm, hlines, if_neg hm] }

theorem setPending_line (s : State) (n : Nat) (b : Bool) (m : Nat) :
    (setPending s n b).line m = if m = n then { s.line n with pendingAdmin := b } else s.line m := by
  by_cases hm : m = n <;> simp [setPending, hm]

theorem work_setPending (s : State) (n : Nat) (b : Bool) : Work s (setPending s n b) [.lc] := work_modLine s n _

/-- The state after a forced release by request, and what it sets of the pending cause (R24, R25). -/
def forcedPending (s : State) (n : Nat) (i : Instr) : State :=
  if i = .lineService then setPending (forceRelease s n) n true else forceRelease s n

theorem forcedPending_spec (s : State) (n : Nat) (i : Instr) (b : State) (ws : List Word) (r : Result)
    (hstate : (s.line n).state.inCall = true) :
    Work s (forcedPending s n i) [.events, .alarms, .lc, .cc, .link, .hc, .ra, .um] ∧
    (forcedPending s n i).line n = { clearingAfter (s.line n) (s.frame + 8000#48) s.frame with
      pendingAdmin := if i = .lineService then true else (s.line n).pendingAdmin } ∧
    ForcedOff s (requestEnd b (forcedPending s n i) ws r) n := by
  obtain ⟨hwork, hline, hoff⟩ := forceRelease_spec s n hstate
  have hcontext : (forceRelease s n).context n = none := by
    obtain ⟨v, hv, -⟩ := forceRelease_eq s n
    rw [hv]
    exact (enterClearing_rest v n _ _ _).1
  have hum := hwork.call.um
  simp only [Prod.mk.injEq] at hum
  unfold forcedPending
  by_cases hi : i = .lineService
  · have hpending : (setPending (forceRelease s n) n true).context n = none := by simp [setPending, hcontext]
    simp only [hi, if_true]
    refine ⟨hwork.step (work_setPending _ n true), by rw [setPending_line, if_pos rfl, hline], ?_⟩
    refine hoff _ ?_ (fun c => ?_) (fun p => ?_) (requestEnd_context_none _ _ _ _ n hpending) ?_ ?_ ?_ fun m hm => ?_
    · simp [setPending]
    · simp [setPending]
    · simp [setPending]
    · simp [setPending]
    · simp [setPending, hum]
    · simp [setPending, hum]
    · rw [requestEnd_line, setPending_line, if_neg hm]
  · simp only [hi, if_false]
    refine ⟨hwork, hline.trans (by simp [clearingAfter]), ?_⟩
    exact hoff _ (by simp) (by simp) (by simp) (requestEnd_context_none _ _ _ _ n hcontext) (by simp) (by simp [hum]) (by simp [hum])
      fun m hm => by simp

/-- A change of a line's state by a request: the record, the event, then the REQ_DONE (R19, R151). -/
theorem changeState_request {s : State} {ws : List Word} {n : Nat} {new : LineState} {code : Nat}
    (hr : Ready s code ws 2) (hne : (s.line n).state ≠ new) (hold : (s.line n).state ≠ .clearing) (hset : new.keepsSetter = false)
    (hrest : new.atRest = true) (r : Result) :
    let t := requestEnd s (changeState s n new .request) ws r
    t.line n = { s.line n with state := new, lastChange := s.frame, setter := none, callCopy := none } ∧
    EventAt t s.eu.evtHead (.lineState n (s.line n).state new .request) s.frame ∧ Completed s t ws r 0#32 0#32 ∧
    (∀ m, m ≠ n → t.line m = s.line m) ∧ Leaves s t [.ring, .take, .events, .lc, .cc] := by
  intro t
  have hroom := hr.room
  have hhead := hr.head
  obtain ⟨hevent, hnext⟩ := changeState_event s n new .request hne (by omega)
  have hwork := work_changeState s n new .request
  have hread : (changeState s n new .request).eu.evtRead = s.eu.evtRead := by
    have := hwork.call.eu
    simp only [Prod.mk.injEq] at this
    exact this.1
  have hunread : (changeState s n new .request).eu.unread ≤ 254 := by
    have := hr.read
    simp only [EU.unread, hnext, hread] at hroom ⊢
    omega
  refine ⟨?_, ?_, hwork.call.completed ws r hunread hhead s, ?_, (hwork.requestEnd ws r hhead s).mono (by decide)⟩
  · rw [requestEnd_line, changeState_line, if_pos ⟨rfl, hne⟩]
    simp [LineRec.changedTo, hold, hset, hrest]
  · exact hevent.requestEnd ws r hhead (by rw [hnext]; omega)
  · intro m hm
    rw [requestEnd_line, changeState_line, if_neg (by simp [hm])]

/-- LINE_SERVICE by its direction, for a configured line (R25, R26). -/
theorem ownLineService_eq {s : State} {ws : List Word} {n : Nat} (hn : param ws 1 = n) (hlt : n < s.su.lineCount) :
    (param ws 2 = 0 → ownLineService s ws = serviceOut s n) ∧
    (param ws 2 = 1 → (s.line n).applied.enabled = true → ownLineService s ws = serviceIn s n) := by
  have hle : ¬s.su.lineCount ≤ n := by omega
  constructor
  · intro h
    simp [ownLineService, onOff_eq, h, hn, hle]
  · intro h henabled
    simp [ownLineService, onOff_eq, h, hn, hle, henabled]

/-- Settles O51: the forced releases, then LINE_SERVICE by its direction and the line's state. -/
theorem forceReleaseAndLineService : Obligations.ForceReleaseAndLineService := by
  intro s ws n hn
  refine ⟨fun i pend hlt hcall hi => ?_, fun hr hno => ?_, fun hr hlt => ⟨fun hout hstate => ?_, fun hin henabled hstate hkind => ?_,
    fun hstate hdir henabled => ?_⟩, fun r hr hrow => ?_⟩
  · have hle : ¬s.su.lineCount ≤ n := by omega
    obtain ⟨hwork, hline, hoff⟩ := forcedPending_spec s n i s ws .ok hcall
    rcases hi with ⟨rfl, hr, rfl⟩ | ⟨rfl, hr, hout, rfl⟩
    · have hown : ownForceRelease s ws = (forcedPending s n .forceRelease, .ok) := by simp [ownForceRelease, hn, hle, hcall, forcedPending]
      refine ⟨_, request_next ws .ok hr .nothing ownForceRelease rfl hown hwork.call, ?_, hoff, hwork.call.finished ws .ok hr.head s,
        (hwork.requestEnd ws .ok hr.head s).mono (by decide)⟩
      rw [requestEnd_line, hline]
      rfl
    · have hown : ownLineService s ws = (forcedPending s n .lineService, .ok) := by
        rw [(ownLineService_eq hn hlt).1 hout, serviceOut, forcedPending, if_pos rfl]
        cases h : (s.line n).state <;> simp [h, LineState.inCall] at hcall ⊢
      refine ⟨_, request_next ws .ok hr .nothing ownLineService rfl hown hwork.call, ?_, hoff, hwork.call.finished ws .ok hr.head s,
        (hwork.requestEnd ws .ok hr.head s).mono (by decide)⟩
      rw [requestEnd_line, hline]
      rfl
  · have hown : ownForceRelease s ws = (s, if s.su.lineCount ≤ n then .badParam else .noChange) := by
      unfold ownForceRelease
      rw [hn]
      dsimp only
      split
      · rfl
      · next hle =>
        have : (s.line n).state.inCall = false := hno.resolve_left hle
        simp [this]
    exact ⟨_, request_unchanged ws _ hr .nothing ownForceRelease rfl hown⟩
  · have hown : ownLineService s ws = (changeState s n (.outOfService .admin) .request, .ok) := by
      rw [(ownLineService_eq hn hlt).1 hout, serviceOut]
      rcases hstate with h | h <;> simp [h]
    have hne : (s.line n).state ≠ .outOfService .admin ∧ (s.line n).state ≠ .clearing := by rcases hstate with h | h <;> simp [h]
    exact ⟨_, request_next ws .ok hr .nothing ownLineService rfl hown (work_changeState s n _ _).call,
      changeState_request hr hne.1 hne.2 rfl rfl .ok⟩
  · have hown : ownLineService s ws = (changeState s n .idle .request, .ok) := by
      rw [(ownLineService_eq hn hlt).2 hin henabled, serviceIn]
      simp [hstate, hkind]
    have hchanged := changeState_request hr (n := n) (new := .idle) (by simp [hstate]) (by simp [hstate]) rfl rfl .ok
    rw [hstate] at hchanged
    exact ⟨_, request_next ws .ok hr .nothing ownLineService rfl hown (work_changeState s n _ _).call, hchanged⟩
  · have hown : ∃ u, ownLineService s ws = (u, if (s.line n).pendingAdmin = decide (param ws 2 = 0) then .noChange else .ok) ∧
        Work s u [.lc] ∧ u.eu = s.eu ∧
        (∀ m, u.line m = if m = n then { s.line n with pendingAdmin := decide (param ws 2 = 0) } else s.line m) := by
      have hsame : ∀ b, (s.line n).pendingAdmin = b → ∀ m, s.line m = if m = n then { s.line n with pendingAdmin := b } else s.line m := by
        intro b hb m
        by_cases hm : m = n
        · rw [if_pos hm, hm, ← hb]
        · rw [if_neg hm]
      have hdirs : param ws 2 = 0 ∨ param ws 2 = 1 := by omega
      rcases hdirs with hd | hd
      · rw [(ownLineService_eq hn hlt).1 hd]
        cases hp : (s.line n).pendingAdmin with
        | true => exact ⟨s, by simp [serviceOut, hstate, hp, hd], .refl s _, rfl, by simpa [hd] using hsame true hp⟩
        | false =>
          exact ⟨setPending s n true, by simp [serviceOut, hstate, hp, hd], work_setPending s n true, rfl,
            by simpa [hd] using setPending_line s n true⟩
      · rw [(ownLineService_eq hn hlt).2 hd (henabled hd)]
        cases hp : (s.line n).pendingAdmin with
        | true =>
          exact ⟨setPending s n false, by simp [serviceIn, hstate, hp, hd], work_setPending s n false, rfl,
            by simpa [hd] using setPending_line s n false⟩
        | false => exact ⟨s, by simp [serviceIn, hstate, hp, hd], .refl s _, rfl, by simpa [hd] using hsame false hp⟩
    obtain ⟨u, hu, hwork, heu, hline⟩ := hown
    have hroom : u.eu.unread ≤ 254 := by
      have := hr.room
      rw [heu]
      omega
    refine ⟨_, request_next ws _ hr .nothing ownLineService rfl hu hwork.call, ?_, hwork.call.completed ws _ hroom hr.head s, ?_,
      (hwork.requestEnd ws _ hr.head s).mono (by decide)⟩
    · rw [requestEnd_line, hline, if_pos rfl]
    · intro m hm
      rw [requestEnd_line, hline, if_neg hm]
  · have hown : ownLineService s ws = (s, r) := by
      unfold ownLineService
      rw [hn, onOff_eq]
      rcases hrow with ⟨rfl, hbad | hbad | ⟨hin, hdisabled⟩⟩ | ⟨rfl, hlt, ⟨hout, hstate⟩ | ⟨hin, henabled, hstate⟩⟩
      · by_cases h1 : param ws 2 = 1 <;> by_cases h0 : param ws 2 = 0 <;> simp [h1, h0, hbad]
      · rw [if_neg (by omega), if_neg (by omega)]
      · by_cases hle : s.su.lineCount ≤ n <;> simp [hin, hdisabled, hle]
      · simp [hout, hstate, Nat.not_le.mpr hlt, serviceOut]
      · rw [if_pos hin]
        simp only [Nat.not_le.mpr hlt, henabled, serviceIn, if_false, Bool.true_eq_false]
        rcases hstate with h | h | ⟨h, hkind⟩
        · simp [h]
        · cases hs : (s.line n).state <;> simp [hs, LineState.inCall] at h ⊢
        · simp [h, hkind]
    exact ⟨_, request_unchanged ws _ hr .nothing ownLineService rfl hown⟩

end EndedCalls

end Sys2Proof.Machine

namespace Sys2Proof.Machine

/-! ## A circuit that fails its line (R30, R31, R45, R48, R49, R51; O34) -/

section FailedCircuits

/-! ### Masks of the path groups that name a circuit (R29) -/

/-- Making a circuit unavailable clears available bits where effective path groups name it, and does nothing else (R29). -/
structure AvailableCleared (s t : State) (c : Nat) : Prop where
  other  : ∀ m, (t.path m).installed = (s.path m).installed ∧ (t.path m).operational = (s.path m).operational ∧
    (t.path m).lastUsed = (s.path m).lastUsed
  bit    : ∀ m i, (t.path m).available.getLsbD i = (s.path m).available.getLsbD i ∨
    (positionIn (s.line m).eff.path c = some i ∧ (t.path m).available.getLsbD i = false)

theorem AvailableCleared.refl (s : State) (c : Nat) : AvailableCleared s s c := ⟨fun _ => ⟨rfl, rfl, rfl⟩, fun _ _ => .inl rfl⟩

/-- What holds before and through each change of a naming line holds after all of them. -/
theorem forNaming_induction (s : State) (c : Nat) (f : State → Nat → Nat → State) (P : State → Prop) (h0 : P s)
    (hf : ∀ t n i, positionIn (s.line n).eff.path c = some i → P t → P (f t n i)) : P (forNaming s c f) := by
  unfold forNaming
  refine List.foldlRecOn _ _ h0 fun t ht n _ => ?_
  split
  · next i hi => exact hf t n i hi ht
  · exact ht

theorem setMaskBit_getLsbD_ne (m : BitVec 4) {i j : Nat} (b : Bool) (h : j ≠ i) : (setMaskBit m i b).getLsbD j = m.getLsbD j := by
  rw [setMaskBit_getLsbD, if_neg h]
  by_cases hj : j < 4
  · simp [hj]
  · rw [BitVec.getLsbD_of_ge m j (by omega), Bool.and_false]

theorem availableCleared_setAvailable (s : State) (c : Nat) : AvailableCleared s (setAvailable s c false) c := by
  refine forNaming_induction s c _ (AvailableCleared s · c) (.refl s c) fun t n i hi h => ⟨fun m => ?_, fun m j => ?_⟩
  · by_cases hm : m = n
    · subst hm
      simpa using h.other m
    · simpa [hm] using h.other m
  · by_cases hm : m = n
    · subst hm
      by_cases hj : j = i
      · subst hj
        exact .inr ⟨hi, by simp⟩
      · rw [modPath_eq, State.setPath_path, if_pos rfl]
        dsimp only
        rw [setMaskBit_getLsbD_ne _ _ hj]
        exact h.bit m j
    · simpa [hm] using h.bit m j

theorem positionIn_some {path : List Nat} {c i : Nat} (h : positionIn path c = some i) : path[i]? = some c := by
  unfold positionIn at h
  obtain ⟨hi, hc, -⟩ := List.findIdx?_eq_some_iff_getElem.mp h
  have hlen := hi
  rw [List.length_take] at hlen
  rw [List.getElem_take] at hc
  rw [List.getElem?_eq_getElem (by omega)]
  simpa using hc

/-! ### The circuit out of its owner's hands -/

/-- A circuit has been taken from its owner, and stands in a state from which it cannot be seized (R44, R45, R51). -/
structure CircuitOut (s v : State) (c : Nat) (r : CircuitRec) : Prop where
  before  : (s.circuit c).state ≠ .idle
  after   : r.state ≠ .idle ∧ r.state ≠ .uninstalled
  circuit : ∀ e, v.circuit e = if e = c then r else s.circuit e
  paths   : AvailableCleared s v c
  lc      : v.lc = s.lc
  hc      : v.hc = s.hc
  um      : v.um = s.um
  eu      : v.eu = s.eu
  frame   : v.frame = s.frame
  held    : v.bi.held = s.bi.held
  leaves  : Leaves s v [.cc, .link]

section

variable {s v : State} {c n : Nat} {r : CircuitRec}

theorem CircuitOut.line (h : CircuitOut s v c r) (m : Nat) : v.line m = s.line m := State.line_congr h.lc m

/-- What a line may seize after one of its circuits was taken out: what it might seize before (R30). -/
theorem CircuitOut.selectable (h : CircuitOut s v c r) (x : State) (heff : (x.line n).eff = (s.line n).eff)
    (hpath : x.path n = v.path n) (hcircuit : ∀ e, x.circuit e = v.circuit e) (j : Nat) : selectable x n j = selectable s n j := by
  obtain ⟨hinstalled, hoperational, -⟩ := h.paths.other n
  unfold Machine.selectable
  dsimp only
  rw [heff, hpath, hinstalled, hoperational]
  cases hd : (s.line n).eff.path[j]? with
  | none => simp
  | some d =>
    dsimp only
    rw [hcircuit, h.circuit]
    by_cases hdc : d = c
    · subst hdc
      simp [h.before, h.after.1]
    · rw [if_neg hdc]
      rcases h.paths.bit n j with hbit | ⟨hpos, -⟩
      · rw [hbit]
      · rw [positionIn_some hpos] at hd
        exact absurd (Option.some.inj hd).symm hdc

theorem firstSelectable_congr {s x : State} (h : ∀ j, selectable x n j = selectable s n j) (is : List Nat) :
    firstSelectable x n is = firstSelectable s n is := by simp [firstSelectable, h]

theorem firstSelectable_none {s : State} {is : List Nat} (h : ∀ j ∈ is, selectable s n j = false) : firstSelectable s n is = none := by
  simpa [firstSelectable] using h

end

/-! ### Seizure of the next circuit (R30, R31) -/

theorem seizeAt_line (s : State) (n j d : Nat) (h : (s.line n).eff.path[j]? = some d) (m : Nat) :
    (seizeAt s n j).line m = if m = n then { s.line n with active := some d } else s.line m := by
  obtain ⟨l, hl⟩ := seizeAt_eq s n j d h
  rw [hl]
  by_cases hm : m = n <;> simp [hm]

theorem seizeAt_circuit (s : State) (n j d : Nat) (h : (s.line n).eff.path[j]? = some d) (e : Nat) : (seizeAt s n j).circuit e =
    if e = d then { s.circuit d with owner := some n, state := .seizing, desired := .seized } else s.circuit e := by
  obtain ⟨l, hl⟩ := seizeAt_eq s n j d h
  rw [hl]
  by_cases he : e = d <;> simp [he]

theorem seizeAt_path (s : State) (n j d : Nat) (h : (s.line n).eff.path[j]? = some d) (m : Nat) :
    (seizeAt s n j).path m = if m = n then { s.path n with lastUsed := j } else s.path m := by
  obtain ⟨l, hl⟩ := seizeAt_eq s n j d h
  rw [hl]
  by_cases hm : m = n <;> simp [hm]

theorem seizeAt_um (s : State) (n j d : Nat) (h : (s.line n).eff.path[j]? = some d) : (seizeAt s n j).um = s.um := by
  obtain ⟨l, hl⟩ := seizeAt_eq s n j d h
  rw [hl]
  rfl

/-! ### The call that ends (R49) -/

/-- After the drop, the call ends and the line comes to rest (R36, R49). -/
theorem Dropped.ended {s v : State} {n : Nat} {f : MeasContext → MeasContext} (h : Dropped s v n f) (why : ReleaseCause) (new : LineState)
    (cause : StateCause) (hne : (s.line n).state ≠ new) (hclearing : (s.line n).state ≠ .clearing) (hrest : new.atRest = true)
    (hsetter : new.keepsSetter = false) :
    let u := changeState (callEnd v n why) n new cause
    Work s u [.events, .alarms, .lc, .cc, .hc, .ra, .um] ∧
    (∀ m, u.line m =
      if m = n then { idleAfter (s.line n) s.frame with participants := [], state := new, active := (s.line n).active } else s.line m) ∧
    (∀ e, ∃ b : Bool, u.circuit e = s.circuit e ∨ u.circuit e = (s.circuit e).renamed b) ∧
    (∀ e ∈ (s.line n).participants, CurEntry.line n ∉ (u.handset e.party).current ∧ n ∉ (u.handset e.party).hold) ∧
    OnlyHandsets s u ((s.line n).participants.map (·.party)) ∧ u.context n = none ∧ u.um.updates = Machine.updatesAfter s n f := by
  intro u
  have hframe : v.frame = s.frame := h.work.call.frame
  obtain ⟨hdropped, honly⟩ := h.handsets (u := u) (by simp [u])
  refine ⟨?_, fun m => ?_, fun e => ?_, hdropped, honly, ?_, ?_⟩
  · exact ((h.work.mono (by decide)).step (work_callEnd _ n why)).step (work_changeState _ n new cause)
  · have hchange : ((callEnd v n why).line n).state ≠ new := by simpa [LineRec.callEnded, h.line] using hne
    by_cases hm : m = n
    · subst hm
      show (changeState (callEnd v m why) m new cause).line m = _
      rw [changeState_line, if_pos ⟨rfl, hchange⟩, if_pos rfl]
      simp [LineRec.callEnded, LineRec.changedTo, h.line, hframe, idleAfter, hrest, hsetter, hclearing]
    · simp [u, changeState_line, hm, h.line]
  · obtain ⟨b, hb⟩ := changeState_circuit (callEnd v n why) n new cause e
    have hcircuit : (callEnd v n why).circuit e = s.circuit e := by rw [callEnd_circuit, State.circuit_congr h.cc]
    rw [hcircuit] at hb
    exact ⟨b, hb.imp id And.right⟩
  · rw [changeState_context]
    exact callEnd_context v n why
  · rw [changeState_um, callEnd_updates, h.updatesAfter]

/-! ### What the owner does (R48, R49) -/

section

variable {s v : State} {c n : Nat} {r : CircuitRec}

/-- Between the loss of its circuit and what comes next, only the line's own record has changed. -/
structure Readied (v x : State) (n : Nat) (l : LineRec) : Prop where
  work : Work v x [.lc]
  line : ∀ m, x.line m = if m = n then l else v.line m
  cc   : x.cc = v.cc
  um   : x.um = v.um
  hc   : x.hc = v.hc
  eu   : x.eu = v.eu

theorem readied_clearActive (v : State) (n : Nat) : Readied v (clearActive v n) n { v.line n with active := none } where
  work := work_clearActive v n
  line m := by by_cases hm : m = n <;> simp [clearActive, hm]
  cc := rfl
  um := rfl
  hc := rfl
  eu := rfl

theorem Readied.modLine {x : State} {l : LineRec} (h : Readied v x n l) (f : LineRec → LineRec) : Readied v (modLine x n f) n (f l) where
  work := h.work.step (work_modLine x n f)
  line m := by
    have := h.line n
    rw [if_pos rfl] at this
    by_cases hm : m = n <;> simp [hm, this, h.line]
  cc := h.cc
  um := h.um
  hc := h.hc
  eu := h.eu

/-- The line seizes its next circuit (R30, R31). -/
theorem CircuitOut.seizeNext (h : CircuitOut s v c r) {x : State} {l : LineRec} (hx : Readied v x n l) (hl : l.eff = (s.line n).eff)
    {j d : Nat} (hsel : Machine.selectable s n j = true) (hd : (s.line n).eff.path[j]? = some d) :
    let u := seizeAt x n j
    d ≠ c ∧ Work v u [.lc, .cc, .link] ∧ (∀ m, u.line m = if m = n then { l with active := some d } else s.line m) ∧
    (∀ e, u.circuit e =
      if e = c then r else if e = d then { s.circuit d with owner := some n, state := .seizing, desired := .seized } else s.circuit e) ∧
    (u.path n).lastUsed = j ∧ u.um = s.um := by
  intro u
  have hxn : x.line n = l := by simp [hx.line]
  have hpath : (x.line n).eff.path[j]? = some d := by rw [hxn, hl, hd]
  have hdc : d ≠ c := by
    rintro rfl
    obtain ⟨⟨e, he, hidle⟩, -⟩ := selectable_circuit hsel
    rw [hd] at he
    rw [← Option.some.inj he] at hidle
    exact h.before hidle
  refine ⟨hdc, (hx.work.mono (by decide)).step (work_seizeAt x n j), fun m => ?_, fun e => ?_, ?_, ?_⟩
  · rw [seizeAt_line x n j d hpath, hx.line, hx.line, if_pos rfl, h.line]
    by_cases hm : m = n <;> simp [hm]
  · rw [seizeAt_circuit x n j d hpath, State.circuit_congr hx.cc, State.circuit_congr hx.cc, h.circuit, h.circuit, if_neg hdc]
    by_cases he : e = d
    · subst he
      simp [hdc]
    · simp [he]
  · rw [seizeAt_path x n j d hpath, if_pos rfl]
  · rw [seizeAt_um x n j d hpath, hx.um, h.um]

/-- What the loss of a line's path leaves: the handsets dropped, the call measured, the line at rest or in CLEARING (R49). -/
structure PathGone (s v u : State) (c n : Nat) (r : CircuitRec) : Prop where
  work    : Work v u [.events, .alarms, .lc, .cc, .link, .hc, .ra, .um]
  others  : ∀ m, m ≠ n → u.line m = s.line m
  line    : u.line n =
    if (s.line n).eff.kind = .nailed then { idleAfter (s.line n) s.frame with participants := [], state := .outOfService .noPath }
    else if (s.line n).state = .calling then { idleAfter (s.line n) s.frame with participants := [] }
    else { clearingAfter (s.line n) (s.frame + 8000#48) s.frame with active := none, switchFrom := none }
  circuit : u.circuit c = r
  dropped : ∀ e ∈ (s.line n).participants, CurEntry.line n ∉ (u.handset e.party).current ∧ n ∉ (u.handset e.party).hold
  only    : OnlyHandsets s u ((s.line n).participants.map (·.party))
  context : u.context n = none
  updates : u.um.updates = updatesAfter s n id
  event   : (s.line n).state ≠ .calling → s.eu.evtHead < 256 → s.eu.evtRead < 256 → s.eu.unread ≤ 254 →
    UnreadEvent u s.eu.evtHead (.lineLost n c) s.frame

/-- A handset that others keep as they were, seen from a state with the same handsets. -/
theorem OnlyHandsets.of_eq {s x u : State} {ps : List Party} (h : OnlyHandsets x u ps) (hhc : x.hc = s.hc) : OnlyHandsets s u ps where
  handsets q hq := (h.handsets q hq).trans (State.handset_congr hhc q)
  positions q hq := (h.positions q hq).trans (State.position_congr hhc q)
  calls := h.calls.trans (congrArg HC.calls hhc)

/-- In CALLING the call ends and the line comes to rest (R49). -/
theorem CircuitOut.lost_calling (h : CircuitOut s v c r) {x : State} {l : LineRec} (hx : Readied v x n l)
    (hl : l = { s.line n with signalTimer := none, stateTimer := none, active := none }) (hcall : (s.line n).state = .calling) :
    PathGone s v (pathLost x n c) c n r := by
  have hxn : x.line n = l := by simp [hx.line]
  have hframe : x.frame = s.frame := hx.work.call.frame.trans h.frame
  have hstate : (x.line n).state = .calling := by rw [hxn, hl, hcall]
  have hkind : (x.line n).eff.kind = (s.line n).eff.kind := by rw [hxn, hl]; rfl
  let new : LineState := if (s.line n).eff.kind = .nailed then .outOfService .noPath else .idle
  have hu : pathLost x n c = changeState (callEnd (dropAllComplete x n) n .lost) n new .noPath := by
    simp only [pathLost, hstate, hkind]
    rfl
  have hnew : new.atRest = true ∧ new.keepsSetter = false ∧ new ≠ .calling := by
    by_cases hk : (s.line n).eff.kind = .nailed <;> simp [new, hk, LineState.atRest, LineState.keepsSetter]
  obtain ⟨hrest, hsetter, hne⟩ := hnew
  obtain ⟨hwork, hlines, hcircuits, hdropped, honly, hcontext, hupdates⟩ := (dropped_dropAllComplete x n).ended .lost new .noPath
    (by rw [hstate]; exact hne.symm) (by simp [hstate]) hrest hsetter
  have hparts : (x.line n).participants = (s.line n).participants := by rw [hxn, hl]
  rw [hparts] at hdropped honly
  rw [hu]
  exact {
    work := (hx.work.mono (by decide)).step hwork
    others := fun m hm => by rw [hlines, if_neg hm, hx.line, if_neg hm, h.line]
    line := by
      rw [hlines, if_pos rfl, hxn, hl, hframe]
      by_cases hk : (s.line n).eff.kind = .nailed <;> simp [new, hk, hcall, idleAfter]
    circuit := by
      have hc : x.circuit c = r := by rw [State.circuit_congr hx.cc, h.circuit, if_pos rfl]
      obtain ⟨b, hb | hb⟩ := hcircuits c
      · rw [hb, hc]
      · rw [hb, hc, CircuitRec.renamed_of_busy _ _ h.after.1 h.after.2]
    dropped := hdropped
    only := honly.of_eq (hx.hc.trans h.hc)
    context := hcontext
    updates := hupdates.trans (updatesAfter_congr n id (State.context_congr (hx.um.trans h.um) n) (by rw [hx.um, h.um]) hframe)
    event := fun hno => absurd hcall hno }

/-- In CONNECTED and HELD the loss is reported first; then the call ends, and a line that is not NAILED is CLEARING (R49). -/
theorem CircuitOut.lost_connected (h : CircuitOut s v c r) {x : State} {l : LineRec} {sw : Option Nat} (hx : Readied v x n l)
    (hl : l = { s.line n with
      signalTimer := none, stateTimer := none, active := none, ringBurst := false, pathSwitching := true, switchFrom := sw })
    (hcall : (s.line n).state = .connected ∨ (s.line n).state = .held) :
    PathGone s v (pathLost x n c) c n r := by
  have hxn : x.line n = l := by simp [hx.line]
  let y := issue x (.lineLost n c)
  have hyn : y.line n = l := by simp [y, hxn]
  have hwork0 : Work v y [.events, .lc] := (hx.work.mono (by decide)).step (work_issue x _)
  have hframe : y.frame = s.frame := hwork0.call.frame.trans h.frame
  have hne : (s.line n).state ≠ .calling ∧ (s.line n).state ≠ .clearing ∧ (s.line n).state ≠ .outOfService .noPath := by
    rcases hcall with hs | hs <;> simp [hs]
  obtain ⟨hcalling, hclearing, hoos⟩ := hne
  have hstate : (y.line n).state = (s.line n).state := by rw [hyn, hl]
  have hkind : (y.line n).eff.kind = (s.line n).eff.kind := by rw [hyn, hl]; rfl
  have hparts : (y.line n).participants = (s.line n).participants := by rw [hyn, hl]
  have hum : y.um = s.um := by simp [y, hx.um, h.um]
  have hhc : y.hc = s.hc := by simp [y, hx.hc, h.hc]
  have hc : y.circuit c = r := by
    have : y.circuit c = x.circuit c := by simp [y]
    rw [this, State.circuit_congr hx.cc, h.circuit, if_pos rfl]
  have hupd : updatesAfter y n id = updatesAfter s n id := updatesAfter_congr n id (State.context_congr hum n) (by rw [hum]) hframe
  have hevent : ∀ u, EventsKept y u → s.eu.evtHead < 256 → s.eu.evtRead < 256 → s.eu.unread ≤ 254 →
      UnreadEvent u s.eu.evtHead (.lineLost n c) s.frame := by
    intro u hk hhead hread hroom
    have hxeu : x.eu = s.eu := hx.eu.trans h.eu
    have hissued := issue_unreadEvent x (.lineLost n c) (hxeu ▸ hhead) (hxeu ▸ hread) (hxeu ▸ hroom)
    rw [hxeu, hx.work.call.frame, h.frame] at hissued
    exact hk _ _ _ hissued
  have hu : pathLost x n c = if (s.line n).eff.kind = .nailed then
      changeState (callEnd (dropAllComplete y n) n .lost) n (.outOfService .noPath) .noPath
    else enterClearing (dropAllComplete y n) n .lost .noPath false := by
    have hxstate : (x.line n).state = (s.line n).state := by rw [hxn, hl]
    have hxkind : (x.line n).eff.kind = (s.line n).eff.kind := by rw [hxn, hl]; rfl
    unfold pathLost
    dsimp only
    rw [hxstate, hxkind]
    rcases hcall with hs | hs <;> simp only [hs] <;> rfl
  by_cases hk : (s.line n).eff.kind = .nailed
  · obtain ⟨hwork, hlines, hcircuits, hdropped, honly, hcontext, hupdates⟩ := (dropped_dropAllComplete y n).ended .lost
      (.outOfService .noPath) .noPath (by rwa [hstate]) (by rwa [hstate]) rfl rfl
    rw [hparts] at hdropped honly
    rw [hu, if_pos hk]
    exact {
      work := (hwork0.mono (by decide)).step hwork
      others := fun m hm => by
        rw [hlines, if_neg hm]
        simp [y, hx.line, hm, h.line]
      line := by
        rw [hlines, if_pos rfl, hyn, hl, hframe, if_pos hk]
        simp [idleAfter]
      circuit := by
        obtain ⟨b, hb | hb⟩ := hcircuits c
        · rw [hb, hc]
        · rw [hb, hc, CircuitRec.renamed_of_busy _ _ h.after.1 h.after.2]
      dropped := hdropped
      only := honly.of_eq hhc
      context := hcontext
      updates := hupdates.trans hupd
      event := fun _ => hevent _ hwork.events }
  · obtain ⟨hwork, hlines, -, hdropped, honly, hcontext, hupdates, -⟩ := (dropped_dropAllComplete y n).clearing .lost .noPath false
      (by rwa [hstate])
    rw [hparts] at hdropped honly
    rw [hu, if_neg hk]
    exact {
      work := (hwork0.mono (by decide)).step hwork
      others := fun m hm => by
        rw [hlines, if_neg hm]
        simp [y, hx.line, hm, h.line]
      line := by
        rw [hlines, if_pos rfl, hyn, hl, hframe, if_neg hk, if_neg hcalling]
        simp [clearingAfter]
      circuit := by
        have hnone : circuitKept (dropAllComplete y n) n false = dropAllComplete y n := by
          simp [circuitKept, dropAllComplete_line, hyn, hl]
        rw [enterClearing_circuit, hnone, dropAllComplete_circuit, hc]
      dropped := hdropped
      only := honly.of_eq hhc
      context := hcontext
      updates := hupdates.trans hupd
      event := fun _ => hevent _ hwork.events }

end

/-! ### The end of a command, by request or without one -/

/-- A command's work is done, and what follows every command has been done after it, and the completion of its request, if it is one. -/
structure CommandEnd (own : List Block) (u t : State) : Prop where
  lc      : t.lc = u.lc
  hc      : t.hc = u.hc
  circuit : ∀ c, t.circuit c = u.circuit c
  path    : ∀ m, t.path m = u.path m
  context : ∀ m, u.context m = none → t.context m = none
  um      : t.um.updates = u.um.updates ∧ t.um.enable = u.um.enable ∧ t.um.format = u.um.format
  events  : ∀ h e f, UnreadEvent u h e f → EventAt t h e f
  leaves  : ∀ s xs, Block.events ∈ xs → Leaves s u xs → Leaves s t (own ++ xs)

theorem commandEnd_settle (b u : State) : CommandEnd [] u (settle b u) where
  lc := settle_lc b u
  hc := settle_hc b u
  circuit := settle_circuit b u
  path := settle_path b u
  context := settle_context_none u b
  um := by simp
  events _ _ _ k := k.settle b
  leaves s xs _ h := by simpa using h.trans (leaves_settle b u)

theorem commandEnd_request (b u : State) (ws : List Word) (r : Result) (he : u.eu.evtHead < 256) :
    CommandEnd [.ring, .take] u (requestEnd b u ws r) where
  lc := requestEnd_lc b u ws r
  hc := requestEnd_hc b u ws r
  circuit := requestEnd_circuit b u ws r
  path := requestEnd_path b u ws r
  context := requestEnd_context_none b u ws r
  um := by simp
  events _ _ _ k := k.requestEnd ws r b
  leaves s xs hx h := by
    have := (h.trans ((Work.refl u []).requestEnd ws r he b)).mono (ys := [.ring, .take] ++ xs) (by
      intro x
      simp only [List.nil_append, List.mem_append, List.mem_cons, List.not_mem_nil, or_false]
      rintro (h | rfl | rfl | rfl) <;> simp [*])
    exact this

/-! ### The three causes (R44, R45, R51) -/

theorem setAvailable_other (s : State) (c : Nat) (b : Bool) : ∃ p, setAvailable s c b = { s with cc := { s.cc with paths := p } } := by
  refine forNaming_induction s c _ (fun t => ∃ p, t = { s with cc := { s.cc with paths := p } }) ⟨s.cc.paths, rfl⟩ fun t n i _ h => ?_
  obtain ⟨p, rfl⟩ := h
  exact ⟨_, rfl⟩

/-- A circuit out of use or being reset, made unavailable (R45, R51). -/
theorem circuitOut_setAvailable {s v : State} {c : Nat} {r : CircuitRec} (hcc : CcOnly s v) (hpaths : v.cc.paths = s.cc.paths)
    (hcircuit : ∀ e, v.circuit e = if e = c then r else s.circuit e) (hbefore : (s.circuit c).state ≠ .idle)
    (hafter : r.state ≠ .idle ∧ r.state ≠ .uninstalled) : CircuitOut s (setAvailable v c false) c r := by
  obtain ⟨p, hp⟩ := setAvailable_other v c false
  have hcleared := availableCleared_setAvailable v c
  have hpath : ∀ m, v.path m = s.path m := fun m => by simp [State.path, hpaths]
  obtain ⟨x, rfl⟩ := hcc
  refine ⟨hbefore, hafter, fun e => ?_, ⟨fun m => ?_, fun m i => ?_⟩, ?_, ?_, ?_, ?_, ?_, ?_, ?_⟩
  · rw [← hcircuit e, hp]
    rfl
  · simpa only [hpath] using hcleared.other m
  · have := hcleared.bit m i
    rw [hpath] at this
    exact this
  all_goals rw [hp]
  refine ⟨rfl, fun b hb => ?_⟩
  cases b <;> simp at hb <;> simp [Same]
  exact fun _ _ => rfl

theorem markWentDown_rest (s : State) (c : Nat) : ∃ x, markWentDown s c = s.setSending x := by
  unfold markWentDown
  split
  · split
    · exact ⟨_, rfl⟩
    · exact ⟨s.cc.sending, rfl⟩
  · exact ⟨s.cc.sending, rfl⟩

/-- The circuit before its masks follow, when it goes out of use (R45). -/
def circuitDowned (s : State) (c : Nat) : State :=
  let s := modCircuit s c fun r => { r with state := .down, owner := none, desired := .idle, lastSent := .idle, farHeld := false }
  markWentDown (s.setPendingList (s.cc.pendingList.filter (· ≠ c))) c

theorem takeDown_eq (s : State) (c : Nat) :
    takeDown s c = ownerLoses (setAvailable (circuitDowned s c) c false) c (s.circuit c).owner .far := rfl

theorem circuitOut_down (s : State) (c : Nat) (h : (s.circuit c).state ≠ .idle) : CircuitOut s (setAvailable (circuitDowned s c) c false) c
    { s.circuit c with state := .down, owner := none, desired := .idle, lastSent := .idle, farHeld := false } := by
  let w := modCircuit s c fun r => { r with state := .down, owner := none, desired := .idle, lastSent := .idle, farHeld := false }
  obtain ⟨x, hx⟩ := markWentDown_rest (w.setPendingList (w.cc.pendingList.filter (· ≠ c))) c
  have hv : circuitDowned s c = (w.setPendingList (w.cc.pendingList.filter (· ≠ c))).setSending x := hx
  rw [hv]
  refine circuitOut_setAvailable ⟨_, rfl⟩ rfl (fun e => ?_) h ⟨by simp, by simp⟩
  by_cases he : e = c <;> simp [w, he]

theorem circuitOut_reset (s : State) (c : Nat) (h : (s.circuit c).state ≠ .idle) : CircuitOut s
    (setAvailable (relist (modCircuit s c fun r => { r with owner := none, state := .resetting, desired := .reset, farHeld := false }) c) c false)
    c { s.circuit c with state := .resetting, owner := none, desired := .reset, farHeld := false } := by
  obtain ⟨l, hl⟩ := relist_eq (modCircuit s c fun r => { r with owner := none, state := .resetting, desired := .reset, farHeld := false }) c
  rw [hl]
  refine circuitOut_setAvailable ⟨_, rfl⟩ rfl (fun e => ?_) h ⟨by simp, by simp⟩
  by_cases he : e = c <;> simp [he]

/-- A far clear of a NAILED line's circuit that has been heard of: the circuit is on its way to release (R44). -/
theorem circuitOut_farClear (s : State) (c : Nat) (h : (s.circuit c).state ≠ .idle) (hquiet : quiet s c = false) :
    CircuitOut s (releaseCircuit s c true none) c
      { s.circuit c with state := .releasing, owner := none, desired := .idle, farHeld := false } := by
  obtain ⟨l, hl⟩ := relist_eq (s.setCircuit c ((s.circuit c).releasing true none)) c
  have hq : quiet ((s.setCircuit c ((s.circuit c).releasing true none)).setPendingList l) c = false := by
    simpa [quiet, inTransmission, CircuitRec.releasing] using hquiet
  have hv : releaseCircuit s c true none = (s.setCircuit c ((s.circuit c).releasing true none)).setPendingList l := by
    rw [releaseCircuit_eq, hl, finishRelease]
    simp only [hq, Bool.false_eq_true, and_false, if_false]
  rw [hv]
  refine ⟨h, ⟨by simp, by simp⟩, fun e => ?_, ⟨fun m => by simp, fun m i => .inl (by simp)⟩, rfl, rfl, rfl, rfl, rfl, rfl, rfl, fun b hb => ?_⟩
  · by_cases he : e = c <;> simp [he, CircuitRec.releasing]
  · cases b <;> simp at hb <;> simp [Same]
    exact fun _ _ => rfl

/-- Each of the causes takes the circuit from its owner, and then the owner's circuit has failed (R44, R45, R51). -/
theorem circuitFails_exec {s : State} {c : Fin 256} {n : Nat} {i : Instr} {r : CircuitRec} {own : List Block} (hheld : s.bi.held = [])
    (hhead : s.eu.evtHead < 256) (howner : (s.circuit c).owner = some n)
    (hstate : (s.circuit c).state = .seizing ∨ (s.circuit c).state = .inUse ∨ (s.circuit c).state = .releasing)
    (hi : (i = .circuitDown c ∧ own = [] ∧
        r = { s.circuit c with state := .down, owner := none, desired := .idle, lastSent := .idle, farHeld := false }) ∨
      (i = .circuitReset ∧ own = [.ring, .take] ∧ (∃ ws, Ready s 0x21 ws 1 ∧ param ws 1 = c) ∧
        r = { s.circuit c with state := .resetting, owner := none, desired := .reset, farHeld := false }) ∨
      (i = .farClear c ∧ own = [] ∧ linkActive s = true ∧ (s.line n).eff.kind = .nailed ∧ quiet s c = false ∧
        ((s.circuit c).state = .inUse ∨ ((s.circuit c).state = .seizing ∧ seizeSent (s.circuit c) = true)) ∧
        ((s.line n).state = .calling ∨ (s.line n).state = .connected ∨ (s.line n).state = .held) ∧
        r = { s.circuit c with state := .releasing, owner := none, desired := .idle, farHeld := false })) :
    ∃ v cause t, CircuitOut s v c r ∧ exec i s = .next t ∧ CommandEnd own (ownerLoses v c (some n) cause) t ∧
      (∀ ws, i = .circuitReset → fetched s = some ws → Finished s t ws .ok) := by
  have hidle : (s.circuit c).state ≠ .idle ∧ (s.circuit c).state ≠ .down ∧ (s.circuit c).state ≠ .uninstalled ∧
      (s.circuit c).state ≠ .resetting := by rcases hstate with h | h | h <;> simp [h]
  obtain ⟨hidle, hdown, huninstalled, hresetting⟩ := hidle
  rcases hi with ⟨rfl, rfl, rfl⟩ | ⟨rfl, rfl, ⟨ws, hr, hc⟩, rfl⟩ | ⟨rfl, rfl, hactive, hkind, hquiet, hcircuit, hcall, rfl⟩
  · have hout := circuitOut_down s c hidle
    have hexec : exec (.circuitDown c) s = done s (takeDown s c) := by
      have htaken : circuitDownOn s c = takeDown s c := by
        unfold circuitDownOn
        rcases hstate with h | h | h <;> simp [h]
      simp [exec, execCircuitDown, htaken]
    rw [takeDown_eq, howner] at hexec
    have hwork := callWork_ownerLoses (s₀ := setAvailable (circuitDowned s c) c false) c (some n) .far (.refl _)
    refine ⟨_, .far, _, hout, hexec.trans (done_of_nothingHeld s _ ?_), commandEnd_settle s _, fun ws h => by simp at h⟩
    rw [hwork.held, hout.held, hheld]
  · have hout := circuitOut_reset s c hidle
    have hlt : ¬255 < c.val := by omega
    have hown : ownCircuitReset s ws = (resetCircuit s c, .ok) := by
      unfold ownCircuitReset
      dsimp only
      rw [hc, if_neg hlt]
      rcases hstate with h | h | h <;> simp [h]
    have hwork : CallWork s (resetCircuit s c) := callWork_resetCircuit c (.refl s)
    refine ⟨_, .request, _, hout, request_next ws .ok hr .nothing ownCircuitReset rfl hown hwork, ?_, fun ws' _ hf => ?_⟩
    · have hreset : resetCircuit s c = ownerLoses (setAvailable (relist
          (modCircuit s c fun r => { r with owner := none, state := .resetting, desired := .reset, farHeld := false }) c) c false) c (some n)
          .request := by
        rw [← howner]
        rfl
      rw [hreset]
      exact commandEnd_request s _ ws .ok (by rw [← hreset]; exact (hwork.words hhead).1)
    · have hsame : ws' = ws := by
        have := hr.fetched
        rw [this] at hf
        exact (Option.some.inj hf).symm
      rw [hsame]
      exact hwork.finished ws .ok hhead s
  · have hout := circuitOut_farClear s c hidle hquiet
    have hclear : clearCall s n c (s.line n) = ownerLoses (releaseCircuit s c true none) c (some n) .far := by
      unfold clearCall
      rcases hcall with h | h | h <;> simp [h, hkind, LineState.inCall]
    have hexec := farClear_exec hactive howner hcircuit
    rw [hclear] at hexec
    have hwork := callWork_ownerLoses (s₀ := releaseCircuit s c true none) c (some n) .far (.refl _)
    refine ⟨_, .far, _, hout, hexec.trans (done_of_nothingHeld s _ ?_), commandEnd_settle s _, fun ws h => by simp at h⟩
    rw [hwork.held, hout.held, hheld]

/-! ### Failed circuits by the state of their line (O34) -/

section

variable {s v : State} {c n : Nat} {r : CircuitRec} {cause : StateCause}

theorem ownerLoses_eq (v : State) (c n : Nat) (cause : StateCause) : ownerLoses v c (some n) cause =
    circuitFailed (clearActive v n) n c (pathPositionOf v n c) cause := rfl

theorem clearActive_state (h : CircuitOut s v c r) : ((clearActive v n).line n).state = (s.line n).state := by
  simp [clearActive, h.line]

/-- The circuits and masks that a line looks at for its next circuit (R30). -/
theorem Readied.selectable {x : State} {l : LineRec} (hx : Readied v x n l) (h : CircuitOut s v c r) (hl : l.eff = (s.line n).eff) (j : Nat) :
    Machine.selectable x n j = Machine.selectable s n j :=
  h.selectable x (by rw [hx.line, if_pos rfl, hl]) (State.path_congr hx.cc n) (fun e => State.circuit_congr hx.cc e) j

/-- In CALLING, the timers stop and the line retries, or its path is lost (R48). -/
theorem ownerLoses_calling (h : CircuitOut s v c r) (hs : (s.line n).state = .calling) :
    ∃ x, Readied v x n { s.line n with signalTimer := none, stateTimer := none, active := none } ∧
      ownerLoses v c (some n) cause = match newPosition s n with
        | some j => seizeAt x n j
        | none => pathLost x n c := by
  have hx := ((readied_clearActive v n).modLine fun l => { l with signalTimer := none }).modLine fun l => { l with stateTimer := none }
  have hl : ({ s.line n with signalTimer := none, stateTimer := none, active := none } : LineRec).eff = (s.line n).eff := rfl
  rw [h.line] at hx
  refine ⟨_, hx, ?_⟩
  have hpos : newPosition (stopTimers (clearActive v n) n) n = newPosition s n :=
    firstSelectable_congr (fun j => Readied.selectable hx h hl j) _
  rw [ownerLoses_eq, circuitFailed]
  simp only [clearActive_state h, hs, hpos]
  cases newPosition s n <;> rfl

/-- In CONNECTED and HELD the call fails over, or its path is lost (R48). -/
theorem ownerLoses_connected (h : CircuitOut s v c r) (hs : (s.line n).state = .connected ∨ (s.line n).state = .held) :
    ∃ x, Readied v x n { s.line n with
        signalTimer := none, stateTimer := none, active := none, ringBurst := false, pathSwitching := true
        switchFrom := some ((s.line n).switchFrom.getD c) } ∧
      ownerLoses v c (some n) cause = match failoverPosition s n (pathPositionOf s n c) with
        | some j => seizeAt x n j
        | none => pathLost x n c := by
  have hx := (((readied_clearActive v n).modLine fun l => { l with signalTimer := none }).modLine fun l => { l with stateTimer := none }).modLine
    fun l => { l with ringBurst := false, pathSwitching := true, switchFrom := some (l.switchFrom.getD c) }
  have hl : ({ s.line n with
        signalTimer := none, stateTimer := none, active := none, ringBurst := false, pathSwitching := true
        switchFrom := some ((s.line n).switchFrom.getD c) } : LineRec).eff = (s.line n).eff := rfl
  rw [h.line] at hx
  refine ⟨_, hx, ?_⟩
  have hposition : pathPositionOf v n c = pathPositionOf s n c := by simp [pathPositionOf, h.line]
  have hsel : ∀ is, firstSelectable (modLine (stopTimers (clearActive v n) n) n fun l =>
      { l with ringBurst := false, pathSwitching := true, switchFrom := some (l.switchFrom.getD c) }) n is = firstSelectable s n is :=
    fun is => firstSelectable_congr (fun j => Readied.selectable hx h hl j) is
  rw [ownerLoses_eq, circuitFailed, hposition]
  have hfailover : circuitFailed.failover n c (pathPositionOf s n c) (clearActive v n) = match failoverPosition s n (pathPositionOf s n c) with
      | some j => seizeAt (modLine (stopTimers (clearActive v n) n) n fun l =>
          { l with ringBurst := false, pathSwitching := true, switchFrom := some (l.switchFrom.getD c) }) n j
      | none => pathLost (modLine (stopTimers (clearActive v n) n) n fun l =>
          { l with ringBurst := false, pathSwitching := true, switchFrom := some (l.switchFrom.getD c) }) n c := by
    unfold circuitFailed.failover
    dsimp only
    rw [failoverPosition, hsel]
    rfl
  rcases hs with hs | hs <;> simp only [clearActive_state h, hs] <;> exact hfailover

theorem ownerLoses_ringingIn (h : CircuitOut s v c r) (hs : (s.line n).state = .ringingIn) :
    ownerLoses v c (some n) cause = ringEnds (clearActive v n) n .lost cause := by
  rw [ownerLoses_eq, circuitFailed]
  simp only [clearActive_state h, hs]

/-- A line that is in no call has only lost its circuit. -/
theorem ownerLoses_other (h : CircuitOut s v c r) (hs : (s.line n).state = .clearing ∨ (s.line n).state = .idle ∨
    (s.line n).state.isOos = true) : ownerLoses v c (some n) cause = clearActive v n := by
  rw [ownerLoses_eq, circuitFailed]
  rcases hs with hs | hs | hs
  · simp only [clearActive_state h, hs]
  · simp only [clearActive_state h, hs]
  · cases hstate : (s.line n).state <;> simp [hstate, LineState.isOos] at hs
    simp only [clearActive_state h, hstate]

/-- Whatever its state, a line whose circuit failed is the only one that changes, and the circuit stays as it was taken (R48). -/
theorem ownerLoses_frame (h : CircuitOut s v c r) :
    (ownerLoses v c (some n) cause).circuit c = r ∧ ∀ m, m ≠ n → (ownerLoses v c (some n) cause).line m = s.line m := by
  have hc : v.circuit c = r := by rw [h.circuit, if_pos rfl]
  have hnew : ∀ j, newPosition s n = some j → Machine.selectable s n j = true := fun j hj => (firstSelectable_some hj).2
  have hfail : ∀ j, failoverPosition s n (pathPositionOf s n c) = some j → Machine.selectable s n j = true :=
    fun j hj => (firstSelectable_some hj).2
  have hidle : ∀ m, m ≠ n → (clearActive v n).line m = s.line m := fun m hm => by simp [clearActive, hm, h.line]
  cases hs : (s.line n).state with
  | calling =>
    obtain ⟨x, hx, hu⟩ := ownerLoses_calling (cause := cause) h hs
    rw [hu]
    cases hj : newPosition s n with
    | some j =>
      obtain ⟨⟨d, hd, -⟩, -⟩ := selectable_circuit (hnew j hj)
      obtain ⟨-, -, hline, hcircuit, -⟩ := h.seizeNext hx rfl (hnew j hj) hd
      exact ⟨by rw [hcircuit, if_pos rfl], fun m hm => by rw [hline, if_neg hm]⟩
    | none =>
      have hgone := h.lost_calling hx rfl hs
      exact ⟨hgone.circuit, hgone.others⟩
  | ringingIn =>
    have hringing : ((clearActive v n).line n).state = .ringingIn := (clearActive_state h).trans hs
    rw [ownerLoses_ringingIn h hs]
    refine ⟨?_, fun m hm => by rw [ringEnds_line _ n _ _ m hringing, if_neg hm, hidle m hm]⟩
    have hsame : (clearActive v n).circuit c = r := by simp [clearActive, hc]
    obtain ⟨b, hb | hb⟩ := ringEnds_circuit (clearActive v n) n .lost cause c
    · rw [hb, hsame]
    · rw [hb, hsame, CircuitRec.renamed_of_busy _ _ h.after.1 h.after.2]
  | clearing =>
    rw [ownerLoses_other h (.inl hs)]
    exact ⟨by simp [clearActive, hc], hidle⟩
  | idle =>
    rw [ownerLoses_other h (.inr (.inl hs))]
    exact ⟨by simp [clearActive, hc], hidle⟩
  | outOfService why =>
    rw [ownerLoses_other h (.inr (.inr (by simp [hs, LineState.isOos])))]
    exact ⟨by simp [clearActive, hc], hidle⟩
  | connected | held =>
    obtain ⟨x, hx, hu⟩ := ownerLoses_connected (n := n) (cause := cause) h (by simp [hs])
    rw [hu]
    cases hj : failoverPosition s n (pathPositionOf s n c) with
    | some j =>
      obtain ⟨⟨d, hd, -⟩, -⟩ := selectable_circuit (hfail j hj)
      obtain ⟨-, -, hline, hcircuit, -⟩ := h.seizeNext hx rfl (hfail j hj) hd
      exact ⟨by rw [hcircuit, if_pos rfl], fun m hm => by rw [hline, if_neg hm]⟩
    | none =>
      have hgone := h.lost_connected hx rfl (by simp [hs])
      exact ⟨hgone.circuit, hgone.others⟩

/-- Where no position of the line is selectable its path is lost, from CALLING, CONNECTED and HELD (R49). -/
theorem ownerLoses_lost (h : CircuitOut s v c r)
    (hs : (s.line n).state = .calling ∨ (s.line n).state = .connected ∨ (s.line n).state = .held)
    (hnone : ∀ j < 4, Machine.selectable s n j = false) : PathGone s v (ownerLoses v c (some n) cause) c n r := by
  rcases hs with hs | hs
  · obtain ⟨x, hx, hu⟩ := ownerLoses_calling (cause := cause) h hs
    have hnew : newPosition s n = none := firstSelectable_none fun j hj => hnone j (by simp at hj; omega)
    rw [hu, hnew]
    exact h.lost_calling hx rfl hs
  · obtain ⟨x, hx, hu⟩ := ownerLoses_connected (cause := cause) h hs
    have hfail : failoverPosition s n (pathPositionOf s n c) = none := firstSelectable_none fun j hj => hnone j (by simp at hj; omega)
    rw [hu, hfail]
    exact h.lost_connected hx rfl hs

theorem CommandEnd.updatesAre {own : List Block} {u t : State} {us : List UpdateRec} (h : CommandEnd own u t) (hu : u.um.updates = us)
    (hs : u.um.enable = s.um.enable ∧ u.um.format = s.um.format) : UpdatesAre s t us :=
  ⟨h.um.1.trans hu, h.um.2.1.trans hs.1, h.um.2.2.trans hs.2⟩

/-- What a command leaves that took a circuit out and then worked on its owner's call. -/
theorem CircuitOut.leavesEnd (h : CircuitOut s v c r) {own xs : List Block} {u t : State} (hw : Work v u xs) (hend : CommandEnd own u t)
    (hhead : s.eu.evtHead < 256) (hev : Block.events ∈ xs) (hcc : Block.cc ∈ xs) (hlink : Block.link ∈ xs) : Leaves s t (own ++ xs) := by
  refine hend.leaves s xs hev ((h.leaves.trans (hw.leaves (h.eu ▸ hhead))).mono fun b hb => ?_)
  simp only [List.cons_append, List.nil_append, List.mem_cons] at hb
  rcases hb with rfl | rfl | hb
  · exact hcc
  · exact hlink
  · exact hb

end

/-- Settles O34: each cause takes the circuit out; then the owner's state decides. -/
theorem failedCircuitsRetryOrLoseTheLine : Obligations.FailedCircuitsRetryOrLoseTheLine := by
  intro c n i r own s hheld hhead hread howner hactive hstate hi
  obtain ⟨v, cause, t, hout, hexec, hend, hfinished⟩ := circuitFails_exec hheld hhead howner hstate hi
  have hcalls : CallWork v (ownerLoses v c (some n) cause) := callWork_ownerLoses (s₀ := v) c (some n) cause (.refl v)
  have hum : (ownerLoses v c (some n) cause).um.enable = s.um.enable ∧ (ownerLoses v c (some n) cause).um.format = s.um.format := by
    have := hcalls.um
    simp only [Prod.mk.injEq, hout.um] at this
    exact ⟨this.1, this.2.1⟩
  obtain ⟨hcircuit, hlines⟩ := ownerLoses_frame (n := n) (cause := cause) hout
  have hline : ∀ m, t.line m = (ownerLoses v c (some n) cause).line m := fun m => State.line_congr hend.lc m
  refine ⟨t, hexec, (hend.circuit c).trans hcircuit, fun m hm => (hline m).trans (hlines m hm), ?_, fun j d hs hj hd => ?_,
    fun j d hs hj hd => ?_, fun hs hnone => ?_, fun hs => ?_, fun hs => ?_, hfinished⟩
  · exact hend.leaves s _ (by simp) ((hout.leaves.trans (hcalls.leaves (hout.eu ▸ hhead))).mono (by decide))
  · obtain ⟨x, hx, hu⟩ := ownerLoses_calling (cause := cause) hout hs
    rw [hj] at hu
    obtain ⟨hdc, hwork, hl, hc, hused, hum'⟩ := hout.seizeNext hx rfl (firstSelectable_some hj).2 hd
    dsimp only at hu
    rw [hu] at hend hum
    refine ⟨?_, ?_, ?_, fun e hec hed => ?_, hend.updatesAre (by rw [hum']) hum, ?_⟩
    · rw [hline, hu, hl, if_pos rfl]
    · rw [hend.path, hused]
    · rw [hend.circuit, hc, if_neg hdc, if_pos rfl]
    · rw [hend.circuit, hc, if_neg hec, if_neg hed]
    · exact hout.leavesEnd (hwork.mono (by decide)) hend hhead (by simp) (by simp) (by simp)
  · obtain ⟨x, hx, hu⟩ := ownerLoses_connected (cause := cause) hout hs
    rw [hj] at hu
    obtain ⟨hdc, hwork, hl, hc, hused, -⟩ := hout.seizeNext hx rfl (firstSelectable_some hj).2 hd
    dsimp only at hu
    rw [hu] at hend
    refine ⟨?_, ?_, ?_, fun e hec hed => ?_, ?_⟩
    · rw [hline, hu, hl, if_pos rfl]
    · rw [hend.path, hused]
    · rw [hend.circuit, hc, if_neg hdc, if_pos rfl]
    · rw [hend.circuit, hc, if_neg hec, if_neg hed]
    · exact hout.leavesEnd (hwork.mono (by decide)) hend hhead (by simp) (by simp) (by simp)
  · have hgone := ownerLoses_lost (cause := cause) hout hs hnone
    refine ⟨fun e he => ?_, hgone.only.congr hend.hc, hend.context n hgone.context, hend.updatesAre hgone.updates hum,
      fun hno hroom => hend.events _ _ _ (hgone.event hno hhead hread hroom), (hline n).trans hgone.line⟩
    rw [State.handset_congr hend.hc]
    exact hgone.dropped e he
  · have hu := ownerLoses_ringingIn (cause := cause) hout hs
    have hringing : ((clearActive v n).line n).state = .ringingIn := (clearActive_state hout).trans hs
    obtain ⟨hcontext, hupdates, -, halerts⟩ := ringEnds_rest (clearActive v n) n .lost cause
    have hwork : Work v (ownerLoses v c (some n) cause) [.events, .lc, .cc, .link, .um, .meter] := by
      rw [hu]
      exact ((work_clearActive v n).mono (by decide)).step (work_ringEnds _ n _ _)
    refine ⟨?_, fun p => ?_, hend.context n (by rw [hu, hcontext]), hend.updatesAre ?_ hum,
      hout.leavesEnd hwork hend hhead (by simp) (by simp) (by simp)⟩
    · rw [hline, hu, ringEnds_line _ n _ _ n hringing, if_pos rfl]
      simp [clearActive, hout.line, hout.frame, idleAfter]
    · rw [State.alertList_congr hend.lc, hu]
      exact halerts p
    · rw [hu, hupdates]
      exact updatesAfter_congr n _ (State.context_congr (s := s) (t := clearActive v n) hout.um n) (by rw [← hout.um]; rfl) hout.frame
  · have hu := ownerLoses_other (cause := cause) hout (.inl hs)
    have hwork : Work v (ownerLoses v c (some n) cause) [.events, .lc, .cc, .link] := by
      rw [hu]
      exact (work_clearActive v n).mono (by decide)
    refine ⟨?_, hout.leavesEnd hwork hend hhead (by simp) (by simp) (by simp)⟩
    rw [hline, hu]
    simp [clearActive, hout.line]

end FailedCircuits

end Sys2Proof.Machine

namespace Sys2Proof.Machine

/-! ## NAILED lines (O37)

The last clause takes its state as any tables hold it, and in a table that names line 0 twice only the earlier record is the line's:
`lostNailed` finds a later record OUT_OF_SERVICE with cause NO_PATH, while the line itself is in CALLING and no state change follows. No run of
the part builds such a table. -/

/-- The effective configuration of a NAILED line whose one path circuit is circuit 0. -/
def nailedOnCircuit0 : LineConfig :=
  { LineConfig.null with enabled := true, call := { LineConfig.null.call with kind := .nailed, path := [0] } }

/-- Line 0 twice: in CALLING since frame 5, and once more, shadowed, without a path; its circuit is DOWN. -/
def shadowedLine : State :=
  { State.reset with
    su := { State.reset.su with part := .running, lineCount := 1 }
    lc := { State.reset.lc with
      lines := [(0, { LineRec.cold with applied := nailedOnCircuit0, state := .calling, lastChange := 5 }),
        (0, { LineRec.cold with applied := nailedOnCircuit0, state := .outOfService .noPath })] }
    cc := { State.reset.cc with
      circuits := [(0, { CircuitRec.cold with state := .down })]
      paths := [(0, { PathRec.cold with installed := 1 })] } }

/-- The line's record keeps the frame of its last change when its circuit returns: it was in CALLING before, and is so after. -/
theorem shadowedLine_lastChange : ((circuitUpOn shadowedLine 0).line 0).lastChange = 5 := by decide

/-- Refutes O37: in `shadowedLine` CIRCUIT_UP for circuit 0 leaves line 0 with the frame of an earlier change. -/
theorem not_nailedLinesAreSeized : ¬ Obligations.NailedLinesAreSeized := by
  unfold Obligations.NailedLinesAreSeized
  intro h
  obtain ⟨-, -, -, -, hreturn⟩ := h shadowedLine 0 rfl (by decide) rfl
  obtain ⟨t, ht, hanew, -⟩ := hreturn 0 (.circuitUp 0) 0 _ (by decide) (by decide) (by decide) (by decide) (by decide) (by decide)
    (by decide) (.inl ⟨rfl, by decide, rfl⟩)
  have hheld : (circuitUpOn shadowedLine 0).bi.held = [] := by decide
  obtain rfl : settle shadowedLine (circuitUpOn shadowedLine 0) = t := by
    have hdone : exec (.circuitUp 0) shadowedLine = done shadowedLine (circuitUpOn shadowedLine 0) := rfl
    rw [hdone, done_of_nothingHeld _ _ hheld] at ht
    exact Host.Outcome.next.inj ht
  have hlast := congrArg LineRec.lastChange hanew.line
  rw [settle_line, shadowedLine_lastChange] at hlast
  exact absurd hlast (by decide)
end Sys2Proof.Machine

namespace Sys2Proof.Machine

/-! ## Keys and rejections (R12, R13) -/

section KeyRules

/-- Only keys, the appearance index and the alert lists are changed. -/
def KeysOnly (s t : State) : Prop := ∃ k i a, t = { s with lc := { s.lc with keys := k, appIndex := i, alerts := a } }

variable {s t u : State}

theorem KeysOnly.refl (s : State) : KeysOnly s s := ⟨_, _, _, rfl⟩

theorem KeysOnly.trans (h : KeysOnly s t) (k : KeysOnly t u) : KeysOnly s u := by
  obtain ⟨_, _, _, rfl⟩ := h
  obtain ⟨_, _, _, rfl⟩ := k
  exact ⟨_, _, _, rfl⟩

theorem AlertsOnly.keys (h : AlertsOnly s t) : KeysOnly s t := by
  obtain ⟨_, rfl⟩ := h
  exact ⟨_, _, _, rfl⟩

/-- The line that a key held loses it: step 1 of R13. -/
def indexDrops (s : State) (o : Option Nat) (p : Nat) : State := o.elim s fun n => indexLoses s n p

/-- The line that a key takes gains it: step 2 of R13. -/
def indexAdds (s : State) (o : Option Nat) (p : Nat) : State := o.elim s fun n => indexGains s n p

theorem indexKey_of_eq {s : State} {p k : Nat} {v : KeyVal} (h : s.key (128 * p + k) = v) : indexKey s p k v = s := by simp [indexKey, h]

theorem indexKey_of_ne {s : State} {p k : Nat} {v : KeyVal} (h : s.key (128 * p + k) ≠ v) :
    indexKey s p k v = indexAdds (indexDrops (s.setKeyVal (128 * p + k) v) (s.key (128 * p + k)).lineOf p) v.lineOf p := by
  simp only [indexKey, if_neg h]
  cases v.lineOf <;> cases (s.key (128 * p + k)).lineOf <;> rfl

theorem keysOnly_indexDrops (s : State) (o : Option Nat) (p : Nat) : KeysOnly s (indexDrops s o p) := by
  cases o with
  | none => exact .refl s
  | some n => exact ⟨_, _, _, rfl⟩

theorem keysOnly_indexAdds (s : State) (o : Option Nat) (p : Nat) : KeysOnly s (indexAdds s o p) := by
  cases o with
  | none => exact .refl s
  | some n => exact ⟨_, _, _, rfl⟩

theorem keysOnly_indexKey (s : State) (p k : Nat) (v : KeyVal) : KeysOnly s (indexKey s p k v) := by
  by_cases h : s.key (128 * p + k) = v
  · rw [indexKey_of_eq h]
    exact .refl s
  · rw [indexKey_of_ne h]
    have hkey : KeysOnly s (s.setKeyVal (128 * p + k) v) := ⟨_, _, _, rfl⟩
    exact (hkey.trans (keysOnly_indexDrops _ _ p)).trans (keysOnly_indexAdds _ _ p)

theorem alertsOnly_followAudible (b s : State) (p n : Nat) : AlertsOnly s (followAudible b p s n) := by
  unfold followAudible
  split
  · exact alertsOnly_removeAlert s p n none
  · split
    · exact alertsOnly_addAlert s p n
    · exact .refl s

theorem keysOnly_applyKey (s : State) (p k : Nat) (v : KeyVal) : KeysOnly s (applyKey s p k v) :=
  (keysOnly_indexKey s p k v).trans (alertsOnly_foldl _ _ (fun u n => alertsOnly_followAudible s u p n) _).keys

theorem KeysOnly.rest (h : KeysOnly s t) : t.lc.lines = s.lc.lines ∧ t.bi = s.bi ∧ t.eu = s.eu ∧ t.su = s.su ∧ t.mem = s.mem ∧ t.frame = s.frame := by
  obtain ⟨_, _, _, rfl⟩ := h
  exact ⟨rfl, rfl, rfl, rfl, rfl, rfl⟩

theorem KeysOnly.leaves (h : KeysOnly s t) : Leaves s t [.lc] := by
  obtain ⟨_, _, _, rfl⟩ := h
  exact ⟨rfl, fun b hb => by cases b <;> simp [Same, latestWord, sramAddress] at hb ⊢⟩

/-! ### Rejection -/

/-- A rejection is its event, and in a load a count (R2, R174). -/
theorem rejectEntry_eq (s : State) (w : Rejected) : rejectEntry s w =
    { issue s (.configReject w) with su := { s.su with rejects := s.su.rejects + if s.su.part = .loading then 1 else 0 } } := by
  have hsu := issue_su s (.configReject w)
  simp only [rejectEntry, hsu]
  split
  · rfl
  · rw [Nat.add_zero, ← hsu]

theorem rejectEntry_su_loading (w : Rejected) (h : s.su.part = .loading) :
    (rejectEntry s w).su = { s.su with rejects := s.su.rejects + 1 } := by simp [rejectEntry_eq, h]

theorem leaves_rejectEntry (w : Rejected) (he : s.eu.evtHead < 256) : Leaves s (rejectEntry s w) [.events, .su] := by
  rw [rejectEntry_eq]
  have hissue := (work_issue s (.configReject w)).leaves he
  refine hissue.trans (ys := [.su]) ⟨rfl, fun b hb => ?_⟩
  cases b <;> simp [Same, latestWord, sramAddress] at hb ⊢

theorem rejectEntry_eventAt (w : Rejected) (hu : s.eu.unread ≤ 254) : EventAt (rejectEntry s w) s.eu.evtHead (.configReject w) s.frame :=
  (issue_eventAt s _ hu).congr (by simp [rejectEntry_eq]) (by simp [rejectEntry_eq])

end KeyRules

end Sys2Proof.Machine

namespace Sys2Proof.Machine

/-! ## The entries of a load (R129, R174, O13) -/

section Copies

/-- Only the part's copies of configuration words are changed. -/
def CopiesOnly (s t : State) : Prop := ∃ c, t = { s with bi := { s.bi with copies := c } }

theorem copiesOnly_readEntry (s : State) (off n : Nat) : CopiesOnly s (readEntry s off n) := by
  unfold readEntry
  generalize List.range n = l
  generalize h : s = b
  have hs : CopiesOnly b s := ⟨_, by rw [h]⟩
  conv => rhs; rw [← h]
  clear h
  induction l generalizing s with
  | nil => exact hs
  | cons i l ih =>
    obtain ⟨c, rfl⟩ := hs
    exact ih _ ⟨_, rfl⟩

theorem copyAt_setCopy (s : State) (off : Nat) (w : Word) (o : Nat) :
    copyAt (setCopy s off w) o = if o = off then w else copyAt s o := by simp [copyAt, setCopy]

/-- The words of an entry are copied as the part reads them; no other copy changes (R129). -/
theorem readEntry_copyAt (s : State) (off n o : Nat) :
    copyAt (readEntry s off n) o = if off ≤ o ∧ o < off + n then partRead s o else copyAt s o := by
  induction n with
  | zero => simp [readEntry]
  | succ n ih =>
    have hstep : readEntry s off (n + 1) = setCopy (readEntry s off n) (off + n) (partRead (readEntry s off n) (off + n)) := by
      simp [readEntry, List.range_succ]
    obtain ⟨c, hc⟩ := copiesOnly_readEntry s off n
    have hread : partRead (readEntry s off n) (off + n) = partRead s (off + n) := by rw [hc]; rfl
    rw [hstep, copyAt_setCopy, ih, hread]
    by_cases h : o = off + n
    · simp [h]
    · rw [if_neg h]
      congr 1
      simp only [eq_iff_iff]
      omega

theorem readEntry_writtenCopy (s : State) (off n : Nat) :
    writtenCopy (readEntry s off n) off n = (List.range n).map fun i => partRead s (off + i) := by
  refine List.map_congr_left fun i hi => ?_
  have := List.mem_range.mp hi
  rw [readEntry_copyAt, if_pos (by omega)]

theorem entryRead_readEntry (s : State) (off n : Nat) :
    EntryRead s (readEntry s off n) off ((List.range n).map fun i => partRead s (off + i)) := by
  refine ⟨fun o => ?_, ?_⟩
  · rw [readEntry_copyAt, List.length_map, List.length_range]
    split
    · next h =>
      have hlt : o - off < n := by omega
      have ho : off + (o - off) = o := by omega
      simp [wordOf, hlt, ho]
    · rfl
  · obtain ⟨c, hc⟩ := copiesOnly_readEntry s off n
    simp [hc]

/-- What follows the reading of an entry leaves the copies and the processor's side of the bus. -/
theorem EntryRead.congr {s u t : State} {off : Nat} {ws : List Word} (h : EntryRead s u off ws)
    (hb : (t.bi.copies, t.bi.base, t.bi.startCopy, t.bi.latch, t.bi.held, t.bi.readData) =
      (u.bi.copies, u.bi.base, u.bi.startCopy, u.bi.latch, u.bi.held, u.bi.readData)) : EntryRead s t off ws := by
  simp only [Prod.mk.injEq] at hb
  obtain ⟨hcopies, hbase, hstart, hlatch, hheld, hread⟩ := hb
  have hrest := h.rest
  exact ⟨fun o => by rw [← h.copies o, copyAt, hcopies]; rfl, by rw [hbase, hstart, hlatch, hheld, hread]; exact hrest⟩

theorem CopiesOnly.leaves {s t : State} (h : CopiesOnly s t) : Leaves s t [.bus] := by
  obtain ⟨c, rfl⟩ := h
  exact ⟨rfl, fun b hb => by cases b <;> simp [Same, latestWord, sramAddress] at hb ⊢⟩

end Copies

section Reading

/-- The entry has been read into `u`, and the load goes on with the next one (R174). -/
def goesOn (u : State) (next : LoadItem) : State := settleQuietly (u.setLoad (some (.entries next)))

theorem loadEntryRead_next {s u : State} {item next : LoadItem} (hheld : s.bi.held = []) (hw : waits s .load = false)
    (hload : s.su.load = some (.entries item)) (hnext : nextItem s.su item = some next) (hu : loadItem s item = u)
    {r : Nat} (hsu : u.su = { s.su with rejects := r }) (hh : u.bi.held = s.bi.held) :
    exec .loadEntryRead s = .next (goesOn u next) := by
  have hnext' : nextItem u.su item = some next := by
    rw [hsu, ← hnext]
    cases item <;> rfl
  have hreads : finishReads s .load = s := by simp [finishReads, hw]
  have hread : readNextEntry s = u.setLoad (some (.entries next)) := by simp [readNextEntry, hload, hu, hnext']
  have hexec : exec .loadEntryRead s = execLoadEntryRead s := rfl
  rw [hexec]
  simp only [execLoadEntryRead, hload]
  rw [hreads, hread, doneQuietly_of_nothingHeld _ (by simpa using hh.trans hheld)]
  rfl

variable {s u : State} {next : LoadItem}

theorem goesOn_su {r : Nat} (hsu : u.su = { s.su with rejects := r }) :
    (goesOn u next).su = { s.su with load := some (.entries next), wordsRead := 0, rejects := r } := by
  simp only [goesOn, settleQuietly_su]
  simp [State.setLoad, hsu]

theorem EntryRead.goesOn {off : Nat} {ws : List Word} (h : EntryRead s u off ws) : EntryRead s (goesOn u next) off ws :=
  h.congr (by simp [Machine.goesOn])

theorem EventAt.goesOn {h : Nat} {e : Event} {f : Frame} (k : EventAt u h e f) : EventAt (goesOn u next) h e f := by
  intro i hi
  rw [← k i hi, Machine.goesOn, settleQuietly_latestWord]
  rfl

theorem Leaves.goesOn {xs : List Block} (h : Leaves s u xs) : Leaves s (goesOn u next) (xs ++ [.su]) := by
  have hset : Leaves u (u.setLoad (some (.entries next))) [.su] :=
    ⟨rfl, fun b hb => by cases b <;> simp [Same, latestWord, sramAddress] at hb ⊢⟩
  refine (h.trans (hset.trans (leaves_settleQuietly _))).mono ?_
  simp

@[simp] theorem goesOn_lc : (goesOn u next).lc = u.lc := by simp [Machine.goesOn]
@[simp] theorem goesOn_hc : (goesOn u next).hc = u.hc := by simp [Machine.goesOn]
@[simp] theorem goesOn_mx : (goesOn u next).mx = u.mx := by simp [Machine.goesOn]
@[simp] theorem goesOn_circuits : (goesOn u next).cc.circuits = u.cc.circuits := by simp [Machine.goesOn]
@[simp] theorem goesOn_paths : (goesOn u next).cc.paths = u.cc.paths := by simp [Machine.goesOn]
@[simp] theorem goesOn_evtHead : (goesOn u next).eu.evtHead = u.eu.evtHead := by simp [Machine.goesOn]
@[simp] theorem goesOn_circuit (c : Nat) : (goesOn u next).circuit c = u.circuit c := by simp [State.circuit]
@[simp] theorem goesOn_isNamed {r : Nat} (hsu : u.su = { s.su with rejects := r }) (c : Nat) : isNamed (goesOn u next) c = isNamed u c :=
  isNamed_congr (by simp) (by simp [goesOn_su hsu, hsu]) c

/-! ### Lines -/

/-- A circuit in IDLE as a group that named it leaves it (R28). -/
def CircuitRec.unnamed (r : CircuitRec) (named : Bool) : CircuitRec :=
  if r.state = .idle then { r with state := if named then .idle else .uninstalled } else r

theorem CircuitRec.unnamed_unnamed (r : CircuitRec) (b : Bool) : (r.unnamed b).unnamed b = r.unnamed b := by
  unfold CircuitRec.unnamed
  cases b <;> by_cases h : r.state = .idle <;> simp [h]

theorem unnameCircuit_circuit (s : State) (c d : Nat) :
    (unnameCircuit s c).circuit d = if d = c then (s.circuit c).unnamed (isNamed s c) else s.circuit d := by
  unfold unnameCircuit CircuitRec.unnamed
  split
  · exact enterIdle_circuit s c d
  · split
    · next hd => rw [hd]
    · rfl

theorem ccOnly_unnameCircuit (s : State) (c : Nat) : CcOnly s (unnameCircuit s c) := by
  unfold unnameCircuit
  split
  · exact ccOnly_enterIdle s c
  · exact .refl s

theorem isNamed_of_ccOnly {s t : State} (h : CcOnly s t) (c : Nat) : isNamed t c = isNamed s c := by
  obtain ⟨_, rfl⟩ := h
  rfl

/-- Circuits of a group in IDLE that nothing names now enter UNINSTALLED (R28). -/
theorem unnameCircuits_circuit (s : State) (cs : List Nat) (d : Nat) :
    (cs.foldl unnameCircuit s).circuit d = if d ∈ cs then (s.circuit d).unnamed (isNamed s d) else s.circuit d := by
  induction cs generalizing s with
  | nil => simp
  | cons c cs ih =>
    rw [List.foldl_cons, ih, isNamed_of_ccOnly (ccOnly_unnameCircuit s c), unnameCircuit_circuit]
    by_cases hd : d = c
    · subst hd
      simp [CircuitRec.unnamed_unnamed]
    · simp [hd]

/-- Naming leaves the masks, the pending list and the transmitter. -/
theorem unnameCircuits_rest (s : State) (cs : List Nat) : ((cs.foldl unnameCircuit s).cc.paths, (cs.foldl unnameCircuit s).cc.pendingList,
    (cs.foldl unnameCircuit s).cc.sending) = (s.cc.paths, s.cc.pendingList, s.cc.sending) :=
  foldl_keeps (fun s => (s.cc.paths, s.cc.pendingList, s.cc.sending)) _ (fun s c => by unfold unnameCircuit; split <;> rfl) cs s

theorem renameCircuits_rest (s : State) (cs : List Nat) : ((renameCircuits s cs).cc.paths, (renameCircuits s cs).cc.pendingList,
    (renameCircuits s cs).cc.sending) = (s.cc.paths, s.cc.pendingList, s.cc.sending) :=
  foldl_keeps (fun s => (s.cc.paths, s.cc.pendingList, s.cc.sending)) _ (fun s c => by unfold renameCircuit; split <;> rfl) cs s

/-- A circuit of the old group, the new one, or both, under the naming that the new one makes (R28). -/
theorem CircuitRec.unnamed_renamed (r : CircuitRec) (b : Bool) (old new : Prop) [Decidable old] [Decidable new] :
    (if new then (if old then r.unnamed b else r).renamed b else if old then r.unnamed b else r) =
      if (old ∧ r.state = .idle) ∨ (new ∧ (r.state = .idle ∨ r.state = .uninstalled)) then
        { r with state := if b then .idle else .uninstalled }
      else r := by
  by_cases hidle : r.state = .idle
  · by_cases hold : old <;> by_cases hnew : new <;> cases b <;> simp [CircuitRec.unnamed, CircuitRec.renamed, hidle, hold, hnew]
  · by_cases hnew : new <;> simp [CircuitRec.unnamed, CircuitRec.renamed, hidle, hnew]

/-- What the replacement of a line entry in a load does (R28, R178). -/
structure LineReplaced (s t : State) (n : Nat) (cfg : LineConfig) (rejected : Bool) : Prop where
  line    : ∀ m, t.line m = if m = n then { s.line n with applied := cfg, configRejected := rejected } else s.line m
  circuit : ∀ c, t.circuit c =
    if (c ∈ (s.line n).applied.call.path ∧ (s.circuit c).state = .idle) ∨
        (c ∈ cfg.call.path ∧ ((s.circuit c).state = .idle ∨ (s.circuit c).state = .uninstalled)) then
      { s.circuit c with state := if isNamed t c then .idle else .uninstalled }
    else s.circuit c
  rest    : (t.cc.paths, t.cc.pendingList, t.cc.sending) = (s.cc.paths, s.cc.pendingList, s.cc.sending)
  only    : ∃ x y, t = { s with lc := x, cc := y }

theorem replaceLine_replaced (s : State) (n : Nat) (cfg : LineConfig) (rejected : Bool) :
    LineReplaced s (replaceLine s n cfg rejected) n cfg rejected := by
  have hcc : CcOnly (modLine s n fun l => { l with applied := cfg, configRejected := rejected }) (replaceLine s n cfg rejected) :=
    (ccOnly_foldl _ _ ccOnly_unnameCircuit _).trans (ccOnly_renameCircuits _ _)
  have hun : CcOnly (modLine s n fun l => { l with applied := cfg, configRejected := rejected })
      ((s.line n).applied.call.path.foldl unnameCircuit (modLine s n fun l => { l with applied := cfg, configRejected := rejected })) :=
    ccOnly_foldl _ _ ccOnly_unnameCircuit _
  refine ⟨fun m => ?_, fun c => ?_, ?_, ?_⟩
  · rw [State.line_congr hcc.rest.1 m]
    simp
  · rw [isNamed_of_ccOnly hcc]
    simp only [replaceLine]
    rw [renameCircuits_circuit, isNamed_of_ccOnly hun, unnameCircuits_circuit]
    have hsame : (modLine s n fun l => { l with applied := cfg, configRejected := rejected }).circuit c = s.circuit c := by simp
    rw [hsame]
    exact CircuitRec.unnamed_renamed ..
  · exact (renameCircuits_rest _ _).trans ((unnameCircuits_rest _ _).trans (by simp))
  · obtain ⟨y, hy⟩ := hcc
    exact ⟨_, y, hy⟩

end Reading

end Sys2Proof.Machine

namespace Sys2Proof.Machine

/-! ## Each kind of entry (R174, O13) -/

section Entries

variable (s : State) (off k : Nat)

@[simp] theorem readEntry_su : (readEntry s off k).su = s.su := by obtain ⟨c, h⟩ := copiesOnly_readEntry s off k; rw [h]
@[simp] theorem readEntry_eu : (readEntry s off k).eu = s.eu := by obtain ⟨c, h⟩ := copiesOnly_readEntry s off k; rw [h]
@[simp] theorem readEntry_lc : (readEntry s off k).lc = s.lc := by obtain ⟨c, h⟩ := copiesOnly_readEntry s off k; rw [h]
@[simp] theorem readEntry_cc : (readEntry s off k).cc = s.cc := by obtain ⟨c, h⟩ := copiesOnly_readEntry s off k; rw [h]
@[simp] theorem readEntry_hc : (readEntry s off k).hc = s.hc := by obtain ⟨c, h⟩ := copiesOnly_readEntry s off k; rw [h]
@[simp] theorem readEntry_mx : (readEntry s off k).mx = s.mx := by obtain ⟨c, h⟩ := copiesOnly_readEntry s off k; rw [h]
@[simp] theorem readEntry_frame : (readEntry s off k).frame = s.frame := by obtain ⟨c, h⟩ := copiesOnly_readEntry s off k; rw [h]
@[simp] theorem readEntry_line (m : Nat) : (readEntry s off k).line m = s.line m := by simp [State.line]
@[simp] theorem readEntry_key (m : Nat) : (readEntry s off k).key m = s.key m := by simp [State.key]
@[simp] theorem readEntry_circuit (m : Nat) : (readEntry s off k).circuit m = s.circuit m := by simp [State.circuit]
@[simp] theorem readEntry_position (m : Nat) : (readEntry s off k).position m = s.position m := by simp [State.position]
@[simp] theorem readEntry_bridge (m : Nat) : (readEntry s off k).bridge m = s.bridge m := by simp [State.bridge]
theorem readEntry_leaves : Leaves s (readEntry s off k) [.bus] := (copiesOnly_readEntry s off k).leaves

/-! ### What the item's own block becomes -/

variable {s off} {u : State}

/-- A rejection after an entry's replacement leaves the copies as read. -/
theorem EntryRead.reject {ws : List Word} (h : EntryRead s u off ws) (w : Rejected) : EntryRead s (rejectEntry u w) off ws := h.congr (by simp)

theorem LineReplaced.leaves {t : State} {n : Nat} {cfg : LineConfig} {b : Bool} (h : LineReplaced s t n cfg b) : Leaves s t [.lc, .cc] := by
  have hrest := h.rest
  simp only [Prod.mk.injEq] at hrest
  obtain ⟨-, hlink⟩ := hrest
  obtain ⟨x, y, rfl⟩ := h.only
  refine ⟨rfl, fun b hb => ?_⟩
  cases b <;> simp [Same, latestWord, sramAddress] at hb ⊢
  case link => exact fun _ => hlink

theorem LineReplaced.bi {t : State} {n : Nat} {cfg : LineConfig} {b : Bool} (h : LineReplaced s t n cfg b) : t.bi = s.bi ∧ t.eu = s.eu ∧
    t.su = s.su ∧ t.frame = s.frame := by
  obtain ⟨x, y, rfl⟩ := h.only
  exact ⟨rfl, rfl, rfl, rfl⟩

end Entries

section LoadLine

variable {s : State} {n : Nat} {ws : List Word} {next : LoadItem}

/-- The line of an entry, its circuits, and what stays. -/
theorem loadedLine {v u : State} {cfg : LineConfig} {b : Bool} {r : Nat} (hv : LineReplaced (readEntry s (lineConfigOffset n) 16) v n cfg b)
    (hlc : u.lc = v.lc) (hcc : u.cc = v.cc) (hsu : u.su = { s.su with rejects := r }) :
    (goesOn u next).line n = { s.line n with applied := cfg, configRejected := b } ∧
      (∀ m, m ≠ n → (goesOn u next).line m = s.line m) ∧
      (∀ c, (goesOn u next).circuit c =
        if (c ∈ (s.line n).applied.call.path ∧ (s.circuit c).state = .idle) ∨
            (c ∈ cfg.call.path ∧ ((s.circuit c).state = .idle ∨ (s.circuit c).state = .uninstalled)) then
          { s.circuit c with state := if isNamed (goesOn u next) c then .idle else .uninstalled }
        else s.circuit c) ∧
      (goesOn u next).cc.paths = s.cc.paths := by
  have hline : ∀ m, (goesOn u next).line m = v.line m := fun m => State.line_congr (by simp [hlc]) m
  have hrest := hv.rest
  simp only [Prod.mk.injEq, readEntry_cc] at hrest
  refine ⟨by rw [hline, hv.line, if_pos rfl, readEntry_line], fun m hm => by rw [hline, hv.line, if_neg hm, readEntry_line], fun c => ?_, ?_⟩
  · have hnamed : isNamed (goesOn u next) c = isNamed v c := isNamed_congr (by simp [hlc]) (by simp [goesOn_su hsu, hv.bi.2.2.1]) c
    rw [hnamed, goesOn_circuit, State.circuit_congr hcc, hv.circuit c, readEntry_line, readEntry_circuit]
  · rw [goesOn_paths, hcc]
    exact hrest.1

/-- A valid line entry of a load. -/
theorem loadLine_valid (hheld : s.bi.held = []) (hw : waits s .load = false) (hload : s.su.load = some (.entries (.line n)))
    (hnext : nextItem s.su (.line n) = some next) (hws : ws = (List.range 16).map fun i => partRead s (lineConfigOffset n + i)) {cfg : LineConfig}
    (hparse : parseLine s.su.lineCount n ws = some cfg) :
    ∃ t, exec .loadEntryRead s = .next t ∧ t.line n = { s.line n with applied := cfg, configRejected := false } ∧
      (∀ m, m ≠ n → t.line m = s.line m) ∧ t.su = { s.su with load := some (.entries next), wordsRead := 0 } ∧
      (∀ c, t.circuit c =
        if (c ∈ (s.line n).applied.call.path ∧ (s.circuit c).state = .idle) ∨
            (c ∈ cfg.call.path ∧ ((s.circuit c).state = .idle ∨ (s.circuit c).state = .uninstalled)) then
          { s.circuit c with state := if isNamed t c then .idle else .uninstalled }
        else s.circuit c) ∧
      t.cc.paths = s.cc.paths ∧ EntryRead s t (lineConfigOffset n) ws ∧ Leaves s t [.bus, .lc, .cc, .su] := by
  have hv := replaceLine_replaced (readEntry s (lineConfigOffset n) 16) n cfg false
  obtain ⟨hbi, -, hsu, -⟩ := hv.bi
  rw [readEntry_su] at hsu
  have hitem : loadItem s (.line n) = replaceLine (readEntry s (lineConfigOffset n) 16) n cfg false := by
    simp [loadItem, loadLine, readEntry_writtenCopy, ← hws, hparse]
  have hread := entryRead_readEntry s (lineConfigOffset n) 16
  rw [← hws] at hread
  obtain ⟨hline, hothers, hcircuit, hpaths⟩ := loadedLine (next := next) hv rfl rfl hsu
  exact ⟨_, loadEntryRead_next hheld hw hload hnext hitem hsu (by rw [hbi]; exact hread.rest.2.2.2.1), hline, hothers, goesOn_su hsu, hcircuit, hpaths,
    (hread.congr (by rw [hbi])).goesOn, ((readEntry_leaves s _ _).trans hv.leaves).goesOn⟩

/-- A line entry that a load rejects. -/
theorem loadLine_rejected (hheld : s.bi.held = []) (hw : waits s .load = false) (hload : s.su.load = some (.entries (.line n)))
    (hnext : nextItem s.su (.line n) = some next) (hws : ws = (List.range 16).map fun i => partRead s (lineConfigOffset n + i))
    (hparse : parseLine s.su.lineCount n ws = none) (hpart : s.su.part = .loading) (hu : s.eu.unread ≤ 254) (he : s.eu.evtHead < 256) :
    ∃ t, exec .loadEntryRead s = .next t ∧ t.line n = { s.line n with applied := .null, configRejected := true } ∧
      (∀ m, m ≠ n → t.line m = s.line m) ∧
      t.su = { s.su with load := some (.entries next), wordsRead := 0, rejects := s.su.rejects + 1 } ∧
      (∀ c, t.circuit c =
        if c ∈ (s.line n).applied.call.path ∧ (s.circuit c).state = .idle then
          { s.circuit c with state := if isNamed t c then .idle else .uninstalled }
        else s.circuit c) ∧
      t.cc.paths = s.cc.paths ∧ EntryRead s t (lineConfigOffset n) ws ∧ EventAt t s.eu.evtHead (.configReject (.line n)) s.frame ∧
      Leaves s t [.bus, .events, .lc, .cc, .su] := by
  have hv := replaceLine_replaced (readEntry s (lineConfigOffset n) 16) n .null true
  obtain ⟨hbi, heu, hsu, hframe⟩ := hv.bi
  rw [readEntry_su] at hsu
  rw [readEntry_eu] at heu
  rw [readEntry_frame] at hframe
  have hitem : loadItem s (.line n) = rejectEntry (replaceLine (readEntry s (lineConfigOffset n) 16) n .null true) (.line n) := by
    simp [loadItem, loadLine, readEntry_writtenCopy, ← hws, hparse]
  have hread := entryRead_readEntry s (lineConfigOffset n) 16
  rw [← hws] at hread
  have hsu' := rejectEntry_su_loading (.line n) (by rw [hsu]; exact hpart)
  rw [hsu] at hsu'
  obtain ⟨hline, hothers, hcircuit, hpaths⟩ := loadedLine (next := next) hv (rejectEntry_lc _ (.line n)) (rejectEntry_cc _ (.line n)) hsu'
  have hevent := rejectEntry_eventAt (s := replaceLine (readEntry s (lineConfigOffset n) 16) n .null true) (.line n) (by rw [heu]; exact hu)
  rw [heu, hframe] at hevent
  refine ⟨_, loadEntryRead_next hheld hw hload hnext hitem hsu' (by rw [rejectEntry_bi_held, hbi]; exact hread.rest.2.2.2.1), hline, hothers,
    goesOn_su hsu', fun c => ?_, hpaths, ((hread.congr (by rw [hbi])).reject _).goesOn, hevent.goesOn,
    ((((readEntry_leaves s _ _).trans hv.leaves).trans (leaves_rejectEntry _ (by rw [heu]; exact he))).goesOn).mono (by decide)⟩
  rw [hcircuit c]
  simp [LineConfig.null]

end LoadLine

end Sys2Proof.Machine

namespace Sys2Proof.Machine

section LoadOthers

variable {s : State} {i : Nat} {ws : List Word} {next : LoadItem}

theorem leaves_modPosition (p : Nat) (f : PosRec → PosRec) : Leaves s (modPosition s p f) [.hc] :=
  ⟨rfl, fun b hb => by cases b <;> simp [Same, latestWord, sramAddress] at hb ⊢⟩

theorem leaves_setBridge (b : Nat) (r : BridgeRec) : Leaves s (s.setBridge b r) [.mx] :=
  ⟨rfl, fun b hb => by cases b <;> simp [Same, latestWord, sramAddress] at hb ⊢⟩

/-! ### An entry read, and then replaced or rejected -/

/-- The words of an entry are in the part's copies, and nothing else has happened (R129). -/
structure ReadInto (s w : State) (off : Nat) (ws : List Word) : Prop where
  read   : EntryRead s w off ws
  leaves : Leaves s w [.bus]
  su     : w.su = s.su
  eu     : w.eu = s.eu
  frame  : w.frame = s.frame
  lc     : w.lc = s.lc
  hc     : w.hc = s.hc
  mx     : w.mx = s.mx

theorem readEntry_into (s : State) {off k : Nat} (hws : ws = (List.range k).map fun j => partRead s (off + j)) :
    ∃ w, readEntry s off k = w ∧ writtenCopy w off k = ws ∧ ReadInto s w off ws :=
  ⟨_, rfl, by rw [readEntry_writtenCopy, hws], by rw [hws]; exact entryRead_readEntry s off k, readEntry_leaves s off k, by simp, by simp, by simp,
    by simp, by simp, by simp⟩

theorem ReadInto.loadedBridges {w : State} {off : Nat} (h : ReadInto s w off ws) (b : Nat) :
    (Machine.loadedBridges w b).mx = (Machine.loadedBridges s b).mx := by
  simp only [Machine.loadedBridges, h.mx]

/-- An entry has been read and its record replaced. -/
structure EntryReplaced (s v : State) (off : Nat) (ws : List Word) : Prop where
  read  : EntryRead s v off ws
  su    : v.su = s.su
  eu    : v.eu = s.eu
  frame : v.frame = s.frame

theorem EntryReplaced.su_same {v : State} {off : Nat} (h : EntryReplaced s v off ws) : v.su = { s.su with rejects := s.su.rejects } := h.su

/-- Its rejection is counted and issued (R174). -/
theorem EntryReplaced.rejected {v : State} {off : Nat} (h : EntryReplaced s v off ws) (w : Rejected) (hpart : s.su.part = .loading)
    (hu : s.eu.unread ≤ 254) :
    (rejectEntry v w).su = { s.su with rejects := s.su.rejects + 1 } ∧ EventAt (rejectEntry v w) s.eu.evtHead (.configReject w) s.frame := by
  have hsu := rejectEntry_su_loading w (by rw [h.su]; exact hpart)
  have hevent := rejectEntry_eventAt w (by rw [h.eu]; exact hu)
  rw [h.su] at hsu
  rw [h.eu, h.frame] at hevent
  exact ⟨hsu, hevent⟩

/-! ### Positions (R62) -/

/-- A valid position entry of a load. -/
theorem loadPosition_valid (hheld : s.bi.held = []) (hw : waits s .load = false) (hload : s.su.load = some (.entries (.position i)))
    (hnext : nextItem s.su (.position i) = some next) (hws : ws = (List.range 64).map fun k => partRead s (positionConfigOffset i + k))
    {cfg : PosConfig} (hparse : parsePosition s.su.positionCount s.su.lineCount s.su.bridgeCount i ws = some cfg) :
    ∃ t, exec .loadEntryRead s = .next t ∧ t.position i = { s.position i with applied := cfg, configRejected := false } ∧
      (∀ q, q ≠ i → t.position q = s.position q) ∧ (t.hc.handsets, t.hc.calls) = (s.hc.handsets, s.hc.calls) ∧
      t.su = { s.su with load := some (.entries next), wordsRead := 0 } ∧ EntryRead s t (positionConfigOffset i) ws ∧
      Leaves s t [.bus, .hc, .su] := by
  obtain ⟨w, hread, hwritten, hinto⟩ := readEntry_into s hws
  have hitem : loadItem s (.position i) = modPosition w i fun r => { r with applied := cfg, configRejected := false } := by
    simp only [loadItem, loadPosition, hread, hwritten, hinto.su, hparse]
  have hrec : ∀ q, (modPosition w i fun r => { r with applied := cfg, configRejected := false }).position q =
      if q = i then { s.position i with applied := cfg, configRejected := false } else s.position q := fun q => by
    simp [State.position_congr hinto.hc]
  have hblock : ((modPosition w i fun r => { r with applied := cfg, configRejected := false }).hc.handsets, (modPosition w i fun r => { r with applied := cfg, configRejected := false }).hc.calls) = (s.hc.handsets, s.hc.calls) :=
    congrArg (fun x => (x.handsets, x.calls)) hinto.hc
  have hleaves : Leaves s (modPosition w i fun r => { r with applied := cfg, configRejected := false }) [.bus, .hc] := hinto.leaves.trans (leaves_modPosition ..)
  have hv : EntryReplaced s (modPosition w i fun r => { r with applied := cfg, configRejected := false }) (positionConfigOffset i) ws :=
    ⟨hinto.read.congr rfl, hinto.su, hinto.eu, hinto.frame⟩
  generalize (modPosition w i fun r => { r with applied := cfg, configRejected := false }) = v at hitem hrec hblock hleaves hv
  have hrec' : ∀ q, (goesOn v next).position q = if q = i then { s.position i with applied := cfg, configRejected := false } else s.position q := fun q => by
    rw [State.position_congr goesOn_hc, hrec]
  exact ⟨_, loadEntryRead_next hheld hw hload hnext hitem hv.su_same hv.read.rest.2.2.2.1, by rw [hrec', if_pos rfl],
    fun q hq => by rw [hrec', if_neg hq], by rw [goesOn_hc]; exact hblock, goesOn_su hv.su_same, hv.read.goesOn,
    hleaves.goesOn⟩

/-- A position entry that a load rejects. -/
theorem loadPosition_rejected (hheld : s.bi.held = []) (hw : waits s .load = false) (hload : s.su.load = some (.entries (.position i)))
    (hnext : nextItem s.su (.position i) = some next) (hws : ws = (List.range 64).map fun k => partRead s (positionConfigOffset i + k))
    (hparse : parsePosition s.su.positionCount s.su.lineCount s.su.bridgeCount i ws = none) (hpart : s.su.part = .loading)
    (hu : s.eu.unread ≤ 254) (he : s.eu.evtHead < 256) :
    ∃ t, exec .loadEntryRead s = .next t ∧ t.position i = { s.position i with applied := .cold, configRejected := true } ∧
      (∀ q, q ≠ i → t.position q = s.position q) ∧ (t.hc.handsets, t.hc.calls) = (s.hc.handsets, s.hc.calls) ∧
      t.su = { s.su with load := some (.entries next), wordsRead := 0, rejects := s.su.rejects + 1 } ∧
      EntryRead s t (positionConfigOffset i) ws ∧ EventAt t s.eu.evtHead (.configReject (.position i)) s.frame ∧
      Leaves s t [.bus, .events, .hc, .su] := by
  obtain ⟨w, hread, hwritten, hinto⟩ := readEntry_into s hws
  have hitem : loadItem s (.position i) = rejectEntry (modPosition w i fun r => { r with applied := .cold, configRejected := true }) (.position i) := by
    simp only [loadItem, loadPosition, hread, hwritten, hinto.su, hparse]
  have hrec : ∀ q, (modPosition w i fun r => { r with applied := .cold, configRejected := true }).position q =
      if q = i then { s.position i with applied := .cold, configRejected := true } else s.position q := fun q => by
    simp [State.position_congr hinto.hc]
  have hblock : ((modPosition w i fun r => { r with applied := .cold, configRejected := true }).hc.handsets, (modPosition w i fun r => { r with applied := .cold, configRejected := true }).hc.calls) = (s.hc.handsets, s.hc.calls) :=
    congrArg (fun x => (x.handsets, x.calls)) hinto.hc
  have hleaves : Leaves s (modPosition w i fun r => { r with applied := .cold, configRejected := true }) [.bus, .hc] := hinto.leaves.trans (leaves_modPosition ..)
  have hv : EntryReplaced s (modPosition w i fun r => { r with applied := .cold, configRejected := true }) (positionConfigOffset i) ws :=
    ⟨hinto.read.congr rfl, hinto.su, hinto.eu, hinto.frame⟩
  generalize (modPosition w i fun r => { r with applied := .cold, configRejected := true }) = v at hitem hrec hblock hleaves hv
  have hrec' : ∀ q, (goesOn (rejectEntry v (.position i)) next).position q = if q = i then { s.position i with applied := .cold, configRejected := true } else s.position q := fun q => by
    rw [State.position_congr goesOn_hc, rejectEntry_position, hrec]
  obtain ⟨hsu, hevent⟩ := hv.rejected (.position i) hpart hu
  exact ⟨_, loadEntryRead_next hheld hw hload hnext hitem hsu ((rejectEntry_bi_held v _).trans hv.read.rest.2.2.2.1), by rw [hrec', if_pos rfl],
    fun q hq => by rw [hrec', if_neg hq], by rw [goesOn_hc, rejectEntry_hc]; exact hblock, goesOn_su hsu,
    (hv.read.reject _).goesOn, hevent.goesOn, ((hleaves.trans (leaves_rejectEntry _ (by rw [hv.eu]; exact he))).goesOn).mono (by decide)⟩

/-! ### Bridges (R87; log 35) -/

theorem validBridge_congr {s t : State} (hsu : t.su = s.su) (hlc : t.lc = s.lc) (hmx : t.mx = s.mx) (b : Nat) (ws : List Word) :
    validBridge t b ws = validBridge s b ws := by
  have hline : t.line = s.line := funext (State.line_congr hlc)
  have helsewhere : memberElsewhere t b = memberElsewhere s b := by
    funext n
    simp only [memberElsewhere, hmx]
  have hallowed : memberAllowed t b = memberAllowed s b := by
    funext m
    unfold memberAllowed
    rw [hsu, hline, helsewhere]
  unfold validBridge
  rw [hsu, hallowed]

/-- A valid bridge entry of a load. -/
theorem loadBridge_valid (hheld : s.bi.held = []) (hw : waits s .load = false) (hload : s.su.load = some (.entries (.bridge i)))
    (hnext : nextItem s.su (.bridge i) = some next) (hws : ws = (List.range 64).map fun k => partRead s (bridgeConfigOffset i + k))
    {cfg : BridgeConfig} (hparse : validBridge (loadedBridges s i) i ws = some cfg) :
    ∃ t, exec .loadEntryRead s = .next t ∧ t.bridge i = { BridgeRec.cold with applied := cfg } ∧
      (∀ q, q ≠ i → t.bridge q = s.bridge q) ∧ (t.mx.speakers, t.mx.snapshot, t.mx.out) = (s.mx.speakers, s.mx.snapshot, s.mx.out) ∧
      t.su = { s.su with load := some (.entries next), wordsRead := 0 } ∧ EntryRead s t (bridgeConfigOffset i) ws ∧
      Leaves s t [.bus, .mx, .su] := by
  obtain ⟨w, hread, hwritten, hinto⟩ := readEntry_into s hws
  have hvalid : validBridge (loadedBridges w i) i ws = some cfg :=
    (validBridge_congr (s := loadedBridges s i) (t := loadedBridges w i) hinto.su hinto.lc (hinto.loadedBridges i) i ws).trans hparse
  have hitem : loadItem s (.bridge i) = w.setBridge i { BridgeRec.cold with applied := cfg } := by
    simp only [loadItem, loadBridge, hread, hwritten, hvalid]
  have hrec : ∀ q, (w.setBridge i { BridgeRec.cold with applied := cfg }).bridge q =
      if q = i then { BridgeRec.cold with applied := cfg } else s.bridge q := fun q => by
    simp [State.bridge_congr hinto.mx]
  have hblock : ((w.setBridge i { BridgeRec.cold with applied := cfg }).mx.speakers, (w.setBridge i { BridgeRec.cold with applied := cfg }).mx.snapshot, (w.setBridge i { BridgeRec.cold with applied := cfg }).mx.out) = (s.mx.speakers, s.mx.snapshot, s.mx.out) :=
    congrArg (fun x => (x.speakers, x.snapshot, x.out)) hinto.mx
  have hleaves : Leaves s (w.setBridge i { BridgeRec.cold with applied := cfg }) [.bus, .mx] := hinto.leaves.trans (leaves_setBridge ..)
  have hv : EntryReplaced s (w.setBridge i { BridgeRec.cold with applied := cfg }) (bridgeConfigOffset i) ws :=
    ⟨hinto.read.congr rfl, hinto.su, hinto.eu, hinto.frame⟩
  generalize (w.setBridge i { BridgeRec.cold with applied := cfg }) = v at hitem hrec hblock hleaves hv
  have hrec' : ∀ q, (goesOn v next).bridge q = if q = i then { BridgeRec.cold with applied := cfg } else s.bridge q := fun q => by
    rw [State.bridge_congr goesOn_mx, hrec]
  exact ⟨_, loadEntryRead_next hheld hw hload hnext hitem hv.su_same hv.read.rest.2.2.2.1, by rw [hrec', if_pos rfl],
    fun q hq => by rw [hrec', if_neg hq], by rw [goesOn_mx]; exact hblock, goesOn_su hv.su_same, hv.read.goesOn,
    hleaves.goesOn⟩

/-- A bridge entry that a load rejects. -/
theorem loadBridge_rejected (hheld : s.bi.held = []) (hw : waits s .load = false) (hload : s.su.load = some (.entries (.bridge i)))
    (hnext : nextItem s.su (.bridge i) = some next) (hws : ws = (List.range 64).map fun k => partRead s (bridgeConfigOffset i + k))
    (hparse : validBridge (loadedBridges s i) i ws = none) (hpart : s.su.part = .loading)
    (hu : s.eu.unread ≤ 254) (he : s.eu.evtHead < 256) :
    ∃ t, exec .loadEntryRead s = .next t ∧ t.bridge i = { BridgeRec.cold with configRejected := true } ∧
      (∀ q, q ≠ i → t.bridge q = s.bridge q) ∧ (t.mx.speakers, t.mx.snapshot, t.mx.out) = (s.mx.speakers, s.mx.snapshot, s.mx.out) ∧
      t.su = { s.su with load := some (.entries next), wordsRead := 0, rejects := s.su.rejects + 1 } ∧
      EntryRead s t (bridgeConfigOffset i) ws ∧ EventAt t s.eu.evtHead (.configReject (.bridge i)) s.frame ∧
      Leaves s t [.bus, .events, .mx, .su] := by
  obtain ⟨w, hread, hwritten, hinto⟩ := readEntry_into s hws
  have hvalid : validBridge (loadedBridges w i) i ws = none :=
    (validBridge_congr (s := loadedBridges s i) (t := loadedBridges w i) hinto.su hinto.lc (hinto.loadedBridges i) i ws).trans hparse
  have hitem : loadItem s (.bridge i) = rejectEntry (w.setBridge i { BridgeRec.cold with configRejected := true }) (.bridge i) := by
    simp only [loadItem, loadBridge, hread, hwritten, hvalid]
  have hrec : ∀ q, (w.setBridge i { BridgeRec.cold with configRejected := true }).bridge q =
      if q = i then { BridgeRec.cold with configRejected := true } else s.bridge q := fun q => by
    simp [State.bridge_congr hinto.mx]
  have hblock : ((w.setBridge i { BridgeRec.cold with configRejected := true }).mx.speakers, (w.setBridge i { BridgeRec.cold with configRejected := true }).mx.snapshot, (w.setBridge i { BridgeRec.cold with configRejected := true }).mx.out) = (s.mx.speakers, s.mx.snapshot, s.mx.out) :=
    congrArg (fun x => (x.speakers, x.snapshot, x.out)) hinto.mx
  have hleaves : Leaves s (w.setBridge i { BridgeRec.cold with configRejected := true }) [.bus, .mx] := hinto.leaves.trans (leaves_setBridge ..)
  have hv : EntryReplaced s (w.setBridge i { BridgeRec.cold with configRejected := true }) (bridgeConfigOffset i) ws :=
    ⟨hinto.read.congr rfl, hinto.su, hinto.eu, hinto.frame⟩
  generalize (w.setBridge i { BridgeRec.cold with configRejected := true }) = v at hitem hrec hblock hleaves hv
  have hrec' : ∀ q, (goesOn (rejectEntry v (.bridge i)) next).bridge q = if q = i then { BridgeRec.cold with configRejected := true } else s.bridge q := fun q => by
    rw [State.bridge_congr goesOn_mx, rejectEntry_bridge, hrec]
  obtain ⟨hsu, hevent⟩ := hv.rejected (.bridge i) hpart hu
  exact ⟨_, loadEntryRead_next hheld hw hload hnext hitem hsu ((rejectEntry_bi_held v _).trans hv.read.rest.2.2.2.1), by rw [hrec', if_pos rfl],
    fun q hq => by rw [hrec', if_neg hq], by rw [goesOn_mx, rejectEntry_mx]; exact hblock, goesOn_su hsu,
    (hv.read.reject _).goesOn, hevent.goesOn, ((hleaves.trans (leaves_rejectEntry _ (by rw [hv.eu]; exact he))).goesOn).mono (by decide)⟩

/-! ### Recorder channels (R97) -/

/-- A recorder entry is only read. -/
theorem loadRecorder_reads (hheld : s.bi.held = []) (hw : waits s .load = false) (hload : s.su.load = some (.entries (.recorder i)))
    (hnext : nextItem s.su (.recorder i) = some next) (hws : ws = [partRead s (recorderConfigOffset i)]) :
    ∃ t, exec .loadEntryRead s = .next t ∧ t.su = { s.su with load := some (.entries next), wordsRead := 0 } ∧
      EntryRead s t (recorderConfigOffset i) ws ∧ Leaves s t [.bus, .su] := by
  have hread := entryRead_readEntry s (recorderConfigOffset i) 1
  have hone : ((List.range 1).map fun k => partRead s (recorderConfigOffset i + k)) = ws := by simp [hws]
  rw [hone] at hread
  exact ⟨_, loadEntryRead_next (r := s.su.rejects) (u := readEntry s (recorderConfigOffset i) 1) hheld hw hload hnext rfl (by simp)
    (by simpa using hread.rest.2.2.2.1), goesOn_su (r := s.su.rejects) (by simp), hread.goesOn, (readEntry_leaves s _ _).goesOn⟩

/-! ### Keys (R12, R131) -/

theorem appearanceOffset_key (i : Nat) : 128 * (i / 128) + i % 128 = i := Nat.div_add_mod i 128

theorem indexDrops_key (s : State) (o : Option Nat) (p k : Nat) : (indexDrops s o p).key k = s.key k := by cases o <;> rfl
theorem indexAdds_key (s : State) (o : Option Nat) (p k : Nat) : (indexAdds s o p).key k = s.key k := by cases o <;> rfl

/-- A key's change leaves every other key (R12). -/
theorem applyKey_key (s : State) (p k : Nat) (v : KeyVal) (j : Nat) :
    (applyKey s p k v).key j = if j = 128 * p + k then v else s.key j := by
  have hfollow : AlertsOnly (indexKey s p k v) (applyKey s p k v) := alertsOnly_foldl _ _ (fun u n => alertsOnly_followAudible s u p n) _
  have hkeys : (applyKey s p k v).key j = (indexKey s p k v).key j := by
    obtain ⟨a, ha⟩ := hfollow
    rw [ha]
    rfl
  rw [hkeys]
  by_cases h : s.key (128 * p + k) = v
  · rw [indexKey_of_eq h]
    split
    · next hj => rw [hj, h]
    · rfl
  · rw [indexKey_of_ne h, indexAdds_key, indexDrops_key]
    simp

/-- A key entry of a load takes its word's value, or EMPTY with CONFIG_REJECT (R12). -/
theorem loadKey_reads (hheld : s.bi.held = []) (hw : waits s .load = false) (hload : s.su.load = some (.entries (.key i)))
    (hnext : nextItem s.su (.key i) = some next) (hpart : s.su.part = .loading) (hu : s.eu.unread ≤ 254) (he : s.eu.evtHead < 256)
    (hws : ws = [partRead s (appearanceOffset i)]) {v : KeyVal} {rejected : Bool}
    (hparse : parseKey s.su.positionCount s.su.lineCount (i / 128) (wordOf ws 0) = (v, rejected)) :
    ∃ t, exec .loadEntryRead s = .next t ∧ t.key i = v ∧ (∀ j, j ≠ i → t.key j = s.key j) ∧ t.lc.lines = s.lc.lines ∧
      t.su = { s.su with
        load := some (.entries next), wordsRead := 0, rejects := s.su.rejects + if rejected = true then 1 else 0 } ∧
      EntryRead s t (appearanceOffset i) ws ∧
      (rejected = true → EventAt t s.eu.evtHead (.configReject (.key (i / 128) (i % 128))) s.frame) ∧
      (rejected = false → t.eu.evtHead = s.eu.evtHead) ∧ Leaves s t [.bus, .events, .lc, .su] := by
  have hread := entryRead_readEntry s (appearanceOffset i) 1
  have hone : ((List.range 1).map fun k => partRead s (appearanceOffset i + k)) = ws := by simp [hws]
  rw [hone] at hread
  have hcopy : copyAt (readEntry s (appearanceOffset i) 1) (appearanceOffset i) = wordOf ws 0 := by
    rw [hread.copies, if_pos (by simp [hws]), Nat.sub_self]
  have hkeys := keysOnly_applyKey (readEntry s (appearanceOffset i) 1) (i / 128) (i % 128) v
  have hkey : ∀ j, (applyKey (readEntry s (appearanceOffset i) 1) (i / 128) (i % 128) v).key j = if j = i then v else s.key j := fun j => by
    rw [applyKey_key, appearanceOffset_key, readEntry_key]
  generalize hv : applyKey (readEntry s (appearanceOffset i) 1) (i / 128) (i % 128) v = u at hkeys hkey
  obtain ⟨hlines, hbi, heu, hsu, -, hframe⟩ := hkeys.rest
  rw [readEntry_lc] at hlines
  rw [readEntry_eu] at heu
  rw [readEntry_su] at hsu
  rw [readEntry_frame] at hframe
  have hleaves : Leaves s u [.bus, .lc] := (readEntry_leaves s _ _).trans hkeys.leaves
  have hitem : loadItem s (.key i) = if rejected then rejectEntry u (.key (i / 128) (i % 128)) else u := by
    simp [loadItem, loadKey, writeKey, appearanceOffset_key, hcopy, hparse, hv]
  cases rejected with
  | false =>
    rw [if_neg Bool.false_ne_true] at hitem
    have hk : ∀ j, (goesOn u next).key j = if j = i then v else s.key j := fun j => (State.key_congr goesOn_lc j).trans (hkey j)
    exact ⟨_, loadEntryRead_next (r := s.su.rejects) hheld hw hload hnext hitem hsu (by rw [hbi]; exact hread.rest.2.2.2.1),
      by rw [hk, if_pos rfl], fun j hj => by rw [hk, if_neg hj], by rw [goesOn_lc, hlines], goesOn_su (r := s.su.rejects) hsu,
      (hread.congr (by rw [hbi])).goesOn, fun h => absurd h Bool.false_ne_true, fun _ => by rw [goesOn_evtHead, heu],
      hleaves.goesOn.mono (by decide)⟩
  | true =>
    rw [if_pos rfl] at hitem
    have hsu' := rejectEntry_su_loading (.key (i / 128) (i % 128)) (by rw [hsu]; exact hpart)
    rw [hsu] at hsu'
    have hevent := rejectEntry_eventAt (s := u) (.key (i / 128) (i % 128)) (by rw [heu]; exact hu)
    rw [heu, hframe] at hevent
    have hk : ∀ j, (goesOn (rejectEntry u (.key (i / 128) (i % 128))) next).key j = if j = i then v else s.key j := fun j =>
      (State.key_congr goesOn_lc j).trans ((rejectEntry_key _ _ j).trans (hkey j))
    exact ⟨_, loadEntryRead_next hheld hw hload hnext hitem hsu' (by rw [rejectEntry_bi_held, hbi]; exact hread.rest.2.2.2.1),
      by rw [hk, if_pos rfl], fun j hj => by rw [hk, if_neg hj], by rw [goesOn_lc, rejectEntry_lc, hlines], goesOn_su hsu',
      ((hread.congr (by rw [hbi])).reject _).goesOn, fun _ => hevent.goesOn, fun h => absurd h.symm Bool.false_ne_true,
      ((hleaves.trans (leaves_rejectEntry _ (by rw [heu]; exact he))).goesOn).mono (by decide)⟩

end LoadOthers

/-- The order of a load: lines, positions, keys, bridges, recorder channels, each to its count (R174). -/
theorem nextItem_order (su : SU) (i : Nat) :
    nextItem su (.line i) = (if i + 1 < su.lineCount then some (.line (i + 1)) else some (.position 0)) ∧
    nextItem su (.position i) = (if i + 1 < su.positionCount then some (.position (i + 1)) else some (.key 0)) ∧
    nextItem su (.key i) =
      (if i + 1 < 128 * su.positionCount then some (.key (i + 1)) else if su.bridgeCount ≠ 0 then some (.bridge 0)
       else if su.recorderCount ≠ 0 then some (.recorder 0) else none) ∧
    nextItem su (.bridge i) =
      (if i + 1 < su.bridgeCount then some (.bridge (i + 1)) else if su.recorderCount ≠ 0 then some (.recorder 0) else none) ∧
    nextItem su (.recorder i) = (if i + 1 < su.recorderCount then some (.recorder (i + 1)) else none) := by
  simp [nextItem, Nat.pos_iff_ne_zero]

/-- Settles O13: each kind of entry by its own lemma, valid and rejected. -/
theorem loadReadsEntries : Obligations.LoadReadsEntries := by
  unfold Obligations.LoadReadsEntries
  refine ⟨nextItem_order, fun s ws next hheld hw => ⟨fun n hload hnext hws => ⟨fun cfg hparse => ?_, fun hparse hpart hu he => ?_⟩,
    fun p hload hnext hws => ⟨fun cfg hparse => ?_, fun hparse hpart hu he => ?_⟩, fun k v rejected hload hnext hpart hu he hws hparse => ?_,
    fun b hload hnext hws => ⟨fun cfg hparse => ?_, fun hparse hpart hu he => ?_⟩, fun r hload hnext hws => ?_⟩⟩
  · exact loadLine_valid hheld hw hload hnext hws hparse
  · exact loadLine_rejected hheld hw hload hnext hws hparse hpart hu he
  · exact loadPosition_valid hheld hw hload hnext hws hparse
  · exact loadPosition_rejected hheld hw hload hnext hws hparse hpart hu he
  · exact loadKey_reads hheld hw hload hnext hpart hu he hws hparse
  · exact loadBridge_valid hheld hw hload hnext hws hparse
  · exact loadBridge_rejected hheld hw hload hnext hws hparse hpart hu he
  · exact loadRecorder_reads hheld hw hload hnext hws

end Sys2Proof.Machine

namespace Sys2Proof.Machine

/-! ## Processor writes to copied words (R126, R127, R129 to R131) -/

section CopiedWrites

/-- The enabled bytes have reached the SRAM and the part's copy; nothing has been applied yet (R126, R131). -/
def merged (s : State) (off : Nat) (data : Word) (be : ByteEnables) : State :=
  mergeCopy (writeSram s (sramAddress s off) data be) off data be

variable (s : State) (off : Nat) (data : Word) (be : ByteEnables)

@[simp] theorem merged_frame : (merged s off data be).frame = s.frame := rfl
@[simp] theorem merged_re : (merged s off data be).re = s.re := rfl
@[simp] theorem merged_eu : (merged s off data be).eu = s.eu := rfl
@[simp] theorem merged_lc : (merged s off data be).lc = s.lc := rfl
@[simp] theorem merged_cc : (merged s off data be).cc = s.cc := rfl
@[simp] theorem merged_hc : (merged s off data be).hc = s.hc := rfl
@[simp] theorem merged_mx : (merged s off data be).mx = s.mx := rfl
@[simp] theorem merged_ra : (merged s off data be).ra = s.ra := rfl
@[simp] theorem merged_um : (merged s off data be).um = s.um := rfl
@[simp] theorem merged_su : (merged s off data be).su = s.su := rfl
@[simp] theorem merged_held : (merged s off data be).bi.held = s.bi.held := rfl
@[simp] theorem merged_line (m : Nat) : (merged s off data be).line m = s.line m := rfl
@[simp] theorem merged_key (m : Nat) : (merged s off data be).key m = s.key m := rfl
@[simp] theorem merged_appEntries (m : Nat) : (merged s off data be).appEntries m = s.appEntries m := rfl
@[simp] theorem merged_alertList (m : Nat) : (merged s off data be).alertList m = s.alertList m := rfl
@[simp] theorem merged_circuit (m : Nat) : (merged s off data be).circuit m = s.circuit m := rfl
@[simp] theorem merged_path (m : Nat) : (merged s off data be).path m = s.path m := rfl
@[simp] theorem merged_handset (m : Party) : (merged s off data be).handset m = s.handset m := rfl
@[simp] theorem merged_call (m : Nat) : (merged s off data be).call m = s.call m := rfl
@[simp] theorem merged_position (m : Nat) : (merged s off data be).position m = s.position m := rfl
@[simp] theorem merged_speaker (m : Nat) : (merged s off data be).speaker m = s.speaker m := rfl
@[simp] theorem merged_context (m : Nat) : (merged s off data be).context m = s.context m := rfl
@[simp] theorem merged_writes : writesOf (merged s off data be) = writesOf s := rfl

theorem merged_copyAt (o : Nat) :
    copyAt (merged s off data be) o = if o = off then mergeBytes (copyAt s off) data be else copyAt s o := copyAt_setCopy ..

/-- The written copy of an entry does not depend on the SRAM. -/
theorem merged_writtenCopy (o n : Nat) : writtenCopy (merged s off data be) o n = writtenCopy (mergeCopy s off data be) o n := rfl

theorem merged_latestWord (o : Nat) (h : o ≠ off) : latestWord (merged s off data be) o = latestWord s o :=
  writeSram_latestWord s off data be o h

theorem leaves_merged : Leaves s (merged s off data be) [.sram, .words, .bus] :=
  ⟨rfl, fun b hb => by
    cases b <;> simp [Same] at hb ⊢
    case meter => exact fun h => ⟨h, rfl⟩⟩

variable {s off data be}

/-- What a write and the work that follows it leave in the SRAM and on the processor's side of the bus. -/
theorem wrote_settle {u : State} {xs : List Block} (h : Work (merged s off data be) u xs) (he : s.eu.evtHead < 256) (b : State) :
    Wrote s (settle b u) off data be ∧ Copied s (settle b u) off data be ∧ Leaves s (settle b u) ([.sram, .words, .bus] ++ xs) := by
  have hbi := h.call.bi
  simp only [Prod.mk.injEq] at hbi
  obtain ⟨hbase, hcopies, hstart, hlatch, -, hheld, hread⟩ := hbi
  refine ⟨⟨?_, fun o ho hr => ?_⟩, ⟨fun o => ?_, ?_⟩, ?_⟩
  · rw [settle_mem, h.call.mem]
    rfl
  · rw [settle_latestWord b u o fun hm => hr (isMirror_owned o hm), (h.call.words he).2 o hr, merged_latestWord s off data be o ho]
  · rw [← merged_copyAt]
    simp [copyAt, hcopies]
  · simp only [settle_bi_base, settle_bi_startCopy, settle_bi_latch, settle_bi_held, settle_bi_readData, hbase, hstart, hlatch, hheld, hread]
    exact ⟨rfl, rfl, rfl, rfl, rfl⟩
  · exact (((leaves_merged s off data be).trans (h.leaves he)).trans (leaves_settle b u)).mono (by simp)

/-- A write to a copied word is taken at once, and applied to the merged copy (R127, R131). -/
theorem takeWrite_copied (hc : s.su.part.copying = true) (hz : zoneKind (regionOf off) = .copied) (h0 : off ≠ 0) :
    takeWrite s off data be = copyWrite (writeSram s (sramAddress s off) data be) off data be := by
  have hpass : passes s.su.part (regionOf off) = true := by simp [passes, hz]
  have hcopying : (writeSram s (sramAddress s off) data be).su.part.copying = true := hc
  simp only [takeWrite, hpass, if_true, if_neg h0, hcopying]

theorem done_merged {u : State} {xs : List Block} (h : Work (merged s off data be) u xs) (hheld : s.bi.held = []) : done s u = .next (settle s u) :=
  done_of_nothingHeld _ _ (h.call.held.trans hheld)

/-! ### The regions of the tables (R128) -/

theorem regionOf_appearance (p : Fin 32) (k : Fin 128) : regionOf (appearanceOffset (128 * p + k)) = .appearance p k := by
  have hp := p.isLt
  have hk := k.isLt
  unfold regionOf appearanceOffset
  repeat rw [if_neg (by omega)]
  rw [if_pos (by omega)]
  congr 1 <;> omega

theorem regionOf_lineConfig (n : Fin 256) : regionOf (lineConfigOffset n) = .lineConfig n 0 := by
  have hn := n.isLt
  unfold regionOf lineConfigOffset
  repeat rw [if_neg (by omega)]
  rw [if_pos (by omega)]
  congr 1 <;> omega

theorem regionOf_positionConfig (p : Fin 32) : regionOf (positionConfigOffset p) = .positionConfig p 0 := by
  have hp := p.isLt
  unfold regionOf positionConfigOffset
  repeat rw [if_neg (by omega)]
  rw [if_pos (by omega)]
  congr 1 <;> omega

theorem exec_appearanceWrite (p : Fin 32) (k : Fin 128) (hc : s.su.part.copying = true) (h : Taken s (appearanceOffset (128 * p + k)) be) :
    exec (.appearanceWrite p k data be) s = done s (writeKey (merged s (appearanceOffset (128 * p + k)) data be) p k) := by
  have hexec : exec (.appearanceWrite p k data be) s = apertureWrite s (appearanceOffset (128 * p + k)) data be := rfl
  rw [hexec, apertureWrite_taken h, takeWrite_copied hc (by rw [regionOf_appearance]; rfl) (by simp [appearanceOffset])]
  simp only [copyWrite, regionOf_appearance]
  rfl

theorem exec_lineCommit (n : Fin 256) (hc : s.su.part.copying = true) (h : Taken s (lineConfigOffset n) be) :
    exec (.lineCommit n data be) s = done s (commitLine (merged s (lineConfigOffset n) data be) n) := by
  have hexec : exec (.lineCommit n data be) s = apertureWrite s (lineConfigOffset n) data be := rfl
  rw [hexec, apertureWrite_taken h, takeWrite_copied hc (by rw [regionOf_lineConfig]; rfl) (by simp [lineConfigOffset])]
  simp only [copyWrite, regionOf_lineConfig, if_true]
  rfl

theorem exec_positionCommit (p : Fin 32) (hc : s.su.part.copying = true) (h : Taken s (positionConfigOffset p) be) :
    exec (.positionCommit p data be) s = done s (commitPosition (merged s (positionConfigOffset p) data be) p) := by
  have hexec : exec (.positionCommit p data be) s = apertureWrite s (positionConfigOffset p) data be := rfl
  rw [hexec, apertureWrite_taken h, takeWrite_copied hc (by rw [regionOf_positionConfig]; rfl) (by simp [positionConfigOffset])]
  simp only [copyWrite, regionOf_positionConfig, if_true]
  rfl

end CopiedWrites

end Sys2Proof.Machine

namespace Sys2Proof.Machine

/-! ## Alert lists in ring order (R14 to R16) -/

section RingOrder

/-- The order of rings depends on the lines and the frame alone. -/
theorem ringsBefore_congr {s t : State} (hl : t.lc.lines = s.lc.lines) (hf : t.frame = s.frame) (a b : Nat) :
    ringsBefore t a b = ringsBefore s a b := by
  have hline : t.line = s.line := funext fun m => by simp only [State.line, hl]
  unfold ringsBefore since
  rw [hline, hf]

/-- Rings have a strict order: an older start, and the lower number among equal ones (R14). -/
theorem ringsBefore_asymm {s : State} {a b : Nat} (h : ringsBefore s a b = true) : ringsBefore s b a = false := by
  simp [ringsBefore] at h ⊢
  omega

theorem insertByRing_congr {s t : State} (hl : t.lc.lines = s.lc.lines) (hf : t.frame = s.frame) (n : Nat) (l : List Nat) :
    insertByRing t n l = insertByRing s n l := by
  induction l with
  | nil => rfl
  | cons m l ih => simp [insertByRing, ringsBefore_congr hl hf, ih]

theorem insertedByRing_insertByRing (s : State) (n : Nat) (l : List Nat) : insertedByRing s n l (insertByRing s n l) := by
  induction l with
  | nil => exact ⟨[], [], rfl, rfl, by simp, by simp⟩
  | cons m l ih =>
    unfold insertByRing
    split
    · next h => exact ⟨[], m :: l, rfl, rfl, by simp, by simpa using h⟩
    · next h =>
      obtain ⟨a, b, rfl, hnew, ha, hb⟩ := ih
      refine ⟨m :: a, b, rfl, by rw [hnew]; rfl, fun x hx => ?_, hb⟩
      rcases List.mem_cons.mp hx with rfl | hx
      · simpa using h
      · exact ha x hx

/-- One step of the search for the earliest ring. -/
def pickRing (s : State) (best : Option Nat) (n : Nat) : Option Nat :=
  best.elim (some n) fun b => if ringsBefore s n b then some n else some b

/-- The lines that may join a position's list: the candidates of `nextAlert` (R15). -/
def candidates (s : State) (p : Nat) : List Nat := (ringingLines s).filter fun n => audibleAt s n p && !(s.alertList p).contains n

theorem nextAlert_eq (s : State) (p : Nat) : nextAlert s p none = (candidates s p).foldl (pickRing s) none := by
  have hstep : (fun (best : Option Nat) n => match best with
      | none => some n
      | some b => if ringsBefore s n b then some n else some b) = pickRing s := by
    funext b n
    cases b <;> rfl
  have hcands : (ringingLines s).filter (fun n => decide ((none : Option Nat) ≠ some n) && audibleAt s n p && !(s.alertList p).contains n) =
      candidates s p := by simp [candidates]
  rw [← hstep, ← hcands]
  rfl

theorem pickRing_mem (s : State) (l : List Nat) (b : Option Nat) (x : Nat) (h : l.foldl (pickRing s) b = some x) : x ∈ l ∨ b = some x := by
  induction l generalizing b with
  | nil => exact .inr h
  | cons n l ih =>
    rcases ih _ h with hx | hx
    · exact .inl (by simp [hx])
    · cases b with
      | none =>
        cases hx
        exact .inl (by simp)
      | some c =>
        simp only [pickRing, Option.elim_some] at hx
        split at hx
        · cases hx
          exact .inl (by simp)
        · exact .inr hx

/-- A line that rings before every other candidate is the one found. -/
theorem pickRing_first (s : State) (l : List Nat) (b : Option Nat) (x : Nat) (hx : x ∈ l ∨ b = some x)
    (hl : ∀ y ∈ l, y ≠ x → ringsBefore s x y = true) (hb : ∀ y, b = some y → y ≠ x → ringsBefore s x y = true) :
    l.foldl (pickRing s) b = some x := by
  induction l generalizing b with
  | nil => exact hx.resolve_left (by simp)
  | cons n l ih =>
    rw [List.foldl_cons]
    by_cases hn : n = x
    · refine ih _ (.inr ?_) (fun y hy => hl y (by simp [hy])) fun y hy hne => ?_
      all_goals
        cases b with
        | none => simp_all [pickRing]
        | some c =>
          by_cases hc : c = x
          · simp_all [pickRing]
          · have := hb c rfl hc
            simp_all [pickRing]
    · have hlate : ringsBefore s n x = false := ringsBefore_asymm (hl n (by simp) hn)
      refine ih _ ?_ (fun y hy => hl y (by simp [hy])) fun y hy hne => ?_
      · rcases hx with hx | hx
        · exact .inl ((List.mem_cons.mp hx).resolve_left fun h => hn h.symm)
        · exact .inr (by simp [hx, pickRing, hlate])
      · cases b with
        | none =>
          cases hy
          exact hl n (by simp) hn
        | some c =>
          simp only [pickRing, Option.elim_some] at hy
          split at hy
          · cases hy
            exact hl n (by simp) hn
          · cases hy
            exact hb _ rfl hne

theorem mem_candidates {s : State} {p x : Nat} : x ∈ candidates s p ↔ x ∈ ringingLines s ∧ audibleAt s x p = true ∧ x ∉ s.alertList p := by
  simp [candidates]

theorem nextAlert_mem {s : State} {p x : Nat} (h : nextAlert s p none = some x) : x ∈ candidates s p := by
  rw [nextAlert_eq] at h
  exact (pickRing_mem s _ none x h).resolve_right (by simp)

theorem nextAlert_none {s : State} {p : Nat} (h : ∀ x, x ∉ candidates s p) : nextAlert s p none = none := by
  rw [nextAlert_eq, List.eq_nil_iff_forall_not_mem.mpr h]
  rfl

theorem nextAlert_first {s : State} {p x : Nat} (hx : x ∈ candidates s p) (hl : ∀ y ∈ candidates s p, y ≠ x → ringsBefore s x y = true) :
    nextAlert s p none = some x := by
  rw [nextAlert_eq]
  exact pickRing_first s _ none x (.inl hx) hl (by simp)

/-! ### Leaving a list (R15) -/

/-- The list without a line, before it is backfilled. -/
def offList (s : State) (p n : Nat) : State := s.setAlertList p ((s.alertList p).filter (· ≠ n))

theorem removeAlert_of_notMem {s : State} {p n : Nat} (l : Option Nat) (h : n ∉ s.alertList p) : removeAlert s p n l = s := by
  simp [removeAlert, h]

theorem removeAlert_of_mem {s : State} {p n : Nat} (h : n ∈ s.alertList p) : removeAlert s p n none = backfill (offList s p n) p none := by
  simp [removeAlert, offList, h]

theorem backfill_of_some {s : State} {p x : Nat} (h : nextAlert s p none = some x) : backfill s p none = addAlert s p x := by
  simp [backfill, h]

theorem backfill_of_none {s : State} {p : Nat} (h : nextAlert s p none = none) : backfill s p none = s := by simp [backfill, h]

theorem backfill_alertList_ne (s : State) (p q : Nat) (h : q ≠ p) : (backfill s p none).alertList q = s.alertList q := by
  cases hx : nextAlert s p none with
  | none => rw [backfill_of_none hx]
  | some x =>
    rw [backfill_of_some hx, addAlert_alertList, if_neg]
    exact fun hc => h hc.1

theorem removeAlert_alertList_ne (s : State) (p n q : Nat) (h : q ≠ p) : (removeAlert s p n none).alertList q = s.alertList q := by
  by_cases hn : n ∈ s.alertList p
  · rw [removeAlert_of_mem hn, backfill_alertList_ne _ p q h, offList]
    simp [h]
  · rw [removeAlert_of_notMem none hn]

/-- A line without an AUDIBLE appearance does not come back to a list that it leaves. -/
theorem removeAlert_notMem_of_silent (s : State) (p n : Nat) (h : audibleAt s n p = false) : n ∉ (removeAlert s p n none).alertList p := by
  by_cases hn : n ∈ s.alertList p
  · rw [removeAlert_of_mem hn]
    have hoff : n ∉ (offList s p n).alertList p := by simp [offList]
    have haudible : audibleAt (offList s p n) n p = false := h
    cases hx : nextAlert (offList s p n) p none with
    | none => rwa [backfill_of_none hx]
    | some x =>
      obtain ⟨-, hax, -⟩ := mem_candidates.mp (nextAlert_mem hx)
      rw [backfill_of_some hx]
      intro hmem
      rcases addAlert_mem _ _ _ _ _ hmem with hc | ⟨rfl, -⟩
      · exact hoff hc
      · exact absurd hax (by simp [haudible])
  · rwa [removeAlert_of_notMem none hn]

end RingOrder

/-! ## The appearance index (R13) -/

section Index

/-- The change of an index entry when a key of its position stops holding the line; `a` says whether another of its keys is AUDIBLE. -/
def entryLoses (a : Bool) (e : Option AppEntry) : Option AppEntry :=
  e.bind fun e => if e.count ≤ 1 then none else some { e with count := e.count - 1, audible := a }

/-- The change when one starts to hold it. -/
def entryGains (p : Nat) (a : Bool) (e : Option AppEntry) : Option AppEntry :=
  some (e.elim { pos := p, count := 1, audible := a } fun e => { e with count := e.count + 1, audible := a })

theorem indexLoses_eq (s : State) (n p : Nat) :
    indexLoses s n p = s.setAppEntries n (putEntry p (entryLoses (anyAudibleKey s n p)) (s.appEntries n)) := by
  have hstep : entryLoses (anyAudibleKey s n p) = fun e => match e with
      | some e => if e.count ≤ 1 then none else some { e with count := e.count - 1, audible := anyAudibleKey s n p }
      | none => none := by
    funext e
    cases e <;> rfl
  rw [hstep]
  rfl

theorem indexGains_eq (s : State) (n p : Nat) :
    indexGains s n p = s.setAppEntries n (putEntry p (entryGains p (anyAudibleKey s n p)) (s.appEntries n)) := by
  have hstep : entryGains p (anyAudibleKey s n p) = fun e => match e with
      | some e => some { e with count := e.count + 1, audible := anyAudibleKey s n p }
      | none => some { pos := p, count := 1, audible := anyAudibleKey s n p } := by
    funext e
    cases e <;> rfl
  rw [hstep]
  rfl

/-- An index in position order without an entry of the position takes one at its place (R13). -/
theorem putEntry_new {p : Nat} {before after : List AppEntry} (h : around p before after) (f : Option AppEntry → Option AppEntry) :
    putEntry p f (before ++ after) = before ++ (f none).toList ++ after := by
  obtain ⟨hb, ha⟩ := h
  induction before with
  | nil =>
    cases after with
    | nil => simp [putEntry]
    | cons e after => simp [putEntry, ha e (by simp)]
  | cons e before ih =>
    have he : e.pos < p := hb e (by simp)
    have hput := ih fun x hx => hb x (by simp [hx])
    simp only [List.cons_append, putEntry, if_neg (show ¬p < e.pos by omega), if_neg (show ¬p = e.pos by omega), hput]

/-- The entry of the position is replaced at its place. -/
theorem putEntry_old {p : Nat} {before after : List AppEntry} {e : AppEntry} (h : around p before after) (he : e.pos = p)
    (f : Option AppEntry → Option AppEntry) : putEntry p f (before ++ e :: after) = before ++ (f (some e)).toList ++ after := by
  obtain ⟨hb, -⟩ := h
  induction before with
  | nil => simp [putEntry, he]
  | cons x before ih =>
    have hx : x.pos < p := hb x (by simp)
    have hput := ih fun y hy => hb y (by simp [hy])
    simp only [List.cons_append, putEntry, if_neg (show ¬p < x.pos by omega), if_neg (show ¬p = x.pos by omega), hput]

theorem anyAudibleKey_congr {s t : State} (h : t.lc.keys = s.lc.keys) (n p : Nat) : anyAudibleKey t n p = anyAudibleKey s n p := by
  have hkey : ∀ i, t.key i = s.key i := fun i => by simp only [State.key, h]
  simp only [anyAudibleKey, hkey]

theorem indexDrops_keys (s : State) (o : Option Nat) (p : Nat) : (indexDrops s o p).lc.keys = s.lc.keys := by cases o <;> rfl
theorem indexAdds_keys (s : State) (o : Option Nat) (p : Nat) : (indexAdds s o p).lc.keys = s.lc.keys := by cases o <;> rfl

theorem indexDrops_appEntries (s : State) (o : Option Nat) (p n : Nat) : (indexDrops s o p).appEntries n =
    if o = some n then putEntry p (entryLoses (anyAudibleKey s n p)) (s.appEntries n) else s.appEntries n := by
  cases o with
  | none => simp [indexDrops]
  | some m =>
    by_cases h : m = n
    · subst h
      simp [indexDrops, indexLoses_eq]
    · simp [indexDrops, indexLoses_eq, h, Ne.symm h]

theorem indexAdds_appEntries (s : State) (o : Option Nat) (p n : Nat) : (indexAdds s o p).appEntries n =
    if o = some n then putEntry p (entryGains p (anyAudibleKey s n p)) (s.appEntries n) else s.appEntries n := by
  cases o with
  | none => simp [indexAdds]
  | some m =>
    by_cases h : m = n
    · subst h
      simp [indexAdds, indexGains_eq]
    · simp [indexAdds, indexGains_eq, h, Ne.symm h]

/-- The index of a line after the change of a key: first a loss, then a gain (R13). -/
theorem indexKey_appEntries {s : State} {p k : Nat} {v : KeyVal} (h : s.key (128 * p + k) ≠ v) (n : Nat) :
    (indexKey s p k v).appEntries n =
      (if v.lineOf = some n then putEntry p (entryGains p (anyAudibleKey (indexKey s p k v) n p)) else id)
        ((if (s.key (128 * p + k)).lineOf = some n then putEntry p (entryLoses (anyAudibleKey (indexKey s p k v) n p)) else id)
          (s.appEntries n)) := by
  have hkeys : ∀ t : State, t.lc.keys = (s.setKeyVal (128 * p + k) v).lc.keys →
      anyAudibleKey t n p = anyAudibleKey (indexKey s p k v) n p := fun t ht => by
    refine anyAudibleKey_congr (ht.trans ?_) n p
    rw [indexKey_of_ne h, indexAdds_keys, indexDrops_keys]
  have hset : (s.setKeyVal (128 * p + k) v).appEntries n = s.appEntries n := by simp
  conv => lhs; rw [indexKey_of_ne h]
  rw [indexAdds_appEntries, indexDrops_appEntries, hkeys _ rfl, hkeys _ (indexDrops_keys _ _ _), hset]
  by_cases h1 : v.lineOf = some n <;> by_cases h2 : (s.key (128 * p + k)).lineOf = some n <;> simp only [h1, h2, if_true, if_false, id]

end Index

end Sys2Proof.Machine

namespace Sys2Proof.Machine

/-! ## Key writes (O20) -/

section FollowAudible

variable {b s : State} {p n : Nat}

theorem audibleAt_congr {s t : State} (h : t.lc.appIndex = s.lc.appIndex) (n p : Nat) : audibleAt t n p = audibleAt s n p := by
  simp only [audibleAt, State.appEntries, h]

theorem AlertsOnly.audibleAt {s t : State} (h : AlertsOnly s t) (n p : Nat) : audibleAt t n p = Machine.audibleAt s n p := by
  obtain ⟨_, rfl⟩ := h
  rfl

theorem followAudible_of_same (h : audibleAt s n p = audibleAt b n p) : followAudible b p s n = s := by
  cases hb : audibleAt b n p <;> simp [followAudible, h, hb]

theorem followAudible_of_lost (hb : audibleAt b n p = true) (ha : audibleAt s n p = false) : followAudible b p s n = removeAlert s p n none := by
  simp [followAudible, hb, ha]

theorem followAudible_of_gained (hb : audibleAt b n p = false) (ha : audibleAt s n p = true) :
    followAudible b p s n = if (s.line n).state = .ringingIn then addAlert s p n else s := by
  simp [followAudible, hb, ha]

theorem followAudible_alertList_ne (q : Nat) (h : q ≠ p) : (followAudible b p s n).alertList q = s.alertList q := by
  unfold followAudible
  split
  · exact removeAlert_alertList_ne s p n q h
  · split
    · rw [addAlert_alertList, if_neg fun hc => h hc.1]
    · rfl

theorem addAlert_of_mem (h : n ∈ s.alertList p) : addAlert s p n = s := by simp [addAlert, h]

/-- Following one line twice does no more than once (R16). -/
theorem followAudible_idem : followAudible b p (followAudible b p s n) n = followAudible b p s n := by
  have haudible := (alertsOnly_followAudible b s p n).audibleAt n p
  cases hb : audibleAt b n p <;> cases ha : audibleAt s n p
  case false.false => rw [followAudible_of_same (ha.trans hb.symm), followAudible_of_same (ha.trans hb.symm)]
  case true.true => rw [followAudible_of_same (ha.trans hb.symm), followAudible_of_same (ha.trans hb.symm)]
  case true.false =>
    rw [followAudible_of_lost hb (haudible.trans ha), followAudible_of_lost hb ha]
    exact removeAlert_of_notMem none (removeAlert_notMem_of_silent s p n ha)
  case false.true =>
    have hadd : addAlert (addAlert s p n) p n = addAlert s p n := by
      by_cases h : (s.position p).applied.enabled = true ∧ (s.alertList p).length < 8 ∧ (s.alertList p).contains n = false
      · have hmem : n ∈ (addAlert s p n).alertList p := by
          rw [addAlert_alertList, if_pos ⟨rfl, h.1, h.2.1, by simpa using h.2.2⟩, mem_insertByRing]
          exact .inl rfl
        exact addAlert_of_mem hmem
      · have hsame : addAlert s p n = s := if_neg h
        rw [hsame, hsame]
    rw [followAudible_of_gained hb (haudible.trans ha), followAudible_of_gained hb ha]
    by_cases hr : (s.line n).state = .ringingIn
    · rw [if_pos hr]
      have hline : ((addAlert s p n).line n).state = .ringingIn := by
        obtain ⟨x, hx⟩ := alertsOnly_addAlert s p n
        rw [hx]
        exact hr
      rw [if_pos hline, hadd]
    · rw [if_neg hr, if_neg hr]

/-- Where one line alone may have changed, the lines of a key are followed as that one is. -/
theorem followAudible_foldl (l : List Nat) (h : ∀ m ∈ l, m = n ∨ audibleAt s m p = audibleAt b m p)
    (hn : n ∈ l ∨ audibleAt s n p = audibleAt b n p) : l.foldl (followAudible b p) s = followAudible b p s n := by
  induction l generalizing s with
  | nil => exact (followAudible_of_same (hn.resolve_left (by simp))).symm
  | cons m l ih =>
    rw [List.foldl_cons]
    by_cases hm : m = n
    · subst hm
      have hkept : ∀ y, audibleAt (followAudible b p s m) y p = audibleAt s y p := fun y => (alertsOnly_followAudible b s p m).audibleAt y p
      by_cases hmem : m ∈ l
      · rw [ih (fun y hy => by rw [hkept]; exact h y (by simp [hy])) (.inl hmem), followAudible_idem]
      · have hrest : ∀ y ∈ l, audibleAt s y p = audibleAt b y p := fun y hy =>
          (h y (by simp [hy])).resolve_left fun he => hmem (he ▸ hy)
        have hnone : ∀ (l : List Nat) (u : State), (∀ y ∈ l, audibleAt u y p = audibleAt b y p) → l.foldl (followAudible b p) u = u := by
          intro l
          induction l with
          | nil => exact fun _ _ => rfl
          | cons y l ihl =>
            intro u hu
            rw [List.foldl_cons, followAudible_of_same (hu y (by simp))]
            exact ihl u fun z hz => hu z (by simp [hz])
        exact hnone l _ fun y hy => by rw [hkept]; exact hrest y hy
    · have hsame := (h m (by simp)).resolve_left hm
      rw [followAudible_of_same hsame]
      exact ih (fun y hy => h y (by simp [hy])) (hn.imp (fun hx => (List.mem_cons.mp hx).resolve_left fun he => hm he.symm) id)

theorem followAudibles_alertList_ne (l : List Nat) (s : State) (q : Nat) (h : q ≠ p) :
    (l.foldl (followAudible b p) s).alertList q = s.alertList q :=
  foldl_keeps (fun s => s.alertList q) _ (fun _ _ => followAudible_alertList_ne q h) l s

end FollowAudible

section ApplyKey

variable (s : State) (p k : Nat) (v : KeyVal)

/-- The lines that the key held and holds. -/
def keyLines (old new : KeyVal) : List Nat := old.lineOf.toList ++ new.lineOf.toList

theorem applyKey_eq : applyKey s p k v = (keyLines (s.key (128 * p + k)) v).foldl (followAudible s p) (indexKey s p k v) := rfl

theorem mem_keyLines {old new : KeyVal} {n : Nat} : n ∈ keyLines old new ↔ n ∈ old.lineOf ∨ n ∈ new.lineOf := by
  simp [keyLines, Option.mem_def]

theorem applyKey_alertsOnly : AlertsOnly (indexKey s p k v) (applyKey s p k v) :=
  alertsOnly_foldl _ _ (fun u n => alertsOnly_followAudible s u p n) _

theorem applyKey_appEntries (n : Nat) : (applyKey s p k v).appEntries n = (indexKey s p k v).appEntries n := by
  obtain ⟨_, h⟩ := applyKey_alertsOnly s p k v
  rw [h]
  rfl

theorem applyKey_anyAudibleKey (n : Nat) : anyAudibleKey (applyKey s p k v) n p = anyAudibleKey (indexKey s p k v) n p := by
  obtain ⟨_, h⟩ := applyKey_alertsOnly s p k v
  rw [h]
  rfl

/-- A key that takes the value it has changes nothing. -/
theorem applyKey_of_eq (h : s.key (128 * p + k) = v) : applyKey s p k v = s := by
  rw [applyKey_eq, indexKey_of_eq h]
  generalize keyLines (s.key (128 * p + k)) v = l
  induction l with
  | nil => rfl
  | cons n l ih => rw [List.foldl_cons, followAudible_of_same rfl, ih]

theorem indexKey_appEntries_other {n : Nat} (h1 : (s.key (128 * p + k)).lineOf ≠ some n) (h2 : v.lineOf ≠ some n) :
    (indexKey s p k v).appEntries n = s.appEntries n := by
  by_cases h : s.key (128 * p + k) = v
  · rw [indexKey_of_eq h]
  · rw [indexKey_appEntries h, if_neg h2, if_neg h1]
    rfl

theorem indexKey_alertList (q : Nat) : (indexKey s p k v).alertList q = s.alertList q := by
  by_cases h : s.key (128 * p + k) = v
  · rw [indexKey_of_eq h]
  · rw [indexKey_of_ne h]
    cases v.lineOf <;> cases (s.key (128 * p + k)).lineOf <;> rfl

/-- A key's change is followed at one line, where no other line's AUDIBLE appearance changed. -/
theorem applyKey_follows {n : Nat}
    (h : ∀ m, m ∈ (s.key (128 * p + k)).lineOf ∨ m ∈ v.lineOf → m = n ∨ audibleAt (indexKey s p k v) m p = audibleAt s m p) :
    applyKey s p k v = followAudible s p (indexKey s p k v) n := by
  rw [applyKey_eq]
  refine followAudible_foldl _ (fun m hm => h m (mem_keyLines.mp hm)) ?_
  by_cases hn : n ∈ keyLines (s.key (128 * p + k)) v
  · exact .inl hn
  · refine .inr ?_
    rw [mem_keyLines, not_or] at hn
    simp only [audibleAt, indexKey_appEntries_other s p k v hn.1 hn.2]

variable {s p k v}

/-- A line's first AUDIBLE appearance: it joins the list at its ring-start place when it rings and there is room (R16). -/
theorem follow_gained {a : State} {n : Nat} (hlines : a.lc.lines = s.lc.lines) (hframe : a.frame = s.frame) (hhc : a.hc = s.hc)
    (hlist : a.alertList p = s.alertList p) (hb : audibleAt s n p = false) (ha : audibleAt a n p = true) :
    if (s.line n).state = .ringingIn ∧ (s.position p).applied.enabled = true ∧ (s.alertList p).length < 8 ∧ n ∉ s.alertList p then
      insertedByRing s n (s.alertList p) ((followAudible s p a n).alertList p)
    else (followAudible s p a n).alertList p = s.alertList p := by
  have hline : a.line n = s.line n := by simp only [State.line, hlines]
  have hpos : a.position p = s.position p := State.position_congr hhc p
  rw [followAudible_of_gained hb ha, hline]
  by_cases hr : (s.line n).state = .ringingIn
  · rw [if_pos hr, addAlert_alertList, hpos, hlist, insertByRing_congr hlines hframe]
    by_cases hroom : (s.position p).applied.enabled = true ∧ (s.alertList p).length < 8 ∧ n ∉ s.alertList p
    · rw [if_pos ⟨hr, hroom⟩, if_pos ⟨rfl, hroom⟩]
      exact insertedByRing_insertByRing s n _
    · rw [if_neg fun h => hroom h.2, if_neg fun h => hroom h.2]
  · rw [if_neg hr, if_neg fun h => hr h.1, hlist]

/-- What may join the list when a line leaves it (R15). -/
theorem mem_candidates_offList {a t : State} {n x : Nat} (hlines : a.lc.lines = s.lc.lines) (hlist : a.alertList p = s.alertList p)
    (ht : ∀ y, audibleAt t y p = audibleAt a y p) (ha : audibleAt a n p = false) :
    x ∈ candidates (offList a p n) p ↔ mayAlert s t p x := by
  have hringing : ringingLines (offList a p n) = ringingLines s := by simp [ringingLines, offList, hlines]
  have haudible : ∀ y, audibleAt (offList a p n) y p = audibleAt a y p := fun y => audibleAt_congr (by simp [offList]) y p
  rw [mem_candidates, mayAlert, hringing, haudible, ht]
  have hoff : (offList a p n).alertList p = (s.alertList p).filter (· ≠ n) := by simp [offList, hlist]
  rw [hoff]
  constructor
  · rintro ⟨h1, h2, h3⟩
    refine ⟨h1, h2, fun hx => h3 ?_⟩
    have hne : x ≠ n := fun he => by simp [← he, h2] at ha
    simp [hx, hne]
  · rintro ⟨h1, h2, h3⟩
    exact ⟨h1, h2, fun hx => h3 (List.mem_filter.mp hx).1⟩

/-- The loss of a line's last AUDIBLE appearance: it leaves the list, which the earliest ring joins (R15, R16). -/
theorem follow_lost {a t : State} {n : Nat} (hlines : a.lc.lines = s.lc.lines) (hframe : a.frame = s.frame) (hhc : a.hc = s.hc)
    (hlist : a.alertList p = s.alertList p) (ht : ∀ y, audibleAt t y p = audibleAt a y p) (hb : audibleAt s n p = true)
    (ha : audibleAt a n p = false) :
    (n ∉ s.alertList p → (followAudible s p a n).alertList p = s.alertList p) ∧
    (n ∈ s.alertList p → (∀ x, ¬mayAlert s t p x) → (followAudible s p a n).alertList p = (s.alertList p).filter (· ≠ n)) ∧
    (∀ x, n ∈ s.alertList p → mayAlert s t p x → (∀ y, mayAlert s t p y → y ≠ x → ringsBefore s x y = true) →
      (s.position p).applied.enabled = true → (s.alertList p).length ≤ 8 →
      insertedByRing s x ((s.alertList p).filter (· ≠ n)) ((followAudible s p a n).alertList p)) := by
  have hcands : ∀ x, x ∈ candidates (offList a p n) p ↔ mayAlert s t p x := fun x => mem_candidates_offList hlines hlist ht ha
  have hoff : (offList a p n).alertList p = (s.alertList p).filter (· ≠ n) := by simp [offList, hlist]
  rw [followAudible_of_lost hb ha]
  refine ⟨fun hn => ?_, fun hn hnone => ?_, fun x hn hx hfirst hen hroom => ?_⟩
  · rw [removeAlert_of_notMem none (by rw [hlist]; exact hn), hlist]
  · rw [removeAlert_of_mem (by rw [hlist]; exact hn), backfill_of_none (nextAlert_none fun x hx => hnone x ((hcands x).mp hx)), hoff]
  · have hnext : nextAlert (offList a p n) p none = some x := by
      refine nextAlert_first ((hcands x).mpr hx) fun y hy hne => ?_
      rw [ringsBefore_congr (s := s) (by simp [offList, hlines]) (by simp [offList, hframe])]
      exact hfirst y ((hcands y).mp hy) hne
    have hpos : (offList a p n).position p = s.position p := State.position_congr (by simp [offList, hhc]) p
    have hshort : ((s.alertList p).filter (· ≠ n)).length < 8 := by
      have hlt := (List.length_filter_lt_length_iff_exists (p := (· ≠ n))).mpr ⟨n, hn, by simp⟩
      omega
    rw [removeAlert_of_mem (by rw [hlist]; exact hn), backfill_of_some hnext, addAlert_alertList, hpos, hoff,
      if_pos ⟨rfl, hen, hshort, fun h => hx.2.2 (List.mem_filter.mp h).1⟩,
      insertByRing_congr (s := s) (by simp [offList, hlines]) (by simp [offList, hframe])]
    exact insertedByRing_insertByRing s x _

end ApplyKey

end Sys2Proof.Machine

namespace Sys2Proof.Machine

section KeyWrites

/-- The state as a key write leaves it, before the end of the command (R12, R131). -/
def keyWritten (s : State) (p k : Nat) (v : KeyVal) (rejected : Bool) : State :=
  if rejected then rejectEntry (applyKey s p k v) (.key p k) else applyKey s p k v

theorem writeKey_eq {s : State} {p k : Nat} {v : KeyVal} {rejected : Bool}
    (h : parseKey s.su.positionCount s.su.lineCount p (copyAt s (appearanceOffset (128 * p + k))) = (v, rejected)) :
    writeKey s p k = keyWritten s p k v rejected := by
  simp only [writeKey, h, keyWritten]

theorem rejectEntry_of_carrying {s : State} (w : Rejected) (h : s.su.part ≠ .loading) : rejectEntry s w = issue s (.configReject w) := by
  have hsu := issue_su s (.configReject w)
  simp only [rejectEntry, hsu, if_neg h]

theorem work_rejectEntry (s : State) (w : Rejected) (h : s.su.part ≠ .loading) : Work s (rejectEntry s w) [.events] := by
  rw [rejectEntry_of_carrying w h]
  exact work_issue s _

theorem notLoading_of_copying {s : State} (h : s.su.part.copying = true) : s.su.part ≠ .loading := by
  intro hp
  simp [hp, PartState.copying, PartState.carries] at h

theorem work_applyKey (s : State) (p k : Nat) (v : KeyVal) : Work s (applyKey s p k v) [.lc] := by
  have honly := keysOnly_applyKey s p k v
  obtain ⟨-, hbi, heu, -⟩ := honly.rest
  exact .of_records (callWork_applyKey p k v (.refl s)) heu hbi fun b _ hb => honly.leaves.2 b hb

theorem work_keyWritten (s : State) (p k : Nat) (v : KeyVal) (rejected : Bool) (h : s.su.part ≠ .loading) :
    Work s (keyWritten s p k v rejected) [.lc, .events] := by
  have happly := (work_applyKey s p k v).mono (ys := [.lc, .events]) (by decide)
  unfold keyWritten
  refine .ite (happly.step (work_rejectEntry _ _ ?_)) happly
  rw [(keysOnly_applyKey s p k v).rest.2.2.2.1]
  exact h

theorem keyWritten_lc (s : State) (p k : Nat) (v : KeyVal) (rejected : Bool) : (keyWritten s p k v rejected).lc = (applyKey s p k v).lc := by
  unfold keyWritten
  split
  · exact rejectEntry_lc _ _
  · rfl

variable {s t : State} {p k : Nat} {v : KeyVal}

/-- The index of a line that the key newly holds (R13). -/
theorem applyKey_gained (ht : t.lc = (applyKey s p k v).lc) {n : Nat} {before after : List AppEntry}
    (hold : (s.key (128 * p + k)).lineOf ≠ some n) (hnew : v.lineOf = some n) (haround : around p before after) :
    (s.appEntries n = before ++ after →
      t.appEntries n = before ++ { pos := p, count := 1, audible := anyAudibleKey t n p } :: after) ∧
    ∀ e, e.pos = p → s.appEntries n = before ++ e :: after →
      t.appEntries n = before ++ { e with count := e.count + 1, audible := anyAudibleKey t n p } :: after := by
  have hne : s.key (128 * p + k) ≠ v := fun h => hold (h ▸ hnew)
  have hkeys : anyAudibleKey t n p = anyAudibleKey (indexKey s p k v) n p :=
    (anyAudibleKey_congr (by rw [ht]) n p).trans (applyKey_anyAudibleKey s p k v n)
  rw [State.appEntries_congr ht, applyKey_appEntries, indexKey_appEntries hne, if_pos hnew, if_neg hold, hkeys]
  refine ⟨fun h => ?_, fun e he h => ?_⟩
  · rw [id, h, putEntry_new haround]
    simp [entryGains]
  · rw [id, h, putEntry_old haround he]
    simp [entryGains]

/-- The index of a line that the key held (R13). -/
theorem applyKey_held (ht : t.lc = (applyKey s p k v).lc) {n : Nat} {before after : List AppEntry} {e : AppEntry}
    (hold : (s.key (128 * p + k)).lineOf = some n) (haround : around p before after) (he : e.pos = p)
    (hentries : s.appEntries n = before ++ e :: after) :
    (v.lineOf ≠ some n → t.appEntries n = before ++
      (if e.count ≤ 1 then [] else [{ e with count := e.count - 1, audible := anyAudibleKey t n p }]) ++ after) ∧
    (v.lineOf = some n → v ≠ s.key (128 * p + k) → 1 ≤ e.count →
      t.appEntries n = before ++ { e with audible := anyAudibleKey t n p } :: after) := by
  have hkeys : anyAudibleKey t n p = anyAudibleKey (indexKey s p k v) n p :=
    (anyAudibleKey_congr (by rw [ht]) n p).trans (applyKey_anyAudibleKey s p k v n)
  rw [State.appEntries_congr ht, applyKey_appEntries, hkeys]
  refine ⟨fun hnew => ?_, fun hnew hne hcount => ?_⟩
  · rw [indexKey_appEntries (fun h => hnew (by rw [← h]; exact hold)), if_neg hnew, if_pos hold, id, hentries, putEntry_old haround he]
    by_cases hc : e.count ≤ 1 <;> simp [entryLoses, hc]
  · rw [indexKey_appEntries (Ne.symm hne), if_pos hnew, if_pos hold, hentries, putEntry_old haround he]
    by_cases hc : e.count ≤ 1
    · have hone : e.count = 1 := by omega
      simp only [entryLoses, Option.bind_some, if_pos hc, Option.toList_none, List.append_nil]
      rw [putEntry_new haround]
      simp [entryGains, ← he, ← hone]
    · have hsub : e.count - 1 + 1 = e.count := by omega
      simp only [entryLoses, Option.bind_some, if_neg hc, Option.toList_some]
      rw [List.append_assoc, List.singleton_append, putEntry_old haround (by exact he)]
      simp [entryGains, hsub]

/-- The position's alert list where no AUDIBLE appearance of a line of the key changed, and where one line's did (R15, R16). -/
theorem applyKey_alertList (ht : t.lc = (applyKey s p k v).lc) :
    ((∀ n, n ∈ (s.key (128 * p + k)).lineOf ∨ n ∈ v.lineOf → audibleAt t n p = audibleAt s n p) → t.alertList p = s.alertList p) ∧
    (∀ n, (∀ m, m ∈ (s.key (128 * p + k)).lineOf ∨ m ∈ v.lineOf → m = n ∨ audibleAt t m p = audibleAt s m p) →
      (audibleAt s n p = false → audibleAt t n p = true →
        if (s.line n).state = .ringingIn ∧ (s.position p).applied.enabled = true ∧ (s.alertList p).length < 8 ∧ n ∉ s.alertList p then
          insertedByRing s n (s.alertList p) (t.alertList p)
        else t.alertList p = s.alertList p) ∧
      (audibleAt s n p = true → audibleAt t n p = false →
        (n ∉ s.alertList p → t.alertList p = s.alertList p) ∧
        (n ∈ s.alertList p → (∀ x, ¬mayAlert s t p x) → t.alertList p = (s.alertList p).filter (· ≠ n)) ∧
        (∀ x, n ∈ s.alertList p → mayAlert s t p x → (∀ y, mayAlert s t p y → y ≠ x → ringsBefore s x y = true) →
          (s.position p).applied.enabled = true → (s.alertList p).length ≤ 8 →
          insertedByRing s x ((s.alertList p).filter (· ≠ n)) (t.alertList p)))) := by
  have haudible : ∀ m, audibleAt t m p = audibleAt (indexKey s p k v) m p := fun m =>
    (audibleAt_congr (by rw [ht]) m p).trans ((applyKey_alertsOnly s p k v).audibleAt m p)
  have hlist : (indexKey s p k v).alertList p = s.alertList p := indexKey_alertList s p k v p
  have hfollow : ∀ n, (∀ m, m ∈ (s.key (128 * p + k)).lineOf ∨ m ∈ v.lineOf → m = n ∨ audibleAt t m p = audibleAt s m p) →
      t.alertList p = (followAudible s p (indexKey s p k v) n).alertList p := fun n hn => by
    rw [State.alertList_congr ht, applyKey_follows s p k v fun m hm => (hn m hm).imp id fun h => (haudible m).symm.trans h]
  obtain ⟨hlines, -, -, -, -, hframe⟩ := (keysOnly_indexKey s p k v).rest
  have hhc : (indexKey s p k v).hc = s.hc := by
    obtain ⟨_, _, _, h⟩ := keysOnly_indexKey s p k v
    rw [h]
  refine ⟨fun hsame => ?_, fun n hn => ⟨fun hb ha => ?_, fun hb ha => ?_⟩⟩
  · have hnone : ∀ n, n ∈ (s.key (128 * p + k)).lineOf ∨ n ∈ v.lineOf →
        audibleAt (indexKey s p k v) n p = audibleAt s n p := fun n hn => (haudible n).symm.trans (hsame n hn)
    rw [State.alertList_congr ht, applyKey_eq, ← hlist]
    have hkeep : ∀ l : List Nat, (∀ n ∈ l, audibleAt (indexKey s p k v) n p = audibleAt s n p) →
        l.foldl (followAudible s p) (indexKey s p k v) = indexKey s p k v := by
      intro l
      induction l with
      | nil => exact fun _ => rfl
      | cons n l ih =>
        intro hl
        rw [List.foldl_cons, followAudible_of_same (hl n (by simp))]
        exact ih fun m hm => hl m (by simp [hm])
    rw [hkeep _ fun n hn => hnone n (mem_keyLines.mp hn)]
  · rw [hfollow n hn]
    exact follow_gained hlines hframe hhc hlist hb (by rw [← haudible]; exact ha)
  · rw [hfollow n hn]
    exact follow_lost hlines hframe hhc hlist haudible hb (by rw [← haudible]; exact ha)

end KeyWrites

/-- Settles O20: the write is merged, the key applied with its index (R13), and one line's AUDIBLE appearance followed (R16). -/
theorem keyWriteApplies : Obligations.KeyWriteApplies := by
  unfold Obligations.KeyWriteApplies
  intro p k data be s v rejected hc htaken he hu hparse
  have hw : parseKey s.su.positionCount s.su.lineCount p (copyAt (merged s (appearanceOffset (128 * p + k)) data be)
      (appearanceOffset (128 * p + k))) = (v, rejected) := by rw [merged_copyAt, if_pos rfl, hparse]
  have hexec := exec_appearanceWrite (data := data) p k hc htaken
  rw [writeKey_eq hw] at hexec
  have hwork := work_keyWritten (merged s (appearanceOffset (128 * p + k)) data be) p k v rejected (notLoading_of_copying hc)
  rw [done_merged hwork htaken.none] at hexec
  obtain ⟨hwrote, hcopied, hleaves⟩ := wrote_settle hwork he s
  have ht := (settle_lc s (keyWritten (merged s (appearanceOffset (128 * p + k)) data be) p k v rejected)).trans (keyWritten_lc ..)
  have hkey : ∀ j, (settle s (keyWritten (merged s (appearanceOffset (128 * p + k)) data be) p k v rejected)).key j =
      if j = 128 * p.val + k.val then v else s.key j := fun j => (State.key_congr ht j).trans (applyKey_key ..)
  obtain ⟨hsame, hone⟩ := applyKey_alertList ht
  obtain ⟨-, -, heu, hsu, -, hframe⟩ := (keysOnly_applyKey (merged s (appearanceOffset (128 * p + k)) data be) p k v).rest
  refine ⟨_, hexec, by rw [hkey, if_pos rfl], fun j hj => by rw [hkey, if_neg hj], fun hr => ?_, fun hv => ?_, fun n h1 h2 => ?_,
    fun n before after_ h1 h2 h3 => applyKey_gained ht h1 h2 h3, fun n before after_ e h1 h2 h3 h4 => applyKey_held ht h1 h2 h3 h4,
    fun q hq => ?_, hsame, hone, ?_, hwrote, hcopied, hleaves.mono (by decide)⟩
  · have hevent := issue_eventAt (applyKey (merged s (appearanceOffset (128 * p + k)) data be) p k v) (.configReject (.key p k))
      (by rw [heu]; exact hu)
    rw [heu, hframe] at hevent
    have hreject : keyWritten (merged s (appearanceOffset (128 * p + k)) data be) p k v rejected =
        issue (applyKey (merged s (appearanceOffset (128 * p + k)) data be) p k v) (.configReject (.key p k)) := by
      rw [keyWritten, if_pos hr, rejectEntry_of_carrying _ (by rw [hsu]; exact notLoading_of_copying hc)]
    rw [hreject]
    exact hevent.settle he s
  · have hkept := applyKey_of_eq (merged s (appearanceOffset (128 * p + k)) data be) p k v hv.symm
    rw [ht, hkept]
    rfl
  · have hother := indexKey_appEntries_other (merged s (appearanceOffset (128 * p + k)) data be) p k v h1 h2
    rw [State.appEntries_congr ht, applyKey_appEntries, hother]
    rfl
  · rw [State.alertList_congr ht, applyKey_eq, followAudibles_alertList_ne _ _ q hq, indexKey_alertList]
    rfl
  · rw [ht, (keysOnly_applyKey _ _ _ _).rest.1]
    rfl

end Sys2Proof.Machine

namespace Sys2Proof.Machine

/-! ## The derived state of a load (R175, O14) -/

section Words

variable {s t : State}

theorem lineStatusWords_congr (hlc : t.lc = s.lc) (hpaths : t.cc.paths = s.cc.paths) : lineStatusWords t = lineStatusWords s := by
  have hline : t.line = s.line := funext (State.line_congr hlc)
  have hpath : t.path = s.path := funext fun n => by simp only [State.path, hpaths]
  funext n
  unfold lineStatusWords
  rw [hline, hpath]

theorem positionStatusWords_congr (hlc : t.lc = s.lc) (hhc : t.hc = s.hc) (hmx : t.mx = s.mx) : positionStatusWords t = positionStatusWords s := by
  have hpos : t.position = s.position := funext (State.position_congr hhc)
  have hhandset : t.handset = s.handset := funext (State.handset_congr hhc)
  have hspeaker : t.speaker = s.speaker := funext (State.speaker_congr hmx)
  have halerts : t.alertList = s.alertList := funext (State.alertList_congr hlc)
  funext p
  unfold positionStatusWords
  rw [hpos, hhandset, hspeaker, halerts]

theorem recorderStatusWords_congr (hra : t.ra = s.ra) : recorderStatusWords t = recorderStatusWords s := by
  have hchannel : t.channel = s.channel := funext (State.channel_congr hra)
  funext r
  unfold recorderStatusWords
  rw [hchannel]

/-- The mirrors still show the state when neither it nor what is written has changed. -/
theorem MirrorsShow.congr (h : MirrorsShow s) (hw : ∀ off, latestWord t off = latestWord s off) (hl : lineStatusWords t = lineStatusWords s)
    (hp : positionStatusWords t = positionStatusWords s) (hr : recorderStatusWords t = recorderStatusWords s) : MirrorsShow t where
  line n hn i hi := by rw [hw, hl]; exact h.line n hn i hi
  position p hpp i hi := by
    have hentry : positionStatusEntry t p = positionStatusEntry s p := by simp only [positionStatusEntry, hp]
    rw [hw, hentry]
    exact h.position p hpp i hi
  channel r hrr i hi := by rw [hw, hr]; exact h.channel r hrr i hi

end Words

section Lines

/-! ### Lines and masks (R5, R6, R29) -/

/-- A line's record as a load sets it (R5). -/
def derivedLine (s : State) (n : Nat) : LineRec :=
  { LineRec.cold with
    applied := (s.line n).applied, configRejected := (s.line n).configRejected
    state := if n < s.su.lineCount ∧ (s.line n).applied.enabled = true then .idle else .outOfService .admin
    lastChange := s.su.startFrame }

/-- Only line records, and the masks of their paths, are changed. -/
def LinesOnly (s t : State) : Prop := ∃ x y, t = { s with lc := { s.lc with lines := x }, cc := { s.cc with paths := y } }

theorem LinesOnly.trans {a b c : State} (h : LinesOnly a b) (k : LinesOnly b c) : LinesOnly a c := by
  obtain ⟨_, _, rfl⟩ := h
  obtain ⟨_, _, rfl⟩ := k
  exact ⟨_, _, rfl⟩

theorem deriveLine_only (s : State) (n : Nat) : LinesOnly s (deriveLine s n) := ⟨_, _, rfl⟩

theorem deriveLine_line (s : State) (n m : Nat) : (deriveLine s n).line m = if m = n then derivedLine s n else s.line m := by
  simp [deriveLine, derivedLine]

theorem deriveLine_path (s : State) (n m : Nat) :
    (deriveLine s n).path m = if m = n then (refreshMasks s n [] (s.line n).applied.call.path).path n else s.path m := by
  by_cases hm : m = n
  · subst hm
    simp [deriveLine, refreshMasks, circuitAvailable]
  · rw [if_neg hm]
    exact (refreshMasks_path_ne _ _ _ _ m hm).trans (by simp)

theorem derivedLine_congr {s t : State} {n : Nat} (hl : t.line n = s.line n) (hsu : t.su = s.su) : derivedLine t n = derivedLine s n := by
  simp only [derivedLine, hl, hsu]

/-- The lines that have been derived are; the others stand as they did. -/
theorem deriveLines_spec (s : State) (k : Nat) : LinesOnly s ((List.range k).foldl deriveLine s) ∧ ∀ n,
    ((List.range k).foldl deriveLine s).line n = (if n < k then derivedLine s n else s.line n) ∧
    ((List.range k).foldl deriveLine s).path n =
      (if n < k then (refreshMasks s n [] (s.line n).applied.call.path).path n else s.path n) := by
  induction k with
  | zero => exact ⟨⟨_, _, rfl⟩, fun n => by simp⟩
  | succ k ih =>
    obtain ⟨honly, hall⟩ := ih
    rw [List.range_succ, List.foldl_append, List.foldl_cons, List.foldl_nil]
    generalize (List.range k).foldl deriveLine s = u at honly hall
    obtain ⟨hlk, hpk⟩ := hall k
    rw [if_neg (Nat.lt_irrefl k)] at hlk hpk
    obtain ⟨x, y, hu⟩ := honly
    have hsu : u.su = s.su := by rw [hu]
    have hcircuit : ∀ c, circuitAvailable u c = circuitAvailable s c := fun c => by rw [hu]; rfl
    refine ⟨LinesOnly.trans ⟨x, y, hu⟩ (deriveLine_only u k), fun n => ?_⟩
    obtain ⟨hln, hpn⟩ := hall n
    rw [deriveLine_line, deriveLine_path, hln, hpn, derivedLine_congr hlk hsu, hlk]
    have hmasks : (refreshMasks u k [] (s.line k).applied.call.path).path k = (refreshMasks s k [] (s.line k).applied.call.path).path k := by
      simp only [refreshMasks, modPath_eq, State.setPath_path, if_true, hpk, hcircuit]
    rw [hmasks]
    by_cases hn : n = k
    · subst hn
      simp
    · have hlt : n < k + 1 ↔ n < k := by omega
      simp [hn, hlt]

/-- The masks of a path group taken up anew: a bit for each circuit, available unless it is DOWN or RESETTING (R29). -/
theorem refreshMasks_fresh (s : State) (n : Nat) (path : List Nat) (i : Nat) (hi : i < 4) :
    ((refreshMasks s n [] path).path n).installed.getLsbD i = decide (i < path.length) ∧
    ((refreshMasks s n [] path).path n).operational.getLsbD i = decide (i < path.length) ∧
    (∀ c, path[i]? = some c →
      ((refreshMasks s n [] path).path n).available.getLsbD i = decide ((s.circuit c).state ≠ .down ∧ (s.circuit c).state ≠ .resetting)) := by
  have havailable : ∀ c, circuitAvailable s c = decide ((s.circuit c).state ≠ .down ∧ (s.circuit c).state ≠ .resetting) := fun c => by
    cases h : (s.circuit c).state <;> simp [circuitAvailable, h]
  simp only [refreshMasks, modPath_eq, State.setPath_path, if_true, maskOf_getLsbD, hi, decide_true, Bool.true_and]
  refine ⟨trivial, ?_, fun c hc => by simp only [hc, havailable]⟩
  cases hc : path[i]? with
  | none =>
    rw [List.getElem?_eq_none_iff] at hc
    simp only [decide_eq_false (Nat.not_lt.mpr hc)]
  | some c =>
    obtain ⟨hlt, -⟩ := List.getElem?_eq_some_iff.mp hc
    simp [hlt]

end Lines

end Sys2Proof.Machine

namespace Sys2Proof.Machine

/-! ## Speakers, recorder channels and ports of a load (R82, R112, R175) -/

section Speakers

/-- A position's speaker side is to be derived: it is configured and enabled. -/
def speaks (s : State) (p : Nat) : Bool := decide (p < s.su.positionCount ∧ (s.position p).applied.enabled = true)

/-- A position's speaker side as a load sets it (R82). -/
def derivedSpeaker (s : State) (p : Nat) : SpeakerRec :=
  if speaks s p then { channels := Table.mapVals ChanRun.cold (fun _ c => runtimeOf c) (s.position p).applied.channels, ptt := none }
  else s.speaker p

theorem derivedSpeaker_speaks {s : State} {p : Nat} (h : p < s.su.positionCount ∧ (s.position p).applied.enabled = true) :
    (derivedSpeaker s p).ptt = none ∧ ∀ i, Table.get ChanRun.cold (derivedSpeaker s p).channels i =
      runtimeOf (Table.get ChanConfig.cold (s.position p).applied.channels i) := by
  have hs : speaks s p = true := decide_eq_true h
  simp only [derivedSpeaker, hs, if_true, true_and]
  exact fun i => Table.get_mapVals ChanConfig.cold ChanRun.cold (fun _ c => runtimeOf c) _ (fun _ a b => b = runtimeOf a)
    (fun _ => rfl) (fun _ _ => rfl) i

theorem derivedSpeaker_silent {s : State} {p : Nat} (h : ¬(p < s.su.positionCount ∧ (s.position p).applied.enabled = true)) :
    derivedSpeaker s p = s.speaker p := by
  have hs : speaks s p = false := decide_eq_false h
  simp [derivedSpeaker, hs]

/-- Only the speaker sides are changed. -/
def SpeakersOnly (s t : State) : Prop := ∃ x, t = { s with mx := { s.mx with speakers := x } }

theorem deriveSpeaker_spec (s : State) (p : Nat) : SpeakersOnly s (deriveSpeaker s p) ∧
    ∀ q, (deriveSpeaker s p).speaker q = if q = p then derivedSpeaker s p else s.speaker q := by
  by_cases h : p < s.su.positionCount ∧ (s.position p).applied.enabled = true
  · have hs : speaks s p = true := decide_eq_true h
    simp only [deriveSpeaker, if_pos h]
    exact ⟨⟨_, rfl⟩, fun q => by simp [derivedSpeaker, hs]⟩
  · simp only [deriveSpeaker, if_neg h]
    refine ⟨⟨_, rfl⟩, fun q => ?_⟩
    split
    · next hq => rw [hq, derivedSpeaker_silent h]
    · rfl

theorem deriveSpeakers_spec (s : State) (k : Nat) : SpeakersOnly s ((List.range k).foldl deriveSpeaker s) ∧
    ∀ p, ((List.range k).foldl deriveSpeaker s).speaker p = if p < k then derivedSpeaker s p else s.speaker p := by
  induction k with
  | zero => exact ⟨⟨_, rfl⟩, fun p => by simp⟩
  | succ k ih =>
    obtain ⟨⟨x, hu⟩, hall⟩ := ih
    rw [List.range_succ, List.foldl_append, List.foldl_cons, List.foldl_nil]
    generalize (List.range k).foldl deriveSpeaker s = u at hu hall
    have hk := hall k
    rw [if_neg (Nat.lt_irrefl k)] at hk
    obtain ⟨⟨y, hy⟩, hstep⟩ := deriveSpeaker_spec u k
    have hderived : derivedSpeaker u k = derivedSpeaker s k := by
      have hspeaks : speaks u k = speaks s k := by rw [hu]; rfl
      have hposition : u.position k = s.position k := by rw [hu]; rfl
      simp only [derivedSpeaker, hspeaks, hposition, hk]
    refine ⟨⟨y, by rw [hy, hu]⟩, fun p => ?_⟩
    rw [hstep, hderived, hall]
    by_cases hp : p = k
    · simp [hp]
    · have hlt : p < k + 1 ↔ p < k := by omega
      simp [hp, hlt]

end Speakers

section Recorders

/-- The recorder channel is to be enabled (R112). -/
def records (s : State) (ch : Nat) : Bool := decide (ch < s.su.recorderCount) && bitAt (copyAt s (recorderConfigOffset ch)) 0

/-- An enabled recorder channel before step 2 of R112. -/
def freeChannel (f : Frame) : ChannelRec := { ChannelRec.cold with state := .free, relFrame := f }

theorem RaOnly.trans {a b c : State} (h : RaOnly a b) (k : RaOnly b c) : RaOnly a c := by
  obtain ⟨_, rfl⟩ := h
  obtain ⟨_, rfl⟩ := k
  exact ⟨_, rfl⟩

theorem deriveChannel_of_records {s : State} {ch : Nat} (h : records s ch = true) :
    deriveChannel s ch = (s.setChannel ch (freeChannel s.su.startFrame)).setFreeList (s.ra.freeList ++ [ch]) := by
  simp only [records, Bool.and_eq_true, decide_eq_true_eq] at h
  simp only [deriveChannel, if_pos h]
  rfl

theorem deriveChannel_of_not {s : State} {ch : Nat} (h : records s ch = false) : deriveChannel s ch = s := by
  have hn : ¬(ch < s.su.recorderCount ∧ bitAt (copyAt s (recorderConfigOffset ch)) 0 = true) := by
    rintro ⟨h1, h2⟩
    simp [records, h1, h2] at h
  simp only [deriveChannel, if_neg hn]

/-- Step 1 of R112: the enabled channels are FREE, on the free list in ascending order. -/
theorem deriveChannels_spec (s : State) (hc : ∀ ch, s.channel ch = ChannelRec.cold) (hf : s.ra.freeList = []) (k : Nat) :
    RaOnly s ((List.range k).foldl deriveChannel s) ∧
    (∀ ch, ((List.range k).foldl deriveChannel s).channel ch =
      if ch ∈ (List.range k).filter (records s) then freeChannel s.su.startFrame else ChannelRec.cold) ∧
    ((List.range k).foldl deriveChannel s).ra.freeList = (List.range k).filter (records s) ∧
    (∀ q, ((List.range k).foldl deriveChannel s).port q = s.port q) ∧ ((List.range k).foldl deriveChannel s).ra.waitQueue = s.ra.waitQueue := by
  induction k with
  | zero => exact ⟨⟨_, rfl⟩, fun ch => by simp [hc], by simp [hf], fun _ => rfl, rfl⟩
  | succ k ih =>
    obtain ⟨⟨x, hu⟩, hchannel, hfree, hport, hwait⟩ := ih
    rw [List.range_succ, List.foldl_append, List.foldl_cons, List.foldl_nil, List.filter_append]
    generalize (List.range k).foldl deriveChannel s = u at hu hchannel hfree hport hwait
    have hrecords : records u k = records s k := by rw [hu]; rfl
    have hsu : u.su = s.su := by rw [hu]
    cases hr : records s k with
    | false =>
      rw [deriveChannel_of_not (hrecords.trans hr)]
      have hnone : [k].filter (records s) = [] := by simp [hr]
      rw [hnone, List.append_nil]
      exact ⟨⟨x, hu⟩, hchannel, hfree, hport, hwait⟩
    | true =>
      rw [deriveChannel_of_records (hrecords.trans hr), hsu]
      have hone : [k].filter (records s) = [k] := by simp [hr]
      rw [hone]
      refine ⟨⟨_, by rw [hu]; rfl⟩, fun ch => ?_, by simp [hfree], fun q => by simp [hport], by simp [hwait]⟩
      by_cases hch : ch = k
      · simp [hch]
      · simp [hch, hchannel]

/-! ### Step 2 of R112 -/

/-- The WANTED ports `W` have been served from the enabled channels `E`, in order: the first took theirs, the others wait. -/
structure Served (x : State) (f : Frame) (E W : List Nat) : Prop where
  port      : ∀ k q : Nat, W[k]? = some q → x.port q = { level := .wanted, channel := E[k]?, unrecorded := false }
  noPort    : ∀ q, q ∉ W → x.port q = PortRec.cold
  given     : ∀ k ch q : Nat, E[k]? = some ch → W[k]? = some q →
    x.channel ch = { freeChannel f with state := .assigned q, allocFrame := f }
  free      : ∀ k ch : Nat, E[k]? = some ch → W[k]? = none → x.channel ch = freeChannel f
  noChannel : ∀ ch, ch ∉ E → x.channel ch = ChannelRec.cold
  freeList  : x.ra.freeList = E.drop W.length
  waitQueue : x.ra.waitQueue = W.drop E.length

theorem drop_cons_getElem? {l : List Nat} {k a : Nat} {rest : List Nat} (h : l.drop k = a :: rest) : l[k]? = some a ∧ l.drop (k + 1) = rest := by
  constructor
  · have := congrArg (·[0]?) h
    simpa using this
  · rw [← List.drop_drop, h]
    rfl

variable {x : State} {E W : List Nat}

/-- Two places of a list without repetition hold different members. -/
theorem getElem?_ne {l : List Nat} (h : l.Nodup) {i j a b : Nat} (hi : l[i]? = some a) (hj : l[j]? = some b) (hne : i ≠ j) : a ≠ b := by
  rintro rfl
  obtain ⟨hi', hi⟩ := List.getElem?_eq_some_iff.mp hi
  obtain ⟨hj', hj⟩ := List.getElem?_eq_some_iff.mp hj
  exact hne ((h.getElem_inj_iff).mp (hi.trans hj.symm))

/-- Place k of a list with one member more: one of the old, or the new one. -/
theorem getElem?_snoc {l : List Nat} {k a q : Nat} (h : (l ++ [q])[k]? = some a) : l[k]? = some a ∨ (k = l.length ∧ a = q) := by
  by_cases hk : k < l.length
  · rw [List.getElem?_append_left hk] at h
    exact .inl h
  · rw [List.getElem?_append_right (by omega)] at h
    by_cases he : k - l.length = 0
    · rw [he] at h
      exact .inr ⟨by omega, by simpa using h.symm⟩
    · rw [List.getElem?_eq_none (by simp; omega)] at h
      simp at h

/-- A WANTED port takes the head of the free list, or waits. -/
theorem Served.step (h : Served x x.su.startFrame E W) (hE : E.Nodup) {q : Nat} (hq : q ∉ W) (hw : portLevel x q = .wanted) :
    Served (derivePort x q) x.su.startFrame E (W ++ [q]) := by
  have hother : ∀ k a : Nat, W[k]? = some a → a ≠ q := fun k a hk he => hq (he ▸ List.mem_of_getElem? hk)
  cases hfree : x.ra.freeList with
  | nil =>
    have hlen : E.length ≤ W.length := List.drop_eq_nil_iff.mp (h.freeList.symm.trans hfree)
    have hstep : derivePort x q =
        (x.setPort q { level := .wanted, channel := none, unrecorded := false }).setWaitQueue (x.ra.waitQueue ++ [q]) := by
      simp only [derivePort, if_pos hw, hfree]
    rw [hstep]
    refine ⟨fun k a hk => ?_, fun a ha => ?_, fun k ch a hk ha => ?_, fun k ch hk ha => ?_, fun ch hch => ?_, ?_, ?_⟩
    · rcases getElem?_snoc hk with hk | ⟨rfl, rfl⟩
      · simp [hother k a hk, h.port k a hk]
      · simp [List.getElem?_eq_none hlen]
    · rw [List.mem_append, List.mem_singleton, not_or] at ha
      simp [ha.2, h.noPort a ha.1]
    · rcases getElem?_snoc ha with ha | ⟨rfl, rfl⟩
      · simpa using h.given k ch a hk ha
      · rw [List.getElem?_eq_none hlen] at hk
        exact absurd hk (by simp)
    · have hin := (List.getElem?_eq_some_iff.mp hk).1
      rw [List.getElem?_eq_none_iff, List.length_append, List.length_singleton] at ha
      omega
    · simpa using h.noChannel ch hch
    · simp only [State.setWaitQueue_ra_freeList, State.setPort_ra_freeList, hfree, List.length_append, List.length_singleton]
      exact (List.drop_eq_nil_of_le (by omega)).symm
    · simp only [State.setWaitQueue_ra_waitQueue, h.waitQueue]
      exact (List.drop_append_of_le_length hlen).symm
  | cons ch rest =>
    obtain ⟨hch, hrest⟩ := drop_cons_getElem? (h.freeList.symm.trans hfree)
    have hlt := (List.getElem?_eq_some_iff.mp hch).1
    have hchannel : x.channel ch = freeChannel x.su.startFrame := h.free _ ch hch (List.getElem?_eq_none (Nat.le_refl _))
    have hstep : derivePort x q = (((x.setChannel ch { freeChannel x.su.startFrame with state := .assigned q, allocFrame := x.su.startFrame }).setFreeList
        rest).setOrder (x.ra.order ++ [ch])).setPort q { level := .wanted, channel := some ch, unrecorded := false } := by
      simp only [derivePort, if_pos hw, hfree, hchannel]
      rfl
    rw [hstep]
    refine ⟨fun k a hk => ?_, fun a ha => ?_, fun k c a hk ha => ?_, fun k c hk ha => ?_, fun c hc => ?_, ?_, ?_⟩
    · rcases getElem?_snoc hk with hk | ⟨rfl, rfl⟩
      · simp [hother k a hk, h.port k a hk]
      · simp [hch]
    · rw [List.mem_append, List.mem_singleton, not_or] at ha
      simp [ha.2, h.noPort a ha.1]
    · rcases getElem?_snoc ha with ha | ⟨rfl, rfl⟩
      · have hne : c ≠ ch := getElem?_ne hE hk hch (Nat.ne_of_lt (List.getElem?_eq_some_iff.mp ha).1)
        simpa [hne] using h.given k c a hk ha
      · have hc : c = ch := by simpa using hk.symm.trans hch
        simp [hc]
    · rw [List.getElem?_eq_none_iff, List.length_append, List.length_singleton] at ha
      have hne : c ≠ ch := getElem?_ne hE hk hch (by omega)
      simpa [hne] using h.free k c hk (List.getElem?_eq_none (by omega))
    · have hne : c ≠ ch := fun he => hc (he ▸ List.mem_of_getElem? hch)
      simpa [hne] using h.noChannel c hc
    · simp [hrest]
    · simp only [State.setPort_ra_waitQueue, State.setOrder_ra_waitQueue, State.setFreeList_ra_waitQueue, State.setChannel_ra_waitQueue, h.waitQueue]
      rw [List.drop_eq_nil_of_le (by omega), List.drop_eq_nil_of_le (by simp; omega)]

end Recorders

end Sys2Proof.Machine

namespace Sys2Proof.Machine

section Derived

theorem raOnly_derivePort (s : State) (q : Nat) : RaOnly s (derivePort s q) := by
  unfold derivePort
  split
  · split <;> exact ⟨_, rfl⟩
  · exact ⟨s.ra, rfl⟩

theorem derivePort_of_level {s : State} {q : Nat} (h : portLevel s q ≠ .wanted) : derivePort s q = s := if_neg h

/-- The ports that are WANTED, in an order. -/
def wantedOf (s : State) (qs : List Nat) : List Nat := qs.filter fun q => decide (portLevel s q = .wanted)

theorem wantedOf_congr {s t : State} (h : RaOnly s t) (qs : List Nat) : wantedOf t qs = wantedOf s qs := by
  obtain ⟨_, rfl⟩ := h
  rfl

/-- Step 2 of R112 over all the ports. -/
theorem derivePorts_served {x : State} {f : Frame} {E W : List Nat} (h : Served x f E W) (hf : x.su.startFrame = f) (hE : E.Nodup)
    (qs : List Nat) (hqs : qs.Nodup) (hW : ∀ q ∈ qs, q ∉ W) :
    RaOnly x (qs.foldl derivePort x) ∧ Served (qs.foldl derivePort x) f E (W ++ wantedOf x qs) := by
  induction qs generalizing x W with
  | nil => exact ⟨⟨x.ra, rfl⟩, by simpa [wantedOf] using h⟩
  | cons q qs ih =>
    rw [List.foldl_cons]
    obtain ⟨hnot, hqs⟩ := List.nodup_cons.mp hqs
    have honly := raOnly_derivePort x q
    have hsu : (derivePort x q).su.startFrame = f := by
      obtain ⟨_, hx⟩ := honly
      rw [hx, ← hf]
    by_cases hw : portLevel x q = .wanted
    · have hstep := (hf ▸ h).step (q := q) hE (hW q (by simp)) hw
      rw [hf] at hstep
      obtain ⟨hr, hs⟩ := ih hstep hsu hqs fun a ha hmem => (List.mem_append.mp hmem).elim (hW a (by simp [ha]))
        fun he => hnot (List.mem_singleton.mp he ▸ ha)
      refine ⟨honly.trans hr, ?_⟩
      have hcons : wantedOf x (q :: qs) = q :: wantedOf x qs := by simp [wantedOf, hw]
      rw [hcons, List.append_cons, ← wantedOf_congr honly]
      exact hs
    · rw [derivePort_of_level hw]
      obtain ⟨hr, hs⟩ := ih h hf hqs fun a ha => hW a (by simp [ha])
      refine ⟨hr, ?_⟩
      have hcons : wantedOf x (q :: qs) = wantedOf x qs := by simp [wantedOf, hw]
      rw [hcons]
      exact hs

/-- The blocks that the derived state sets, before its mirrors are written (R175). -/
def derivedBlocks (s : State) : State :=
  allSpeakerPorts.foldl derivePort ((List.range 128).foldl deriveChannel (discardRecording ((List.range 32).foldl deriveSpeaker
    ((List.range 256).foldl deriveLine s))))

/-- What those blocks hold (R5, R29, R82, R112). -/
structure BlocksDerived (s u : State) : Prop where
  only    : ∃ x y z a, u = { s with lc := { s.lc with lines := x }, cc := { s.cc with paths := y }, mx := { s.mx with speakers := z }, ra := a }
  line    : ∀ n < 256, u.line n = derivedLine s n
  path    : ∀ n < 256, u.path n = (refreshMasks s n [] (s.line n).applied.call.path).path n
  speaker : ∀ p < 32, u.speaker p = derivedSpeaker s p
  served  : Served u s.su.startFrame ((List.range 128).filter (records s)) (wantedOf u allSpeakerPorts)

theorem discardRecording_served (s : State) (E : List Nat) (x : State) (hc : ∀ ch, x.channel ch = if ch ∈ E then freeChannel s.su.startFrame
    else ChannelRec.cold) (hp : ∀ q, x.port q = PortRec.cold) (hf : x.ra.freeList = E) (hw : x.ra.waitQueue = []) :
    Served x s.su.startFrame E [] where
  port k q hk := by simp at hk
  noPort q _ := hp q
  given k ch q _ hq := by simp at hq
  free k ch hk _ := by rw [hc, if_pos (List.mem_of_getElem? hk)]
  noChannel ch hch := by rw [hc, if_neg hch]
  freeList := by simpa using hf
  waitQueue := by simpa using hw

theorem derivedBlocks_derived (s : State) : BlocksDerived s (derivedBlocks s) := by
  obtain ⟨⟨x, y, h1⟩, hlines⟩ := deriveLines_spec s 256
  obtain ⟨⟨z, h2⟩, hspeakers⟩ := deriveSpeakers_spec ((List.range 256).foldl deriveLine s) 32
  unfold derivedBlocks
  generalize (List.range 256).foldl deriveLine s = u1 at h1 hlines h2 hspeakers
  generalize (List.range 32).foldl deriveSpeaker u1 = u2 at h2 hspeakers
  have h3 := deriveChannels_spec (discardRecording u2) (fun _ => rfl) rfl 128
  obtain ⟨⟨a, h3⟩, hchannel, hfree, hport, hwait⟩ := h3
  have hrecords : records (discardRecording u2) = records s := by rw [h2, h1]; rfl
  have hsu : (discardRecording u2).su = s.su := by rw [h2, h1]; rfl
  rw [hrecords] at hchannel hfree
  rw [hsu] at hchannel
  generalize (List.range 128).foldl deriveChannel (discardRecording u2) = u3 at h3 hchannel hfree hport hwait
  have hserved := discardRecording_served s _ u3 hchannel hport hfree hwait
  have hdistinct : allSpeakerPorts.Nodup := by decide
  obtain ⟨honly, hall⟩ := derivePorts_served hserved (by rw [h3, hsu]) (List.nodup_range.filter _) allSpeakerPorts hdistinct (by simp)
  rw [List.nil_append, ← wantedOf_congr honly] at hall
  obtain ⟨b, h4⟩ := honly
  have hu : ∃ a, allSpeakerPorts.foldl derivePort u3 =
      { s with lc := { s.lc with lines := x }, cc := { s.cc with paths := y }, mx := { s.mx with speakers := z }, ra := a } :=
    ⟨b, by rw [h4, h3, h2, h1]; rfl⟩
  have hlc : (allSpeakerPorts.foldl derivePort u3).lc = u1.lc := by
    rw [h4, h3]
    show u2.lc = u1.lc
    rw [h2]
  have hcc : (allSpeakerPorts.foldl derivePort u3).cc = u1.cc := by
    rw [h4, h3]
    show u2.cc = u1.cc
    rw [h2]
  have hmx : (allSpeakerPorts.foldl derivePort u3).mx = u2.mx := by
    rw [h4, h3]
    rfl
  refine ⟨⟨x, y, z, hu⟩, fun n hn => ?_, fun n hn => ?_, fun p hp => ?_, hall⟩
  · rw [State.line_congr hlc, (hlines n).1, if_pos hn]
  · rw [State.path_congr hcc, (hlines n).2, if_pos hn]
  · have hsame : derivedSpeaker u1 p = derivedSpeaker s p := by
      have hspeaks : speaks u1 p = speaks s p := by rw [h1]; rfl
      have hposition : u1.position p = s.position p := by rw [h1]; rfl
      have hspeaker : u1.speaker p = s.speaker p := by rw [h1]; rfl
      simp only [derivedSpeaker, hspeaks, hposition, hspeaker]
    rw [State.speaker_congr hmx, hspeakers, if_pos hp, hsame]

theorem BlocksDerived.su {s u : State} (h : BlocksDerived s u) : u.su = s.su := by
  obtain ⟨_, _, _, _, hu⟩ := h.only
  rw [hu]

/-! ### The last step of the load -/

/-- The writes that wait for room are counted: the load ends when they are gone (R176). -/
def countLeft (v : State) : State := { v with bi := { v.bi with loadLeft := v.bi.waiting.length } }

/-- The load's last step: every mirror written, and its last write counted (R175, R176). -/
def mirrorsWritten (u : State) : State := countLeft (postAll (u.setLoad (some .ending)) (everyMirror u))

theorem deriveState_eq (s : State) : deriveState s = mirrorsWritten (derivedBlocks s) := by
  unfold deriveState mirrorsWritten countLeft derivedBlocks
  simp only []

variable {u : State}

@[simp] theorem mirrorsWritten_lc : (mirrorsWritten u).lc = u.lc := postAll_lc (u.setLoad (some .ending)) (everyMirror u)
@[simp] theorem mirrorsWritten_cc : (mirrorsWritten u).cc = u.cc := postAll_cc (u.setLoad (some .ending)) (everyMirror u)
@[simp] theorem mirrorsWritten_hc : (mirrorsWritten u).hc = u.hc := postAll_hc (u.setLoad (some .ending)) (everyMirror u)
@[simp] theorem mirrorsWritten_mx : (mirrorsWritten u).mx = u.mx := postAll_mx (u.setLoad (some .ending)) (everyMirror u)
@[simp] theorem mirrorsWritten_ra : (mirrorsWritten u).ra = u.ra := postAll_ra (u.setLoad (some .ending)) (everyMirror u)
@[simp] theorem mirrorsWritten_um : (mirrorsWritten u).um = u.um := postAll_um (u.setLoad (some .ending)) (everyMirror u)
@[simp] theorem mirrorsWritten_re : (mirrorsWritten u).re = u.re := postAll_re (u.setLoad (some .ending)) (everyMirror u)
@[simp] theorem mirrorsWritten_eu : (mirrorsWritten u).eu = u.eu := postAll_eu (u.setLoad (some .ending)) (everyMirror u)
@[simp] theorem mirrorsWritten_mem : (mirrorsWritten u).mem = u.mem := postAll_mem (u.setLoad (some .ending)) (everyMirror u)
@[simp] theorem mirrorsWritten_frame : (mirrorsWritten u).frame = u.frame := postAll_frame (u.setLoad (some .ending)) (everyMirror u)
@[simp] theorem mirrorsWritten_pending : (mirrorsWritten u).pending = u.pending := postAll_pending (u.setLoad (some .ending)) (everyMirror u)
theorem mirrorsWritten_su : (mirrorsWritten u).su = { u.su with load := some .ending, wordsRead := 0 } := postAll_su (u.setLoad (some .ending)) (everyMirror u)
theorem mirrorsWritten_bi : ((mirrorsWritten u).bi.copies, (mirrorsWritten u).bi.base, (mirrorsWritten u).bi.startCopy, (mirrorsWritten u).bi.latch,
    (mirrorsWritten u).bi.held, (mirrorsWritten u).bi.readData, (mirrorsWritten u).bi.measHold) =
    (u.bi.copies, u.bi.base, u.bi.startCopy, u.bi.latch, u.bi.held, u.bi.readData, u.bi.measHold) := by
  generalize h : everyMirror u = ws
  simp [mirrorsWritten, countLeft, h]

theorem mirrorsShow_mirrorsWritten (u : State) : MirrorsShow (mirrorsWritten u) := by
  have hl : lineStatusWords (u.setLoad (some .ending)) = lineStatusWords u := lineStatusWords_congr rfl rfl
  have hp : positionStatusWords (u.setLoad (some .ending)) = positionStatusWords u := positionStatusWords_congr rfl rfl rfl
  have hr : recorderStatusWords (u.setLoad (some .ending)) = recorderStatusWords u := recorderStatusWords_congr rfl
  have hentry : positionStatusEntry (u.setLoad (some .ending)) = positionStatusEntry u := funext fun p => by
    unfold positionStatusEntry
    rw [hp]
  have hsame : everyMirror (u.setLoad (some .ending)) = everyMirror u := by
    unfold everyMirror
    rw [hl, hentry, hr]
  have hshow := mirrorsShow_everyMirror (u.setLoad (some .ending))
  rw [hsame] at hshow
  exact hshow.congr (fun _ => rfl) (lineStatusWords_congr rfl rfl) (positionStatusWords_congr rfl rfl rfl) (recorderStatusWords_congr rfl)

/-- Every mirror word is in an OWNED zone. -/
theorem everyMirror_isMirror (s : State) : ∀ e ∈ everyMirror s, IsMirror e.1 := by
  intro e he
  simp only [everyMirror, List.mem_append, List.mem_flatMap, List.mem_range] at he
  rcases he with (⟨n, hn, he⟩ | ⟨n, hn, he⟩) | ⟨n, hn, he⟩
  · have h := writesAt_offsets _ _ e he
    rw [show (lineStatusWords s n).length = 8 from rfl, lineStatusOffset] at h
    exact .inl (by omega)
  · have h := writesAt_offsets _ _ e he
    rw [show (positionStatusEntry s n).length = 64 by simp [positionStatusEntry, positionStatusWords, handsetWords], positionStatusOffset] at h
    exact .inr (.inl (by omega))
  · have h := writesAt_offsets _ _ e he
    rw [show (recorderStatusWords s n).length = 4 from rfl, recorderStatusOffset] at h
    exact .inr (.inr (by omega))

theorem mirrorsWritten_latestWord (off : Nat) (h : ¬IsMirror off) : latestWord (mirrorsWritten u) off = latestWord u off :=
  latestWord_postAll (u.setLoad (some .ending)) _ off fun e he heq => h (heq ▸ everyMirror_isMirror u e he)

end Derived

end Sys2Proof.Machine

namespace Sys2Proof.Machine

section LoadEnds

/-- A state keeps the counts of configuration and the held accesses; only rejections may be counted. -/
def CountsKept (s u : State) : Prop := (∃ r, u.su = { s.su with rejects := r }) ∧ u.bi.held = s.bi.held

theorem CountsKept.reject {s u : State} (hsu : u.su = s.su) (hheld : u.bi.held = s.bi.held) (w : Rejected) : CountsKept s (rejectEntry u w) :=
  ⟨⟨_, by rw [rejectEntry_eq, hsu]⟩, (rejectEntry_bi_held u w).trans hheld⟩

theorem CountsKept.of_eq {s u : State} (hsu : u.su = s.su) (hheld : u.bi.held = s.bi.held) : CountsKept s u := ⟨⟨s.su.rejects, hsu⟩, hheld⟩

theorem countsKept_writeKey {s w : State} (hsu : w.su = s.su) (hheld : w.bi.held = s.bi.held) (p k : Nat) : CountsKept s (writeKey w p k) := by
  unfold writeKey
  generalize parseKey w.su.positionCount w.su.lineCount p (copyAt w (appearanceOffset (128 * p + k))) = r
  obtain ⟨-, hbi, -, hsu', -⟩ := (keysOnly_applyKey w p k r.1).rest
  dsimp only
  split
  · exact .reject (hsu'.trans hsu) ((congrArg BI.held hbi).trans hheld) _
  · exact .of_eq (hsu'.trans hsu) ((congrArg BI.held hbi).trans hheld)

theorem countsKept_setBridge {s w : State} (hsu : w.su = s.su) (hheld : w.bi.held = s.bi.held) (b : Nat) (r : BridgeRec) :
    CountsKept s (w.setBridge b r) := .of_eq ((State.setBridge_su w b r).trans hsu) (by simpa using hheld)

theorem countsKept_setBridge_reject {s w : State} (hsu : w.su = s.su) (hheld : w.bi.held = s.bi.held) (b : Nat) (r : BridgeRec) (what : Rejected) :
    CountsKept s (rejectEntry (w.setBridge b r) what) := .reject ((State.setBridge_su w b r).trans hsu) (by simpa using hheld) what

/-- The last entry of a load is of a key, a bridge or a recorder channel; none of them touches the counts or the held accesses (R174). -/
theorem loadItem_last {s : State} {item : LoadItem} (h : nextItem s.su item = none) : CountsKept s (loadItem s item) := by
  have hread : ∀ off k, (readEntry s off k).su = s.su ∧ (readEntry s off k).bi.held = s.bi.held := fun off k =>
    ⟨readEntry_su s off k, (entryRead_readEntry s off k).rest.2.2.2.1⟩
  cases item with
  | line n => simp only [nextItem] at h; split at h <;> cases h
  | position p => simp only [nextItem] at h; split at h <;> cases h
  | key i =>
    obtain ⟨hsu, hheld⟩ := hread (appearanceOffset i) 1
    simp only [loadItem, loadKey]
    generalize readEntry s (appearanceOffset i) 1 = w at hsu hheld
    exact countsKept_writeKey hsu hheld _ _
  | bridge b =>
    obtain ⟨hsu, hheld⟩ := hread (bridgeConfigOffset b) 64
    simp only [loadItem, loadBridge]
    generalize readEntry s (bridgeConfigOffset b) 64 = w at hsu hheld
    split
    · exact countsKept_setBridge hsu hheld b _
    · exact countsKept_setBridge_reject hsu hheld b _ _
  | recorder r =>
    obtain ⟨hsu, hheld⟩ := hread (recorderConfigOffset r) 1
    simp only [loadItem, loadRecorder]
    generalize readEntry s (recorderConfigOffset r) 1 = w at hsu hheld
    exact .of_eq hsu hheld

theorem portLevel_congr {s t : State} (hlc : t.lc = s.lc) (hhc : t.hc = s.hc) (hmx : t.mx = s.mx) : portLevel t = portLevel s := by
  have hline : t.line = s.line := funext (State.line_congr hlc)
  have hpos : t.position = s.position := funext (State.position_congr hhc)
  have hhandset : t.handset = s.handset := funext (State.handset_congr hhc)
  have hspeaker : t.speaker = s.speaker := funext (State.speaker_congr hmx)
  funext q
  unfold portLevel handsetLevel speakerLevel
  rw [hline, hpos, hhandset, hspeaker]

/-- The load as its last step leaves it (R175). -/
def derived (s : State) : State := settleQuietly (mirrorsWritten (derivedBlocks s))

variable {s : State}

theorem derived_lc : (derived s).lc = (derivedBlocks s).lc := by simp [derived]
theorem derived_hc : (derived s).hc = (derivedBlocks s).hc := by simp [derived]
theorem derived_mx : (derived s).mx = (derivedBlocks s).mx := by simp [derived]
theorem derived_ra : (derived s).ra = (derivedBlocks s).ra := by simp [derived]
theorem derived_circuits : (derived s).cc.circuits = (derivedBlocks s).cc.circuits := by simp [derived]
theorem derived_paths : (derived s).cc.paths = (derivedBlocks s).cc.paths := by simp [derived]

theorem derived_su : (derived s).su = { s.su with load := some .ending, wordsRead := 0 } := by
  rw [derived, settleQuietly_su, mirrorsWritten_su, (derivedBlocks_derived s).su]

/-- The last step leaves the processor's side of the bus. -/
theorem derived_bus : ((derived s).bi.copies, (derived s).bi.base, (derived s).bi.startCopy, (derived s).bi.latch, (derived s).bi.held,
    (derived s).bi.readData) = (s.bi.copies, s.bi.base, s.bi.startCopy, s.bi.latch, s.bi.held, s.bi.readData) := by
  have hmirrors := mirrorsWritten_bi (u := derivedBlocks s)
  simp only [Prod.mk.injEq] at hmirrors
  obtain ⟨hcopies, hbase, hstart, hlatch, hheld, hread, -⟩ := hmirrors
  obtain ⟨_, _, _, _, hu⟩ := (derivedBlocks_derived s).only
  have hbi : (derivedBlocks s).bi = s.bi := by rw [hu]
  simp only [derived, settleQuietly_bi_copies, settleQuietly_bi_base, settleQuietly_bi_startCopy, settleQuietly_bi_latch, settleQuietly_bi_held,
    settleQuietly_bi_readData, hcopies, hbase, hstart, hlatch, hheld, hread, hbi]

theorem derived_copyAt (o : Nat) : copyAt (derived s) o = copyAt s o := by
  have hbus := derived_bus (s := s)
  simp only [Prod.mk.injEq] at hbus
  simp only [copyAt, hbus.1]

/-- The mirrors show the state that the load ends with. -/
theorem mirrorsShow_derived : MirrorsShow (derived s) :=
  (mirrorsShow_mirrorsWritten (derivedBlocks s)).congr (settleQuietly_latestWord _)
    (lineStatusWords_congr (settleQuietly_lc _) (settleQuietly_cc_paths _))
    (positionStatusWords_congr (settleQuietly_lc _) (settleQuietly_hc _) (settleQuietly_mx _)) (recorderStatusWords_congr (settleQuietly_ra _))

/-- The end of a command that posts no mirror leaves the queue's side of the bus, but for who has asked for the port. -/
theorem settleQuietly_left (v : State) : (settleQuietly v).bi.loadLeft = v.bi.loadLeft ∧ (settleQuietly v).bi.waiting = v.bi.waiting := by
  have hend : ∀ u : State, (endUpdateIfDone u).bi.loadLeft = u.bi.loadLeft := fun u => by
    unfold endUpdateIfDone
    (repeat' split) <;> rfl
  simp [settleQuietly, hend]

theorem countLeft_left (v : State) : (countLeft v).bi.loadLeft = (countLeft v).bi.waiting.length := rfl

theorem derived_loadLeft : (derived s).bi.loadLeft = (derived s).bi.waiting.length := by
  obtain ⟨hleft, hwaiting⟩ := settleQuietly_left (mirrorsWritten (derivedBlocks s))
  rw [derived, hleft, hwaiting, mirrorsWritten, countLeft_left]

theorem leaves_derived : Leaves s (derived s) [.lc, .cc, .mx, .ra, .su] := by
  have hblocks : Leaves s (derivedBlocks s) [.lc, .cc, .mx, .ra] := by
    obtain ⟨_, _, _, _, hu⟩ := (derivedBlocks_derived s).only
    rw [hu]
    exact ⟨rfl, fun b hb => by cases b <;> simp [Same, latestWord, sramAddress] at hb ⊢⟩
  have hmirrors : Leaves (derivedBlocks s) (mirrorsWritten (derivedBlocks s)) [.su] := by
    have hbi := mirrorsWritten_bi (u := derivedBlocks s)
    simp only [Prod.mk.injEq] at hbi
    refine ⟨mirrorsWritten_pending, fun b hb => ?_⟩
    cases b <;> simp only [Same]
    case words => exact fun off ho => mirrorsWritten_latestWord off fun hm => ho (isMirror_owned off hm)
    case su => simp at hb
    all_goals simp [hbi]
  exact ((hblocks.trans hmirrors).trans (leaves_settleQuietly _)).mono (by decide)

/-- The load's step after its last entry (R174, R175). -/
theorem loadEntryRead_last {s₀ : State} {item : LoadItem} (hload : s₀.su.load = some (.entries item)) (hnext : nextItem s₀.su item = none)
    (hheld : s₀.bi.held = []) (hw : waits s₀ .load = false) : exec .loadEntryRead s₀ = .next (derived (loadItem s₀ item)) := by
  obtain ⟨⟨r, hsu⟩, hkept⟩ := loadItem_last hnext
  have hnext' : nextItem (loadItem s₀ item).su item = none := by
    rw [hsu, ← hnext]
    cases item <;> rfl
  have hreads : finishReads s₀ .load = s₀ := by simp [finishReads, hw]
  have hread : readNextEntry s₀ = deriveState (loadItem s₀ item) := by simp only [readNextEntry, hload, hnext']
  have hexec : exec .loadEntryRead s₀ = execLoadEntryRead s₀ := rfl
  have hbi := mirrorsWritten_bi (u := derivedBlocks (loadItem s₀ item))
  simp only [Prod.mk.injEq] at hbi
  obtain ⟨_, _, _, _, hu⟩ := (derivedBlocks_derived (loadItem s₀ item)).only
  have hsame : (derivedBlocks (loadItem s₀ item)).bi = (loadItem s₀ item).bi := by rw [hu]
  rw [hexec]
  simp only [execLoadEntryRead, hload]
  rw [hreads, hread, deriveState_eq, doneQuietly_of_nothingHeld _ (by rw [hbi.2.2.2.2.1, hsame, hkept, hheld])]
  rfl

/-! ### The parts of the derived state -/

theorem derived_line (n : Nat) (hn : n < 256) : (derived s).line n = derivedLine s n := by
  rw [State.line_congr derived_lc, (derivedBlocks_derived s).line n hn]

theorem derived_path (n : Nat) (hn : n < 256) :
    (derived s).path n = (refreshMasks s n [] (s.line n).applied.call.path).path n := by
  have hpath : (derived s).path n = (derivedBlocks s).path n := by simp only [State.path, derived_paths]
  rw [hpath, (derivedBlocks_derived s).path n hn]

theorem derived_speaker (p : Nat) (hp : p < 32) : (derived s).speaker p = derivedSpeaker s p := by
  rw [State.speaker_congr derived_mx, (derivedBlocks_derived s).speaker p hp]

theorem derived_channel (ch : Nat) : (derived s).channel ch = (derivedBlocks s).channel ch := State.channel_congr derived_ra ch
theorem derived_port (q : Nat) : (derived s).port q = (derivedBlocks s).port q := State.port_congr derived_ra q

/-- The recorder channels and ports in the words of the statement: channel k goes to port k (R112). -/
theorem derived_recording (enabled wanted : List Nat)
    (hE : enabled = ((List.range 128).filter fun ch => decide (ch < s.su.recorderCount) && bitAt (copyAt (derived s) (recorderConfigOffset ch)) 0))
    (hW : wanted = (allSpeakerPorts.filter fun q => decide (portLevel (derived s) q = .wanted))) :
    Served (derived s) s.su.startFrame enabled wanted := by
  have hlevel : portLevel (derived s) = portLevel (derivedBlocks s) := portLevel_congr derived_lc derived_hc derived_mx
  have hEs : enabled = (List.range 128).filter (records s) := by
    rw [hE]
    simp only [derived_copyAt]
    rfl
  have hWs : wanted = wantedOf (derivedBlocks s) allSpeakerPorts := by
    rw [hW, hlevel]
    rfl
  have hserved := (derivedBlocks_derived s).served
  rw [← hEs, ← hWs] at hserved
  exact {
    port := fun k q h => (derived_port q).trans (hserved.port k q h)
    noPort := fun q h => (derived_port q).trans (hserved.noPort q h)
    given := fun k ch q h1 h2 => (derived_channel ch).trans (hserved.given k ch q h1 h2)
    free := fun k ch h1 h2 => (derived_channel ch).trans (hserved.free k ch h1 h2)
    noChannel := fun ch h => (derived_channel ch).trans (hserved.noChannel ch h)
    freeList := by rw [derived_ra]; exact hserved.freeList
    waitQueue := by rw [derived_ra]; exact hserved.waitQueue }

/-- What is left of the line, circuit and mixer blocks. -/
theorem derived_rest : ((derived s).lc.keys, (derived s).lc.appIndex, (derived s).lc.alerts) = (s.lc.keys, s.lc.appIndex, s.lc.alerts) ∧
    (derived s).cc.circuits = s.cc.circuits ∧
    ((derived s).mx.bridges, (derived s).mx.snapshot, (derived s).mx.out) = (s.mx.bridges, s.mx.snapshot, s.mx.out) := by
  obtain ⟨_, _, _, _, hu⟩ := (derivedBlocks_derived s).only
  rw [derived_lc, derived_circuits, derived_mx, hu]
  exact ⟨rfl, rfl, rfl⟩

end LoadEnds

/-- Settles O14: the blocks are derived one by one (lines, speakers, channels, ports), then every mirror is written (R175). -/
theorem loadDerivesState : Obligations.LoadDerivesState := by
  unfold Obligations.LoadDerivesState
  intro s₀ s item hload hnext _ hheld hw hs
  have hexec := loadEntryRead_last hload hnext hheld hw
  rw [← hs] at hexec
  obtain ⟨hlc, hcircuits, hmx⟩ := derived_rest (s := s)
  refine ⟨derived s, hexec, derived_su, fun r hr _ => ?_, fun n hn => derived_line n hn, fun n hn i hi => ?_, fun p hp => ?_,
    fun enabled wanted hE hW => ?_, hlc, hcircuits, hmx, mirrorsShow_derived, derived_loadLeft, leaves_derived⟩
  · have hone : ((List.range 1).map fun k => partRead s₀ (recorderConfigOffset r + k)) = [partRead s₀ (recorderConfigOffset r)] := by simp
    have hread := entryRead_readEntry s₀ (recorderConfigOffset r) 1
    have hsu := readEntry_su s₀ (recorderConfigOffset r) 1
    rw [hone] at hread
    have hitem : s = readEntry s₀ (recorderConfigOffset r) 1 := by rw [hs, hr]; rfl
    rw [← hitem] at hread hsu
    exact ⟨hsu, hread.congr derived_bus⟩
  · rw [derived_path n hn]
    exact refreshMasks_fresh s n _ i hi
  · rw [derived_speaker p hp]
    split
    · next h => exact derivedSpeaker_speaks h
    · next h => exact derivedSpeaker_silent h
  · have hserved := derived_recording enabled wanted hE hW
    refine ⟨hserved.port, hserved.noPort, fun k ch hk => ?_, hserved.noChannel, hserved.freeList, hserved.waitQueue⟩
    cases hq : wanted[k]? with
    | none =>
      rw [hserved.free k ch hk hq, if_neg (Nat.not_lt.mpr (List.getElem?_eq_none_iff.mp hq))]
      rfl
    | some q =>
      rw [hserved.given k ch q hk hq, if_pos (List.getElem?_eq_some_iff.mp hq).1]
      rfl

end Sys2Proof.Machine

namespace Sys2Proof.Machine

/-! ## Levels of ports after a recomputation (R99, R104) -/

section Levels

variable {s t u : State}

/-- No port's level has changed. -/
def LevelsKept (s t : State) : Prop := ∀ q, (t.port q).level = (s.port q).level

theorem LevelsKept.refl (s : State) : LevelsKept s s := fun _ => rfl

theorem LevelsKept.trans (h : LevelsKept s t) (k : LevelsKept t u) : LevelsKept s u := fun q => (k q).trans (h q)

theorem levelsKept_congr (h : t.ra.ports = s.ra.ports) : LevelsKept s t := fun q => by simp only [State.port, h]

theorem levelsKept_modPort (q : Nat) (f : PortRec → PortRec) (hf : ∀ r, (f r).level = r.level) : LevelsKept s (modPort s q f) := fun p => by
  by_cases hp : p = q
  · simp [hp, hf]
  · simp [hp]

theorem levelsKept_foldl {α : Type} (f : State → α → State) (hf : ∀ s a, LevelsKept s (f s a)) (l : List α) (s : State) :
    LevelsKept s (l.foldl f s) := by
  induction l generalizing s with
  | nil => exact .refl s
  | cons a l ih => exact (hf s a).trans (ih _)

theorem levelsKept_issue (s : State) (e : Event) : LevelsKept s (issue s e) := levelsKept_congr (by simp)

theorem levelsKept_clearUnrecorded (s : State) (q : Nat) (c : Option Nat) : LevelsKept s (clearUnrecorded s q c) := by
  unfold clearUnrecorded
  split
  · exact LevelsKept.trans (t := modPort s q fun r => { r with unrecorded := false }) (levelsKept_modPort q _ fun _ => rfl) (levelsKept_issue _ _)
  · exact .refl s

theorem levelsKept_markUnrecorded (s : State) (q : Nat) : LevelsKept s (markUnrecorded s q) := by
  unfold markUnrecorded
  split
  · exact .refl s
  · exact LevelsKept.trans (t := modPort s q fun r => { r with unrecorded := true }) (levelsKept_modPort q _ fun _ => rfl)
      (levelsKept_congr (by simp))

theorem levelsKept_enterClass (s : State) (q : Nat) (l : Level) : LevelsKept s (enterClass s q l) := by
  unfold enterClass
  split <;> exact levelsKept_congr rfl

theorem levelsKept_leaveQueue (s : State) (q : Nat) : LevelsKept s (leaveQueue s q) := levelsKept_congr rfl

theorem levelsKept_setChannel (s : State) (ch : Nat) (r : ChannelRec) : LevelsKept s (s.setChannel ch r) := levelsKept_congr rfl
theorem levelsKept_setOrder (s : State) (l : List Nat) : LevelsKept s (s.setOrder l) := levelsKept_congr rfl
theorem levelsKept_setFreeList (s : State) (l : List Nat) : LevelsKept s (s.setFreeList l) := levelsKept_congr rfl

theorem levelsKept_assignChannel (s : State) (ch q : Nat) (p : Option Nat) (l : Bool) : LevelsKept s (assignChannel s ch q p l) := by
  unfold assignChannel
  dsimp only
  refine LevelsKept.trans ?_ (levelsKept_clearUnrecorded _ _ _)
  refine LevelsKept.trans ?_ (levelsKept_issue _ _)
  refine LevelsKept.trans ?_ (levelsKept_leaveQueue _ _)
  refine LevelsKept.trans ?_ (levelsKept_modPort q (fun r => { r with channel := some ch }) fun _ => rfl)
  exact (levelsKept_setChannel s ch _).trans (levelsKept_setOrder _ _)

theorem levelsKept_giveFree (s : State) (q : Nat) : LevelsKept s (giveFree s q) := by
  unfold giveFree
  split
  · exact (levelsKept_setFreeList s _).trans (levelsKept_assignChannel _ _ q none true)
  · exact (levelsKept_setFreeList s _).trans (levelsKept_assignChannel _ _ q none false)
  · exact .refl s

theorem levelsKept_preempt (s : State) (q v : Nat) : LevelsKept s (preempt s q v) := by
  unfold preempt
  split
  · refine LevelsKept.trans ?_ (levelsKept_assignChannel _ _ _ _ _)
    exact LevelsKept.trans (t := modPort s v fun r => { r with channel := none }) (levelsKept_modPort v _ fun _ => rfl) (levelsKept_enterClass _ _ _)
  · exact .refl s

theorem levelsKept_releaseChannel (s : State) (q : Nat) : LevelsKept s (releaseChannel s q) := by
  unfold releaseChannel
  split
  · refine LevelsKept.trans ?_ (levelsKept_modPort q (fun r => { r with channel := none }) fun _ => rfl)
    exact ((levelsKept_setChannel s _ _).trans (levelsKept_setFreeList _ _)).trans (levelsKept_setOrder _ _)
  · exact .refl s

theorem levelsKept_passServe (k : Nat) (s : State) : LevelsKept s (passServe k s) := by
  induction k generalizing s with
  | zero => exact .refl s
  | succ k ih =>
    unfold passServe
    split
    · exact (levelsKept_giveFree s _).trans (ih _)
    · exact .refl s

theorem levelsKept_passPreempt (s : State) (q : Nat) : LevelsKept s (passPreempt s q) := by
  unfold passPreempt
  split
  · split
    · exact levelsKept_preempt s q _
    · exact levelsKept_markUnrecorded s q
  · exact .refl s

/-- Only one port's level may have changed, to a given one. -/
def LevelSet (s t : State) (q : Nat) (l : Level) : Prop := ∀ p, (t.port p).level = if p = q then l else (s.port p).level

theorem levelSet_modPort (s : State) (q : Nat) (l : Level) : LevelSet s (modPort s q fun r => { r with level := l }) q l := fun p => by
  by_cases hp : p = q <;> simp [hp]

theorem LevelSet.kept {q : Nat} {l : Level} (h : LevelSet s t q l) (k : LevelsKept t u) : LevelSet s u q l := fun p => (k p).trans (h p)

theorem LevelsKept.set {q : Nat} {l : Level} (h : LevelsKept s t) (k : LevelSet t u q l) : LevelSet s u q l := fun p => by
  rw [k p, h p]

theorem levelSet_of_eq {q : Nat} (h : LevelsKept s t) : LevelSet s t q (s.port q).level := fun p => by
  rw [h p]
  split
  · next hp => rw [hp]
  · rfl

theorem passFall_level (s : State) (e : Nat × Level) :
    LevelSet s (passFall s e) e.1 (if e.2 = .none then .none else (s.port e.1).level) := by
  unfold passFall
  split
  · next h =>
    rw [if_pos h.2]
    exact (((levelsKept_releaseChannel s e.1).trans (levelsKept_leaveQueue _ _)).set (levelSet_modPort _ _ _)).kept
      (levelsKept_clearUnrecorded _ _ _)
  · next h =>
    have hsame : (if e.2 = .none then .none else (s.port e.1).level) = (s.port e.1).level := by
      split
      · next he =>
        by_contra hn
        exact h ⟨fun hl => hn hl.symm, he⟩
      · rfl
    rw [hsame]
    exact levelSet_of_eq (.refl s)

theorem passClass_level (s : State) (e : Nat × Level) :
    LevelSet s (passClass s e) e.1 (if (s.port e.1).level ≠ .none ∧ e.2 ≠ .none then e.2 else (s.port e.1).level) := by
  by_cases h : (s.port e.1).level ≠ .none ∧ e.2 ≠ .none ∧ (s.port e.1).level ≠ e.2
  · have hset := levelSet_modPort s e.1 e.2
    rw [if_pos ⟨h.1, h.2.1⟩]
    simp only [passClass, if_pos h]
    by_cases hw : s.ra.waitQueue.contains e.1 = true
    · rw [if_pos hw]
      refine hset.kept (LevelsKept.trans ?_ (levelsKept_enterClass _ _ _))
      split
      · exact levelsKept_clearUnrecorded _ _ _
      · exact .refl _
    · rw [if_neg hw]
      exact hset
  · have hsame : (if (s.port e.1).level ≠ .none ∧ e.2 ≠ .none then e.2 else (s.port e.1).level) = (s.port e.1).level := by
      split
      · next he =>
        by_contra hn
        exact h ⟨he.1, he.2, fun hl => hn hl.symm⟩
      · rfl
    rw [hsame]
    simp only [passClass, if_neg h]
    exact levelSet_of_eq (.refl s)

theorem passRise_level (s : State) (e : Nat × Level) :
    LevelSet s (passRise s e) e.1 (if (s.port e.1).level = .none then e.2 else (s.port e.1).level) := by
  unfold passRise
  dsimp only
  split
  · next h =>
    rw [if_pos h.1]
    split
    · exact (levelSet_modPort s e.1 e.2).kept (levelsKept_enterClass _ _ _)
    · exact levelSet_modPort s e.1 e.2
  · next h =>
    have hsame : (if (s.port e.1).level = .none then e.2 else (s.port e.1).level) = (s.port e.1).level := by
      split
      · next he =>
        by_contra hn
        exact h ⟨he, fun hl => hn (hl.trans he.symm)⟩
      · rfl
    rw [hsame]
    exact levelSet_of_eq (.refl s)

/-- One step of a pass acts on each named port by itself. -/
theorem pass_levels (f : State → Nat × Level → State) (g : Level → Level → Level)
    (hf : ∀ s e, LevelSet s (f s e) e.1 (g e.2 (s.port e.1).level)) (lv : Nat → Level) (qs : List Nat) (hqs : qs.Nodup) (s : State) (p : Nat) :
    (((qs.map fun q => (q, lv q)).foldl f s).port p).level = if p ∈ qs then g (lv p) (s.port p).level else (s.port p).level := by
  induction qs generalizing s with
  | nil => simp
  | cons q qs ih =>
    obtain ⟨hnot, hqs⟩ := List.nodup_cons.mp hqs
    rw [List.map_cons, List.foldl_cons, ih hqs, hf]
    by_cases hp : p = q
    · subst hp
      simp [hnot]
    · simp [hp]

theorem mergeKey_nodup (i : Nat) (l : List Nat) (hl : l.Pairwise (· < ·)) : (Table.mergeKey i l).Pairwise (· < ·) := by
  induction l with
  | nil => simp [Table.mergeKey]
  | cons k l ih =>
    obtain ⟨hk, hl'⟩ := List.pairwise_cons.mp hl
    unfold Table.mergeKey
    split
    · next h => exact List.pairwise_cons.mpr ⟨fun a ha => (List.mem_cons.mp ha).elim (fun e => e ▸ h) fun ha => Nat.lt_trans h (hk a ha), hl⟩
    · split
      · exact hl
      · next h1 h2 =>
        refine List.pairwise_cons.mpr ⟨fun a ha => ?_, ih hl'⟩
        rcases (mem_mergeKey i a l).mp ha with rfl | ha
        · omega
        · exact hk a ha

theorem mergeKeys_nodup (l : List Nat) : (Table.mergeKeys [] l).Nodup := by
  have key : ∀ (l acc : List Nat), acc.Pairwise (· < ·) → (l.foldl (fun t i => Table.mergeKey i t) acc).Pairwise (· < ·) := by
    intro l
    induction l with
    | nil => exact fun _ h => h
    | cons i l ih => exact fun acc h => ih _ (mergeKey_nodup i acc h)
  exact (key l [] List.Pairwise.nil).imp Nat.ne_of_lt

/-- After a recomputation each named port has its level (R104). -/
theorem recomputePorts_level (s : State) (named : List Nat) (q : Nat) (hq : q ∈ named) :
    ((recomputePorts s named).port q).level = portLevel s q := by
  have hmem : q ∈ Table.mergeKeys [] named := (mem_mergeKeys _ _ _).mpr (.inr hq)
  have hnodup := mergeKeys_nodup named
  have hkept : LevelsKept (((Table.mergeKeys [] named).map fun q => (q, portLevel s q)).foldl passRise
      (((Table.mergeKeys [] named).map fun q => (q, portLevel s q)).foldl passClass
        (((Table.mergeKeys [] named).map fun q => (q, portLevel s q)).foldl passFall s))) (recomputePorts s named) := by
    unfold recomputePorts
    exact (levelsKept_passServe _ _).trans (levelsKept_foldl _ levelsKept_passPreempt _ _)
  rw [hkept q,
    pass_levels passRise (fun l old => if old = .none then l else old) passRise_level (portLevel s) _ hnodup,
    pass_levels passClass (fun l old => if old ≠ .none ∧ l ≠ .none then l else old) passClass_level (portLevel s) _ hnodup,
    pass_levels passFall (fun l old => if l = .none then .none else old) passFall_level (portLevel s) _ hnodup]
  simp only [hmem, if_true]
  by_cases hnone : portLevel s q = .none
  · simp [hnone]
  · by_cases hold : (s.port q).level = .none <;> simp [hnone, hold]

end Levels

end Sys2Proof.Machine

namespace Sys2Proof.Machine

/-! ## A line entry applied (R3, R28, R29) -/

section Naming

/-- A table entry's part in naming (R28). -/
def names (lineCount c : Nat) (e : Nat × LineRec) : Bool :=
  (decide (e.1 < lineCount) && e.2.applied.call.path.contains c) || e.2.callCopy.any fun cc => cc.path.contains c

theorem isNamed_eq (s : State) (c : Nat) : isNamed s c = s.lc.lines.any (names s.su.lineCount c) := by
  unfold isNamed
  congr 1
  funext e
  unfold names
  cases e.2.callCopy <;> rfl

theorem names_cold (k c n : Nat) : names k c (n, LineRec.cold) = false := by simp [names, LineRec.cold, LineConfig.null]

/-- What holds of the record a table gives for a number, and not of the default, holds of some entry. -/
theorem any_of_get {α : Type} {d : α} {t : Table α} {i : Nat} {p : Nat × α → Bool} (hd : p (i, d) = false)
    (h : p (i, Table.get d t i) = true) : t.any p = true := by
  induction t with
  | nil => simp [Table.get, hd] at h
  | cons e t ih =>
    obtain ⟨k, w⟩ := e
    simp only [Table.get] at h
    split at h
    · next hk => simp [← hk, h]
    · simp [ih h]

/-- Replacing a record by one that a predicate treats alike leaves whether some entry meets it. -/
theorem any_insert {α : Type} {d : α} {t : Table α} {i : Nat} {v : α} {p : Nat × α → Bool} (hd : p (i, d) = false)
    (h : p (i, v) = p (i, Table.get d t i)) : (Table.insert t i v).any p = t.any p := by
  induction t with
  | nil => simpa [Table.insert, Table.get, hd] using h
  | cons e t ih =>
    obtain ⟨k, w⟩ := e
    simp only [Table.insert]
    split
    · next hk =>
      cases hv : p (i, v) with
      | false => simp [hv]
      | true =>
        have hany := any_of_get hd (h ▸ hv)
        rw [List.any_cons, hv, hany]
        rfl
    · split
      · next hik =>
        subst hik
        simp only [Table.get, if_true] at h
        simp [h]
      · next hik =>
        simp only [Table.get, if_neg hik] at h
        simp [ih h]

/-- A change of a line's record that leaves its groups leaves the naming (R28). -/
theorem isNamed_modLine {s : State} {n : Nat} {f : LineRec → LineRec} (c : Nat) (happlied : (f (s.line n)).applied.call = (s.line n).applied.call)
    (hcopy : (f (s.line n)).callCopy = (s.line n).callCopy) (hcold : f (s.line n) ≠ LineRec.cold) :
    isNamed (modLine s n f) c = isNamed s c := by
  have hput : (modLine s n f).lc.lines = Table.insert s.lc.lines n (f (s.line n)) := by
    show Table.put LineRec.cold s.lc.lines n (f (s.line n)) = _
    rw [Table.put, if_neg hcold]
  have hsu : (modLine s n f).su = s.su := by simp
  rw [isNamed_eq, isNamed_eq, hput, hsu]
  refine any_insert (names_cold _ _ _) ?_
  show names _ _ (n, f (s.line n)) = names _ _ (n, s.line n)
  simp only [names, happlied, hcopy]

/-- A parsed line entry is not the null entry: it has a kind (section 11.5). -/
theorem parseLine_kind {k n : Nat} {ws : List Word} {cfg : LineConfig} (h : parseLine k n ws = some cfg) : cfg.call.kind ≠ .unset := by
  have hkind : ∀ {x : Nat} {y : LineKind}, lineKindOf x = some y → y ≠ .unset := by
    intro x y hxy
    unfold lineKindOf at hxy
    (repeat' split at hxy) <;> cases hxy <;> decide
  unfold parseLine at h
  dsimp only at h
  split at h
  · next kind level hk hl =>
    split at h
    · cases h
      exact hkind hk
    · cases h
  · cases h

end Naming

section Configured

/-- The line's entry is in its record, its circuits and masks follow, and its ports have their levels: what a valid commit does before the
enabled field (R3, R28, R29). -/
def lineConfigured (s : State) (n : Nat) (cfg : LineConfig) : State :=
  let l := s.line n
  let s := modLine s n fun l => { l with applied := cfg, configRejected := false }
  let s := renameCircuits s (l.applied.call.path ++ cfg.call.path)
  let s := if l.callCopy = none then refreshMasks s n l.applied.call.path cfg.call.path else s
  if l.applied.recordLevel ≠ cfg.recordLevel ∧ portsHolding s n ≠ [] then recomputePorts s (portsHolding s n) else s

theorem applyLine_eq (s : State) (n : Nat) (cfg : LineConfig) :
    applyLine s n cfg = changeEnabled (lineConfigured s n cfg) n (s.line n).applied.enabled cfg.enabled := rfl

/-- The naming step of a commit. -/
def lineNamed (s : State) (n : Nat) (cfg : LineConfig) : State :=
  renameCircuits (modLine s n fun l => { l with applied := cfg, configRejected := false }) ((s.line n).applied.call.path ++ cfg.call.path)

/-- The masks step. -/
def lineMasked (s : State) (n : Nat) (cfg : LineConfig) : State :=
  if (s.line n).callCopy = none then refreshMasks (lineNamed s n cfg) n (s.line n).applied.call.path cfg.call.path else lineNamed s n cfg

theorem lineConfigured_eq (s : State) (n : Nat) (cfg : LineConfig) : lineConfigured s n cfg =
    if (s.line n).applied.recordLevel ≠ cfg.recordLevel ∧ portsHolding (lineMasked s n cfg) n ≠ [] then
      recomputePorts (lineMasked s n cfg) (portsHolding (lineMasked s n cfg) n)
    else lineMasked s n cfg := rfl

variable (s : State) (n : Nat) (cfg : LineConfig)

theorem lineNamed_ccOnly : CcOnly (modLine s n fun l => { l with applied := cfg, configRejected := false }) (lineNamed s n cfg) :=
  ccOnly_renameCircuits _ _

theorem lineMasked_ccOnly : CcOnly (modLine s n fun l => { l with applied := cfg, configRejected := false }) (lineMasked s n cfg) := by
  unfold lineMasked
  split
  · exact (lineNamed_ccOnly s n cfg).trans (ccOnly_refreshMasks _ _ _ _)
  · exact lineNamed_ccOnly s n cfg

theorem work_lineMasked : Work s (lineMasked s n cfg) [.lc, .cc] := by
  have hnamed : Work s (lineNamed s n cfg) [.lc, .cc] := ((work_modLine s n _).mono (by decide)).step (work_renameCircuits _ _)
  unfold lineMasked
  exact .ite (hnamed.step (work_refreshMasks _ _ _ _)) hnamed

theorem recordingOnly_lineConfigured : RecordingOnly (lineMasked s n cfg) (lineConfigured s n cfg) := by
  rw [lineConfigured_eq]
  split
  · exact recordingOnly_recomputePorts _ (.refl _)
  · exact .refl _

theorem work_lineConfigured : Work s (lineConfigured s n cfg) [.lc, .cc, .events, .alarms, .ra] := by
  have hmasked := (work_lineMasked s n cfg).mono (ys := [.lc, .cc, .events, .alarms, .ra]) (by decide)
  rw [lineConfigured_eq]
  exact .ite (hmasked.step (work_recomputePorts _ _)) hmasked

theorem lineConfigured_line (m : Nat) : (lineConfigured s n cfg).line m =
    if m = n then { s.line n with applied := cfg, configRejected := false } else s.line m := by
  rw [State.line_congr (recordingOnly_lineConfigured s n cfg).lc, State.line_congr (lineMasked_ccOnly s n cfg).rest.1]
  simp

theorem lineConfigured_rest : (lineConfigured s n cfg).hc = s.hc ∧ (lineConfigured s n cfg).um = s.um ∧ (lineConfigured s n cfg).mx = s.mx ∧
    (lineConfigured s n cfg).frame = s.frame ∧ (lineConfigured s n cfg).lc.alerts = s.lc.alerts ∧
    (lineConfigured s n cfg).su = s.su := by
  have hra := recordingOnly_lineConfigured s n cfg
  obtain ⟨x, hx⟩ := lineMasked_ccOnly s n cfg
  rw [hra.hc, hra.um, hra.mx, hra.frame, hra.lc, hra.su, hx]
  exact ⟨rfl, rfl, rfl, rfl, rfl, rfl⟩

/-- The circuits of the old and the new group follow their naming (R28). -/
theorem lineConfigured_circuit (c : Nat) : (lineConfigured s n cfg).circuit c =
    if c ∈ (s.line n).applied.call.path ∨ c ∈ cfg.call.path then (s.circuit c).renamed (isNamed (lineConfigured s n cfg) c) else s.circuit c := by
  have hra := recordingOnly_lineConfigured s n cfg
  have hnamed : isNamed (lineConfigured s n cfg) c =
      isNamed (modLine s n fun l => { l with applied := cfg, configRejected := false }) c :=
    (isNamed_congr (by rw [hra.lc]) (by rw [hra.su]) c).trans (isNamed_of_ccOnly (lineMasked_ccOnly s n cfg) c)
  have hmasked : (lineMasked s n cfg).circuit c = (lineNamed s n cfg).circuit c := by
    unfold lineMasked
    split <;> rfl
  have hsame : (modLine s n fun l => { l with applied := cfg, configRejected := false }).circuit c = s.circuit c := by simp
  rw [hnamed, State.circuit_congr hra.cc, hmasked, lineNamed, renameCircuits_circuit, hsame]
  simp only [List.mem_append]

theorem lineConfigured_path_ne (m : Nat) (hm : m ≠ n) : (lineConfigured s n cfg).path m = s.path m := by
  rw [State.path_congr (recordingOnly_lineConfigured s n cfg).cc]
  unfold lineMasked
  split
  · rw [refreshMasks_path_ne _ _ _ _ m hm]
    simp [lineNamed]
  · simp [lineNamed]

theorem lineConfigured_path_callCopy (h : (s.line n).callCopy ≠ none) : (lineConfigured s n cfg).path n = s.path n := by
  rw [State.path_congr (recordingOnly_lineConfigured s n cfg).cc, lineMasked, if_neg h]
  simp [lineNamed]

theorem lineConfigured_lastUsed : ((lineConfigured s n cfg).path n).lastUsed = (s.path n).lastUsed := by
  rw [State.path_congr (recordingOnly_lineConfigured s n cfg).cc]
  unfold lineMasked
  split
  · rw [refreshMasks_lastUsed]
    simp [lineNamed]
  · simp [lineNamed]

/-- A circuit is available in a mask as its state says. -/
theorem circuitAvailable_eq (s : State) (c : Nat) :
    circuitAvailable s c = decide ((s.circuit c).state ≠ .down ∧ (s.circuit c).state ≠ .resetting) := by
  cases h : (s.circuit c).state <;> simp [circuitAvailable, h]

/-- The masks after a commit, outside a call (R29). -/
theorem lineConfigured_masks (h : (s.line n).callCopy = none) (i : Nat) (hi : i < 4) :
    ((lineConfigured s n cfg).path n).installed.getLsbD i = decide (i < cfg.call.path.length) ∧
    ((lineConfigured s n cfg).path n).available.getLsbD i = (match cfg.call.path[i]? with
      | some c => decide ((s.circuit c).state ≠ .down ∧ (s.circuit c).state ≠ .resetting)
      | none => false) ∧
    ((lineConfigured s n cfg).path n).operational.getLsbD i = (match cfg.call.path[i]? with
      | some c => if (s.line n).applied.call.path[i]? = some c then (s.path n).operational.getLsbD i else true
      | none => false) := by
  have havailable : ∀ c, circuitAvailable (lineNamed s n cfg) c = circuitAvailable s c := fun c => by
    have hsame : (modLine s n fun l => { l with applied := cfg, configRejected := false }).circuit c = s.circuit c := by simp
    rw [circuitAvailable_eq, circuitAvailable_eq, lineNamed, renameCircuits_circuit, hsame]
    split
    · obtain ⟨hdown, hresetting⟩ := (s.circuit c).renamed_down (isNamed (modLine s n fun l => { l with applied := cfg, configRejected := false }) c)
      simp only [ne_eq, hdown, hresetting]
    · rfl
  have hpath : (lineNamed s n cfg).path n = s.path n := by simp [lineNamed]
  rw [State.path_congr (recordingOnly_lineConfigured s n cfg).cc, lineMasked, if_pos h]
  cases hc : cfg.call.path[i]? with
  | none => refine ⟨?_, ?_, ?_⟩ <;> simp only [refreshMasks, modPath_eq, State.setPath_path, if_true, maskOf_getLsbD, hi, decide_true, Bool.true_and, hc]
  | some c =>
    refine ⟨?_, ?_, ?_⟩
    · simp only [refreshMasks, modPath_eq, State.setPath_path, if_true, maskOf_getLsbD, hi, decide_true, Bool.true_and]
    · simp only [refreshMasks, modPath_eq, State.setPath_path, if_true, maskOf_getLsbD, hi, decide_true, Bool.true_and,
        hc, havailable, circuitAvailable_eq]
    · simp only [refreshMasks, modPath_eq, State.setPath_path, if_true, maskOf_getLsbD, hi, decide_true, Bool.true_and, hc, hpath]

/-- The ports that hold the line have their levels where the line's level changed (R3, R99); else nothing of the Recording Allocator's moves. -/
theorem lineConfigured_levels :
    (cfg.recordLevel = (s.line n).applied.recordLevel → (lineConfigured s n cfg).ra = s.ra ∧ (lineConfigured s n cfg).eu = s.eu ∧
      (lineConfigured s n cfg).bi = s.bi) ∧
    (cfg.recordLevel ≠ (s.line n).applied.recordLevel → ∀ q ∈ portsHolding s n,
      ((lineConfigured s n cfg).port q).level = portLevel (lineConfigured s n cfg) q) := by
  obtain ⟨x, hx⟩ := lineMasked_ccOnly s n cfg
  refine ⟨fun h => ?_, fun h q hq => ?_⟩
  · rw [lineConfigured_eq, if_neg fun hc => hc.1 h.symm, hx]
    exact ⟨rfl, rfl, rfl⟩
  · have hports : portsHolding (lineMasked s n cfg) n = portsHolding s n := by
      have hhc : (lineMasked s n cfg).hc = s.hc := by rw [hx]; rfl
      simp only [portsHolding, hhc]
    have hra := recordingOnly_lineConfigured s n cfg
    rw [portLevel_congr hra.lc hra.hc hra.mx, lineConfigured_eq, hports,
      if_pos ⟨fun he => h he.symm, List.ne_nil_of_mem hq⟩]
    exact recomputePorts_level _ _ q hq

end Configured

end Sys2Proof.Machine

namespace Sys2Proof.Machine

/-! ## The enabled field of a committed line (R4) -/

section LineMoved

/-- Levels depend on what is applied to the lines, the handsets, the positions and the speakers. -/
theorem portLevel_of_applied {s t : State} (hl : ∀ m, (t.line m).applied = (s.line m).applied) (hhc : t.hc = s.hc) (hmx : t.mx = s.mx) :
    portLevel t = portLevel s := by
  have hpos : t.position = s.position := funext (State.position_congr hhc)
  have hhandset : t.handset = s.handset := funext (State.handset_congr hhc)
  have hspeaker : t.speaker = s.speaker := funext (State.speaker_congr hmx)
  funext q
  unfold portLevel handsetLevel speakerLevel
  simp only [hl, hpos, hhandset, hspeaker]

/-- The line's record may have changed, but neither what it names nor any other block but the events. -/
structure LineMoved (x u : State) (n : Nat) : Prop where
  others  : ∀ m, m ≠ n → u.line m = x.line m
  applied : ∀ m, (u.line m).applied = (x.line m).applied
  named   : ∀ c, isNamed u c = isNamed x c
  cc      : u.cc = x.cc
  ra      : u.ra = x.ra
  hc      : u.hc = x.hc
  mx      : u.mx = x.mx

theorem LineMoved.refl (x : State) (n : Nat) : LineMoved x x n := ⟨fun _ _ => rfl, fun _ => rfl, fun _ => rfl, rfl, rfl, rfl, rfl⟩

variable {x : State} {n : Nat}

theorem LineMoved.modLine (f : LineRec → LineRec) (happlied : (f (x.line n)).applied = (x.line n).applied)
    (hcopy : (f (x.line n)).callCopy = (x.line n).callCopy) (hkind : (x.line n).applied.call.kind ≠ .unset) :
    LineMoved x (Machine.modLine x n f) n where
  others m hm := by simp [hm]
  applied m := by
    by_cases hm : m = n
    · subst hm
      simp [happlied]
    · simp [hm]
  named c := by
    refine isNamed_modLine c (by rw [happlied]) hcopy fun hcold => hkind ?_
    rw [← happlied, hcold]
    rfl
  cc := by simp
  ra := by simp
  hc := by simp
  mx := by simp

theorem LineMoved.issue {u : State} (h : LineMoved x u n) (e : Event) : LineMoved x (Machine.issue u e) n where
  others m hm := by simpa using h.others m hm
  applied m := by simpa using h.applied m
  named c := (isNamed_congr (by simp) (by simp) c).trans (h.named c)
  cc := by simpa using h.cc
  ra := by simpa using h.ra
  hc := by simpa using h.hc
  mx := by simpa using h.mx

theorem lineMoved_setPending (b : Bool) (hkind : (x.line n).applied.call.kind ≠ .unset) : LineMoved x (setPending x n b) n :=
  .modLine _ rfl rfl hkind

/-- A line outside a call changes its state alone (R3, R19). -/
theorem lineMoved_changeState (new : LineState) (cause : StateCause) (hcopy : (x.line n).callCopy = none)
    (hkind : (x.line n).applied.call.kind ≠ .unset) : LineMoved x (changeState x n new cause) n := by
  by_cases h : (x.line n).state = new
  · rw [changeState_of_eq x n new cause h]
    exact .refl x n
  · have hmoved := LineMoved.modLine (x := x) (n := n) (fun l => { l with
      state := new, lastChange := x.frame, pendingAdmin := l.pendingAdmin && decide ((x.line n).state ≠ .clearing),
      setter := if new.keepsSetter then l.setter else none }) rfl rfl hkind
    simp only [changeState, if_neg h]
    refine LineMoved.issue ?_ _
    split
    · rw [dropCallCopy_of_none _ _ (by simp [hcopy])]
      exact hmoved
    · exact hmoved

/-! ### The branches of R4 -/

theorem changeEnabled_same (s : State) (n : Nat) (b : Bool) : changeEnabled s n b b = s := by cases b <;> rfl

theorem changeEnabled_clearing {old new : Bool} (h : (x.line n).state = .clearing) (hne : new ≠ old) :
    changeEnabled x n old new = setPending x n (decide (new = false)) := by
  cases old <;> cases new <;> simp_all [changeEnabled]

theorem changeEnabled_off (hc : (x.line n).state ≠ .clearing) (hi : (x.line n).state.inCall = false) :
    changeEnabled x n true false = changeState x n (.outOfService .admin) .request := by simp [changeEnabled, hc, hi]

theorem changeEnabled_forced (hi : (x.line n).state.inCall = true) : changeEnabled x n true false = setPending (forceRelease x n) n true := by
  have hc : (x.line n).state ≠ .clearing := fun h => by simp [h, LineState.inCall] at hi
  simp [changeEnabled, hc, hi]

theorem changeEnabled_on (h : (x.line n).state = .outOfService .admin) (hk : (x.line n).eff.kind ≠ .nailed) :
    changeEnabled x n false true = changeState x n .idle .request := by simp [changeEnabled, h, hk]

theorem changeEnabled_on_other (hc : (x.line n).state ≠ .clearing) (h : (x.line n).state ≠ .outOfService .admin) :
    changeEnabled x n false true = x := by simp [changeEnabled, hc, h]

/-- Where the line is neither forced off nor seized, the enabled field moves its record alone (R4). -/
theorem lineMoved_changeEnabled (old new : Bool) (hkind : (x.line n).applied.call.kind ≠ .unset)
    (h : new = old ∨ (x.line n).state = .clearing ∨ ((x.line n).state.inCall = false ∧ (x.line n).callCopy = none ∧
      (new = false ∨ (x.line n).applied.call.kind ≠ .nailed))) : LineMoved x (changeEnabled x n old new) n := by
  by_cases hne : new = old
  · rw [hne, changeEnabled_same]
    exact .refl x n
  by_cases hclearing : (x.line n).state = .clearing
  · rw [changeEnabled_clearing hclearing hne]
    exact lineMoved_setPending _ hkind
  obtain ⟨hcall, hcopy, hnew⟩ := (h.resolve_left hne).resolve_left hclearing
  cases new with
  | false =>
    have hold : old = true := by cases old <;> simp_all
    rw [hold, changeEnabled_off hclearing hcall]
    exact lineMoved_changeState _ _ hcopy hkind
  | true =>
    have hold : old = false := by cases old <;> simp_all
    have hk : (x.line n).eff.kind ≠ .nailed := by simpa [LineRec.eff, hcopy] using hnew
    rw [hold]
    by_cases hoos : (x.line n).state = .outOfService .admin
    · rw [changeEnabled_on hoos hk]
      exact lineMoved_changeState _ _ hcopy hkind
    · rw [changeEnabled_on_other hclearing hoos]
      exact .refl x n

theorem work_changeEnabled (s : State) (n : Nat) (old new : Bool) :
    Work s (changeEnabled s n old new) [.events, .alarms, .lc, .cc, .link, .hc, .ra, .um, .meter] := by
  have hpending : ∀ b, Work s (setPending s n b) [.events, .alarms, .lc, .cc, .link, .hc, .ra, .um, .meter] := fun b =>
    (work_setPending s n b).mono (by decide)
  have hstate : ∀ st c, Work s (changeState s n st c) [.events, .alarms, .lc, .cc, .link, .hc, .ra, .um, .meter] := fun st c =>
    (work_changeState s n st c).mono (by decide)
  have hforced : (s.line n).state.inCall = true →
      Work s (setPending (forceRelease s n) n true) [.events, .alarms, .lc, .cc, .link, .hc, .ra, .um, .meter] := fun h =>
    ((forceRelease_spec s n h).1.mono (by decide)).step (work_setPending _ n true)
  cases old <;> cases new
  case false.false => exact .refl s _
  case true.true => exact .refl s _
  case true.false =>
    by_cases hc : (s.line n).state = .clearing
    · rw [changeEnabled_clearing hc (by decide)]
      exact hpending _
    · cases hi : (s.line n).state.inCall with
      | true => rw [changeEnabled_forced hi]; exact hforced hi
      | false => rw [changeEnabled_off hc hi]; exact hstate _ _
  case false.true =>
    by_cases hc : (s.line n).state = .clearing
    · rw [changeEnabled_clearing hc (by decide)]
      exact hpending _
    · by_cases hoos : (s.line n).state = .outOfService .admin
      · by_cases hk : (s.line n).eff.kind = .nailed
        · have hseize : changeEnabled s n false true = seizeNailed s n .request .noPath := by simp [changeEnabled, hoos, hk]
          rw [hseize]
          exact (work_seizeNailed s n _ _).mono (by decide)
        · rw [changeEnabled_on hoos hk]
          exact hstate _ _
      · rw [changeEnabled_on_other hc hoos]
        exact .refl s _

/-- What a forced release did, seen from a state with the same calls. -/
theorem ForcedOff.of_eq {s x t : State} {n : Nat} (h : ForcedOff x t n) (hhc : x.hc = s.hc) (hum : x.um = s.um) (hframe : x.frame = s.frame)
    (hlines : ∀ m, m ≠ n → x.line m = s.line m)
    (hline : ((x.line n).participants, (x.line n).active, (x.line n).state) = ((s.line n).participants, (s.line n).active, (s.line n).state)) :
    ForcedOff s t n := by
  simp only [Prod.mk.injEq] at hline
  obtain ⟨hparticipants, hactive, hstate⟩ := hline
  exact {
    handsets := fun e he => h.handsets e (hparticipants ▸ he)
    others := hparticipants ▸ h.others.of_eq hhc
    circuit := fun c hc => h.circuit c (hactive.trans hc)
    alerts := fun hr => h.alerts (hstate.trans hr)
    measured := by
      obtain ⟨hnone, hupdates⟩ := h.measured
      rw [hstate, updatesAfter_congr n _ (State.context_congr hum n) (by rw [hum]) hframe] at hupdates
      obtain ⟨hus, henable, hformat⟩ := hupdates
      exact ⟨hnone, hus, by rw [henable, hum], by rw [hformat, hum]⟩
    lines := fun m hm => (h.lines m hm).trans (hlines m hm) }

end LineMoved

end Sys2Proof.Machine

namespace Sys2Proof.Machine

/-! ## A line commit that is accepted (R3, R4, R24, R28, R29) -/

section LineAccepted

variable {w t : State} {n : Nat} {cfg : LineConfig}

/-- Where the enabled field moved the line's record alone, what the commit left of the circuits, the masks and the levels (R3, R28, R29). -/
theorem lineApplied_moved (h : LineMoved (lineConfigured w n cfg) (applyLine w n cfg) n)
    (hlc : t.lc = (applyLine w n cfg).lc) (hcircuit : ∀ c, t.circuit c = (applyLine w n cfg).circuit c)
    (hpaths : ∀ m, t.path m = (applyLine w n cfg).path m) (hra : t.ra = (applyLine w n cfg).ra)
    (hhc : t.hc = (applyLine w n cfg).hc) (hmx : t.mx = (applyLine w n cfg).mx) (hsu : t.su.lineCount = (applyLine w n cfg).su.lineCount) :
    (∀ m, m ≠ n → t.line m = w.line m) ∧
    (∀ c, t.circuit c = if c ∈ (w.line n).applied.call.path ∨ c ∈ cfg.call.path then (w.circuit c).renamed (isNamed t c) else w.circuit c) ∧
    (∀ m, m ≠ n → t.path m = w.path m) ∧ (t.path n).lastUsed = (w.path n).lastUsed ∧
    ((w.line n).callCopy ≠ none → t.path n = w.path n) ∧
    ((w.line n).callCopy = none → ∀ i < 4,
      (t.path n).installed.getLsbD i = decide (i < cfg.call.path.length) ∧
      (t.path n).available.getLsbD i = (match cfg.call.path[i]? with
        | some c => decide ((w.circuit c).state ≠ .down ∧ (w.circuit c).state ≠ .resetting)
        | none => false) ∧
      (t.path n).operational.getLsbD i = (match cfg.call.path[i]? with
        | some c => if (w.line n).applied.call.path[i]? = some c then (w.path n).operational.getLsbD i else true
        | none => false)) ∧
    (if cfg.recordLevel = (w.line n).applied.recordLevel then t.ra = w.ra
     else ∀ q ∈ portsHolding w n, (t.port q).level = portLevel t q) := by
  have hpath : ∀ m, t.path m = (lineConfigured w n cfg).path m := fun m => (hpaths m).trans (State.path_congr h.cc m)
  have hnamed : ∀ c, isNamed t c = isNamed (lineConfigured w n cfg) c := fun c => (isNamed_congr (by rw [hlc]) hsu c).trans (h.named c)
  obtain ⟨hsame, hlevels⟩ := lineConfigured_levels w n cfg
  refine ⟨fun m hm => ?_, fun c => ?_, fun m hm => ?_, ?_, fun hc => ?_, fun hc i hi => ?_, ?_⟩
  · rw [State.line_congr hlc, h.others m hm, lineConfigured_line, if_neg hm]
  · rw [hcircuit, State.circuit_congr h.cc, hnamed, lineConfigured_circuit]
  · rw [hpath, lineConfigured_path_ne _ _ _ _ hm]
  · rw [hpath, lineConfigured_lastUsed]
  · rw [hpath, lineConfigured_path_callCopy _ _ _ hc]
  · rw [hpath]
    exact lineConfigured_masks w n cfg hc i hi
  · split
    · next hl => rw [hra, h.ra, (hsame hl).1]
    · next hl =>
      intro q hq
      have hlevel : portLevel t = portLevel (lineConfigured w n cfg) :=
        portLevel_of_applied (fun m => by rw [State.line_congr hlc, h.applied]) (hhc.trans h.hc) (hmx.trans h.mx)
      have hport : t.port q = (lineConfigured w n cfg).port q := by simp only [State.port, hra, h.ra]
      rw [hlevel, hport]
      exact hlevels hl q hq

/-- A level unchanged leaves the events until the line's own. -/
theorem lineConfigured_eventAt {new : LineState} {cause : StateCause} (hl : cfg.recordLevel = (w.line n).applied.recordLevel)
    (hne : (w.line n).state ≠ new) (hu : w.eu.unread ≤ 254) :
    EventAt (changeState (lineConfigured w n cfg) n new cause) w.eu.evtHead (.lineState n (w.line n).state new cause) w.frame := by
  obtain ⟨-, heu, -⟩ := (lineConfigured_levels w n cfg).1 hl
  obtain ⟨-, -, -, hframe, -⟩ := lineConfigured_rest w n cfg
  have hstate : ((lineConfigured w n cfg).line n).state = (w.line n).state := by simp [lineConfigured_line]
  have hevent := (changeState_event (lineConfigured w n cfg) n new cause (by rwa [hstate]) (by rwa [heu])).1
  rwa [heu, hframe, hstate] at hevent

/-- A line in a call that a commit disables is forced off (R4, R24). -/
theorem lineApplied_forced (b : State) (hin : (w.line n).state.inCall = true) (hold : (w.line n).applied.enabled = true) (hnew : cfg.enabled = false) :
    (applyLine w n cfg).line n =
      { clearingAfter { w.line n with applied := cfg, configRejected := false } (w.frame + 8000#48) w.frame with pendingAdmin := true } ∧
    ForcedOff w (settle b (applyLine w n cfg)) n := by
  obtain ⟨hhc, hum, -, hframe, -, -⟩ := lineConfigured_rest w n cfg
  have hline := lineConfigured_line w n cfg
  generalize hx : lineConfigured w n cfg = x at hhc hum hframe hline
  have hxn : x.line n = { w.line n with applied := cfg, configRejected := false } := by rw [hline, if_pos rfl]
  have hxin : (x.line n).state.inCall = true := by rw [hxn]; exact hin
  have happly : applyLine w n cfg = forcedPending x n .lineService := by
    rw [applyLine_eq, hx, hold, hnew, changeEnabled_forced hxin, forcedPending, if_pos rfl]
  obtain ⟨hwork, hfline, -⟩ := forcedPending_spec x n .lineService b [] .ok hxin
  refine ⟨by rw [happly, hfline, hxn, hframe]; simp, ?_⟩
  have hoff := (forceRelease_spec x n hxin).2.2
  have hcontext : (forceRelease x n).context n = none := by
    obtain ⟨v, hv, -⟩ := forceRelease_eq x n
    rw [hv]
    exact (enterClearing_rest v n _ _ _).1
  have hxum := (forceRelease_spec x n hxin).1.call.um
  simp only [Prod.mk.injEq] at hxum
  have happly' : applyLine w n cfg = setPending (forceRelease x n) n true := by rw [happly, forcedPending, if_pos rfl]
  have hpending : (setPending (forceRelease x n) n true).context n = none := by simp [setPending, hcontext]
  rw [happly']
  refine ForcedOff.of_eq (hoff _ ?_ (fun c => ?_) (fun p => ?_) (settle_context_none _ _ n hpending) ?_ ?_ ?_ fun m hm => ?_)
    hhc hum hframe (fun m hm => by rw [hline, if_neg hm]) (by rw [hxn])
  · simp [setPending]
  · simp [setPending]
  · simp [setPending]
  · simp [setPending]
  · simp [setPending, hxum]
  · simp [setPending, hxum]
  · rw [settle_line, setPending_line, if_neg hm]

end LineAccepted

end Sys2Proof.Machine

namespace Sys2Proof.Machine

section LineCommitted

variable {n : Fin 256} {data : Word} {be : ByteEnables} {s : State} {cfg : LineConfig}

/-- A commit that parses, up to the work and the blocks it touches (R3, R126, R130). -/
theorem lineCommit_accepted (hc : s.su.part.copying = true) (htaken : Taken s (lineConfigOffset n) be)
    (hparse : parseLine s.su.lineCount n (writtenCopy (mergeCopy s (lineConfigOffset n) data be) (lineConfigOffset n) 16) = some cfg) :
    exec (.lineCommit n data be) s = .next (settle s (applyLine (merged s (lineConfigOffset n) data be) n cfg)) ∧
    Work (merged s (lineConfigOffset n) data be) (applyLine (merged s (lineConfigOffset n) data be) n cfg)
      [.events, .alarms, .lc, .cc, .link, .hc, .ra, .um, .meter] := by
  have hwork : Work (merged s (lineConfigOffset n) data be) (applyLine (merged s (lineConfigOffset n) data be) n cfg)
      [.events, .alarms, .lc, .cc, .link, .hc, .ra, .um, .meter] :=
    ((work_lineConfigured _ _ _).mono (by decide)).step (work_changeEnabled _ _ _ _)
  have hcommit : commitLine (merged s (lineConfigOffset n) data be) n = applyLine (merged s (lineConfigOffset n) data be) n cfg := by
    unfold commitLine
    rw [merged_writtenCopy, merged_su, hparse]
  rw [exec_lineCommit n hc htaken, hcommit, done_merged hwork htaken.none]
  exact ⟨rfl, hwork⟩

/-- What a valid commit leaves of the line itself, by its state before and its enabled field (R4, R24). -/
theorem lineCommit_record {w : State} {k : Nat} (base : LineRec) (b : State) (he : w.eu.evtHead < 256)
    (hbase : base = { w.line k with applied := cfg, configRejected := false }) :
    let t := settle b (applyLine w k cfg)
    (cfg.enabled = (w.line k).applied.enabled → t.line k = base) ∧
    ((w.line k).applied.enabled = true → cfg.enabled = false →
      ((w.line k).state = .outOfService .admin → t.line k = base) ∧
      ((w.line k).state = .idle ∨ (w.line k).state = .outOfService .noPath →
        t.line k = { base with state := .outOfService .admin, lastChange := w.frame, setter := none, callCopy := none } ∧
        (cfg.recordLevel = (w.line k).applied.recordLevel → w.eu.unread ≤ 254 →
          EventAt t w.eu.evtHead (.lineState k (w.line k).state (.outOfService .admin) .request) w.frame)) ∧
      ((w.line k).state.inCall = true →
        t.line k = { clearingAfter base (w.frame + 8000#48) w.frame with pendingAdmin := true } ∧ ForcedOff w t k)) ∧
    ((w.line k).state = .outOfService .admin → (w.line k).callCopy = none → (w.line k).applied.enabled = false →
      cfg.enabled = true → cfg.call.kind ≠ .nailed →
      t.line k = { base with state := .idle, lastChange := w.frame, setter := none } ∧
      (cfg.recordLevel = (w.line k).applied.recordLevel → w.eu.unread ≤ 254 →
        EventAt t w.eu.evtHead (.lineState k (.outOfService .admin) .idle .request) w.frame)) ∧
    ((w.line k).state = .clearing → cfg.enabled ≠ (w.line k).applied.enabled →
      t.line k = { base with pendingAdmin := decide (cfg.enabled = false) }) := by
  intro t
  have ht : ∀ m, t.line m = (applyLine w k cfg).line m := fun m => settle_line _ _ m
  have hx : (lineConfigured w k cfg).line k = base := by rw [lineConfigured_line, if_pos rfl, hbase]
  have hstate : ((lineConfigured w k cfg).line k).state = (w.line k).state := by rw [hx, hbase]
  have hcopy : ((lineConfigured w k cfg).line k).callCopy = (w.line k).callCopy := by rw [hx, hbase]
  obtain ⟨-, -, -, hframe, -⟩ := lineConfigured_rest w k cfg
  refine ⟨fun hen => ?_, fun hold hnew => ⟨fun hs => ?_, fun hs => ?_, fun hs => ?_⟩, fun hs hcc hold hnew hk => ?_, fun hs hne => ?_⟩
  · rw [ht, applyLine_eq, ← hen, changeEnabled_same, hx]
  · rw [ht, applyLine_eq, hold, hnew, changeEnabled_off (by simp [hstate, hs]) (by simp [hstate, hs, LineState.inCall]),
      changeState_of_eq _ _ _ _ (hstate.trans hs), hx]
  · have happly : applyLine w k cfg = changeState (lineConfigured w k cfg) k (.outOfService .admin) .request := by
      rw [applyLine_eq, hold, hnew]
      rcases hs with hs | hs <;>
        exact changeEnabled_off (by simp [hstate, hs]) (by simp [hstate, hs, LineState.inCall])
    have hne : (w.line k).state ≠ .outOfService .admin := by rcases hs with hs | hs <;> simp [hs]
    have hclearing : (w.line k).state ≠ .clearing := by rcases hs with hs | hs <;> simp [hs]
    refine ⟨?_, fun hl hu => ?_⟩
    · rw [ht, happly, changeState_line, if_pos ⟨rfl, by rwa [hstate]⟩, hx, hframe]
      simp [LineRec.changedTo, LineState.keepsSetter, LineState.atRest, hbase, hclearing]
    · have hevent := lineConfigured_eventAt (cause := .request) hl hne hu
      rw [← happly] at hevent
      exact hevent.settle he b
  · obtain ⟨hline, hforced⟩ := lineApplied_forced b hs hold hnew
    exact ⟨by rw [ht, hline, hbase], hforced⟩
  · have hkind : ((lineConfigured w k cfg).line k).eff.kind ≠ .nailed := by
      simpa [LineRec.eff, hx, hbase, hcc] using hk
    have happly : applyLine w k cfg = changeState (lineConfigured w k cfg) k .idle .request := by
      rw [applyLine_eq, hold, hnew, changeEnabled_on (hstate.trans hs) hkind]
    refine ⟨?_, fun hl hu => ?_⟩
    · rw [ht, happly, changeState_line, if_pos ⟨rfl, by simp [hstate, hs]⟩, hx, hframe]
      simp [LineRec.changedTo, LineState.keepsSetter, LineState.atRest, hbase, hs, hcc]
    · have hevent := lineConfigured_eventAt (new := .idle) (cause := .request) hl (by simp [hs]) hu
      rw [← happly, hs] at hevent
      exact hevent.settle he b
  · rw [ht, applyLine_eq, changeEnabled_clearing (hstate.trans hs) hne, setPending_line, if_pos rfl, hx]

end LineCommitted

end Sys2Proof.Machine

namespace Sys2Proof.Machine

/-! ## A rejected commit writes the entry's status first (R2, R62, R130) -/

section StatusFirst

theorem writesAt_cons (off : Nat) (w : Word) (ws : List Word) : writesAt off (w :: ws) = (off, w) :: writesAt (off + 1) ws := by
  simp only [writesAt, List.length_cons, List.range_succ_eq_map, List.map_cons, List.map_map, List.getD_cons_zero, Nat.add_zero, List.cons.injEq,
    true_and]
  refine List.map_congr_left fun i _ => ?_
  simp only [Function.comp_apply, List.getD_cons_succ, Prod.mk.injEq, and_true]
  omega

variable {b s : State}

theorem changedWords_mem (off : Nat) (as bs : List Word) : ∀ e ∈ changedWords b s off as bs, e ∈ writesAt off bs := by
  induction as generalizing off bs with
  | nil => simp [changedWords]
  | cons a as ih =>
    cases bs with
    | nil => simp [changedWords]
    | cons c bs =>
      intro e he
      rw [writesAt_cons]
      rw [changedWords, List.mem_append] at he
      rcases he with he | he
      · have heq : e = (off, c) := by
          by_cases hkeep : (if partWrote s off = partWrote b off then a else latestWord s off) = c
          · simp [hkeep] at he
          · simpa [hkeep] using he
        simp [heq]
      · exact .tail _ (ih _ _ e he)

/-- Words that the part has all written, over a memory that showed them before, need no writing. -/
theorem changedWords_written (off : Nat) (as bs : List Word) (hw : ∀ i < bs.length, partWrote s (off + i) = some (bs.getD i 0#32))
    (hshown : ∀ i < as.length, latestWord b (off + i) = as.getD i 0#32) : changedWords b s off as bs = [] := by
  induction as generalizing off bs with
  | nil => simp [changedWords]
  | cons a as ih =>
    cases bs with
    | nil => simp [changedWords]
    | cons c bs =>
      have hc : partWrote s off = some c := hw 0 (by simp)
      have ha : latestWord b off = a := hshown 0 (by simp)
      have hlatest : ∀ x : State, partWrote x off = some c → latestWord x off = c := fun x hx => by
        have : latestWord x off = (partWrote x off).getD (wordAt x.mem (sramAddress x off)) := rfl
        rw [this, hx, Option.getD_some]
      have hkeep : (if partWrote s off = partWrote b off then a else latestWord s off) = c := by
        by_cases hsame : partWrote s off = partWrote b off
        · rw [if_pos hsame, ← ha, hlatest b (hsame ▸ hc)]
        · rw [if_neg hsame, hlatest s hc]
      rw [changedWords, if_pos hkeep, List.nil_append]
      exact ih (off + 1) bs (fun i hi => by rw [Nat.add_right_comm, Nat.add_assoc]; exact hw (i + 1) (by simpa using hi))
        (fun i hi => by rw [Nat.add_right_comm, Nat.add_assoc]; exact hshown (i + 1) (by simpa using hi))

theorem changedWords_kept (off : Nat) (as : List Word) (h : ∀ i < as.length, partWrote s (off + i) = partWrote b (off + i)) :
    changedWords b s off as as = [] := by
  induction as generalizing off with
  | nil => rfl
  | cons a as ih =>
    have h0 : partWrote s off = partWrote b off := h 0 (by simp)
    rw [changedWords, if_pos h0, if_pos rfl, List.nil_append]
    exact ih (off + 1) fun i hi => by rw [Nat.add_right_comm, Nat.add_assoc]; exact h (i + 1) (by simpa using hi)

variable {count : Nat} {offset : Nat → Nat} {words : State → Nat → List Word} {listed : State → List Nat}

theorem mirrorChanges_none (h : ∀ i < count, changedWords b s (offset i) (words b i) (words s i) = []) :
    mirrorChanges count offset words listed b s = [] := by
  refine List.flatMap_eq_nil_iff.mpr fun i hi => h i ?_
  simpa using (List.mem_filter.mp hi).2

theorem mirrorChanges_one {k : Nat} (h : ∀ i < count, i ≠ k → changedWords b s (offset i) (words b i) (words s i) = []) :
    ∀ e ∈ mirrorChanges count offset words listed b s, e ∈ changedWords b s (offset k) (words b k) (words s k) := by
  intro e he
  obtain ⟨i, hi, he⟩ := List.mem_flatMap.mp he
  by_cases hik : i = k
  · rwa [hik] at he
  · rw [h i (by simpa using (List.mem_filter.mp hi).2) hik] at he
    simp at he

/-- What the part wrote elsewhere is untouched by writes at one entry and one event. -/
theorem partWrote_elsewhere {off k head : Nat} {ws ev : List Word} (hw : writesOf s = writesOf b ++ writesAt off ws ++ writesAt (eventOffset head) ev)
    (hev : ev.length = 8) (hhead : head < 256) (hm : IsMirror k) (hk : ¬(off ≤ k ∧ k < off + ws.length)) : partWrote s k = partWrote b k := by
  have hentry : youngest (writesAt off ws) k = none := youngest_none _ _ fun e he heq => hk (heq ▸ writesAt_offsets off ws e he)
  have hevent : youngest (writesAt (eventOffset head) ev) k = none := youngest_none _ _ fun e he heq => by
    obtain ⟨hlow, hhigh⟩ := writesAt_offsets _ _ e he
    rw [heq, hev] at hhigh
    rw [heq] at hlow
    simp only [eventOffset] at hlow hhigh
    rcases hm with hm | hm | hm <;> omega
  show youngest (writesOf s) k = youngest (writesOf b) k
  rw [hw, youngest_append, youngest_append, hentry, hevent]
  rfl

/-- The entry's own words are as they have just been written. -/
theorem partWrote_entry {off i head : Nat} {ws ev : List Word} (hw : writesOf s = writesOf b ++ writesAt off ws ++ writesAt (eventOffset head) ev)
    (hev : ev.length = 8) (hhead : head < 256) (hm : IsMirror (off + i)) (hi : i < ws.length) :
    partWrote s (off + i) = some (ws.getD i 0#32) := by
  have hevent : youngest (writesAt (eventOffset head) ev) (off + i) = none := youngest_none _ _ fun e he heq => by
    obtain ⟨hlow, hhigh⟩ := writesAt_offsets _ _ e he
    rw [heq, hev] at hhigh
    rw [heq] at hlow
    simp only [eventOffset] at hlow hhigh
    rcases hm with hm | hm | hm <;> omega
  show youngest (writesOf s) (off + i) = _
  rw [hw, youngest_append, youngest_append, hevent, youngest_writesAt off ws i hi]
  rfl

/-- The writes of the end of a command, by the state whose mirrors they show. -/
theorem settle_writes_eq (b s : State) : writesOf (settle b s) = writesOf s ++ allMirrorChanges b (followAllUnrecorded (startSending (lookAgain s))) := by
  simp only [settle]
  show writesOf (askPort (endUpdateIfDone _)) = _
  rw [askPort_writes, endUpdateIfDone_writes, postMirrors_writes]
  simp [writesOf]

/-- The end of a command before its mirrors are posted. -/
def beforeMirrors (s : State) : State := followAllUnrecorded (startSending (lookAgain s))

theorem beforeMirrors_rest (s : State) : (beforeMirrors s).lc = s.lc ∧ (beforeMirrors s).hc = s.hc ∧ (beforeMirrors s).mx = s.mx ∧
    (beforeMirrors s).ra = s.ra ∧ (beforeMirrors s).cc.paths = s.cc.paths ∧ writesOf (beforeMirrors s) = writesOf s := by
  simp [beforeMirrors, writesOf]

/-- A rejected line commit: the whole status, the event, and at most the same words again (R2, R130). -/
theorem line_statusWrittenFirst {s u : State} {n : Nat} {e : Event} (hn : n < 256) (hhead : s.eu.evtHead < 256)
    (hw : writesOf u = writesOf s ++ writesAt (lineStatusOffset n) (lineStatusWords u n) ++ writesAt (eventOffset s.eu.evtHead) (e.words s.frame))
    (hline : ∀ m, m ≠ n → u.line m = s.line m) (halerts : u.alertList = s.alertList) (hpaths : u.cc.paths = s.cc.paths)
    (hhc : u.hc = s.hc) (hmx : u.mx = s.mx) (hra : u.ra = s.ra) :
    StatusWrittenFirst s (settle s u) (lineStatusOffset n) (lineStatusWords s n) (lineStatusWords (settle s u) n) e := by
  have hwords : lineStatusWords (settle s u) = lineStatusWords u := lineStatusWords_congr (settle_lc s u) (settle_cc_paths s u)
  obtain ⟨hzlc, hzhc, hzmx, hzra, hzpaths, hzw⟩ := beforeMirrors_rest u
  have hz := settle_writes_eq s u
  change _ = _ ++ allMirrorChanges s (beforeMirrors u) at hz
  generalize beforeMirrors u = z at hz hzlc hzhc hzmx hzra hzpaths hzw
  rw [hw] at hzw
  have hzwords : lineStatusWords z = lineStatusWords u := lineStatusWords_congr hzlc hzpaths
  have hother : ∀ m, m ≠ n → lineStatusWords u m = lineStatusWords s m := fun m hm => by
    simp only [lineStatusWords, hline m hm, State.path, hpaths]
  have hpositions : positionStatusWords z = positionStatusWords s := by
    have hpos : z.position = s.position := funext (State.position_congr (hzhc.trans hhc))
    have hhandset : z.handset = s.handset := funext (State.handset_congr (hzhc.trans hhc))
    have hspeaker : z.speaker = s.speaker := funext (State.speaker_congr (hzmx.trans hmx))
    have hlists : z.alertList = s.alertList := (funext (State.alertList_congr hzlc)).trans halerts
    funext p
    unfold positionStatusWords
    rw [hpos, hhandset, hspeaker, hlists]
  have hrecorders : recorderStatusWords z = recorderStatusWords s := recorderStatusWords_congr (hzra.trans hra)
  have hlen : ∀ x m, (lineStatusWords x m).length = 8 := fun x m => by simp [lineStatusWords]
  have helsewhere : ∀ k, IsMirror k → ¬(lineStatusOffset n ≤ k ∧ k < lineStatusOffset n + 8) → partWrote z k = partWrote s k := fun k hk ho =>
    partWrote_elsewhere hzw (eventWords_length _ _) hhead hk (by rwa [hlen])
  have hlines : ∀ i < 256, i ≠ n → changedWords s z (lineStatusOffset i) (lineStatusWords s i) (lineStatusWords z i) = [] := fun i hi hne => by
    rw [hzwords, hother i hne]
    refine changedWords_kept _ _ fun j hj => helsewhere _ ?_ ?_ <;> rw [hlen] at hj <;> simp only [lineStatusOffset, IsMirror] <;> omega
  have hall : allMirrorChanges s z = mirrorChanges 256 lineStatusOffset lineStatusWords listedLines s z := by
    rw [allMirrorChanges, mirrorChanges_none (offset := positionStatusOffset) fun p hp => ?_,
      mirrorChanges_none (offset := recorderStatusOffset) fun r hr => ?_, List.append_nil, List.append_nil]
    · rw [hrecorders]
      refine changedWords_kept _ _ fun j hj => helsewhere _ ?_ ?_ <;> simp [recorderStatusWords] at hj <;>
        simp only [recorderStatusOffset, lineStatusOffset, IsMirror] <;> omega
    · rw [hpositions]
      refine changedWords_kept _ _ fun j hj => helsewhere _ ?_ ?_ <;> simp [positionStatusWords, handsetWords] at hj <;>
        simp only [positionStatusOffset, lineStatusOffset, IsMirror] <;> omega
  refine ⟨allMirrorChanges s z, by rw [hz, hw, hwords], fun w hwm => ?_, fun hshown => ?_⟩
  · rw [hall] at hwm
    rw [hwords, ← hzwords]
    exact changedWords_mem _ _ _ w (mirrorChanges_one hlines w hwm)
  · rw [hall]
    refine mirrorChanges_none fun i hi => ?_
    by_cases hin : i = n
    · rw [hin, hzwords]
      refine changedWords_written _ _ _ (fun j hj => ?_) hshown
      exact partWrote_entry hzw (eventWords_length _ _) hhead (by rw [hlen] at hj; simp only [lineStatusOffset, IsMirror]; omega) hj
    · exact hlines i hi hin

end StatusFirst

end Sys2Proof.Machine

namespace Sys2Proof.Machine

section LineRejected

/-- Mirror words join the queue: nothing else changes (R137). -/
theorem work_postAll {s : State} {ws : List (Nat × Word)} (h : ∀ e ∈ ws, IsMirror e.1) : Work s (postAll s ws) [] := by
  have hlatest : ∀ off, ¬IsMirror off → latestWord (postAll s ws) off = latestWord s off := fun off ho =>
    latestWord_postAll s ws off fun e he heq => ho (heq ▸ h e he)
  refine .of_call ⟨rfl, rfl, rfl, rfl, rfl, rfl, rfl, rfl, rfl, rfl, fun e => ⟨e, fun off ho => hlatest off fun hm => ho (isMirror_owned off hm)⟩,
    fun h => ⟨Nat.le_refl _, h⟩⟩ (fun x e f k => ⟨k.entry, k.head, k.read, k.unread, fun i hi => ?_⟩) (by simp [Same])
  rw [← k.event i hi]
  have hentry := k.entry
  refine hlatest _ fun hm => ?_
  simp only [IsMirror, eventOffset] at hm
  omega

theorem rejectCommit_of_carrying {s : State} (ws : List (Nat × Word)) (what : Rejected) (h : s.su.part ≠ .loading) :
    rejectCommit s ws what = issue (postAll s ws) (.configReject what) := rejectEntry_of_carrying what h

/-- A commit of a line that is rejected: its flag, its status and the event (R2, R130). -/
theorem work_rejectCommit {s : State} {ws : List (Nat × Word)} (what : Rejected) (h : s.su.part ≠ .loading) (hws : ∀ e ∈ ws, IsMirror e.1) :
    Work s (rejectCommit s ws what) [.events] := by
  rw [rejectCommit_of_carrying ws what h]
  exact ((work_postAll hws).mono (by decide)).step (work_issue _ _)

variable {n : Fin 256} {data : Word} {be : ByteEnables} {s : State}

/-- The line whose entry is rejected. -/
def lineRejected (s : State) (n : Nat) : State := modLine s n fun l => { l with configRejected := true }

theorem commitLine_none {w : State} {k : Nat} (h : parseLine w.su.lineCount k (writtenCopy w (lineConfigOffset k) 16) = none) :
    commitLine w k = rejectCommit (lineRejected w k) (writesAt (lineStatusOffset k) (lineStatusWords (lineRejected w k) k)) (.line k) := by
  unfold commitLine
  rw [h]
  rfl

/-- What a rejected commit leaves: the flag, the whole status and the event (R2, R130). -/
theorem lineRejected_spec {w : State} {k : Nat} (hk : k < 256) (hpart : w.su.part ≠ .loading) (hu : w.eu.unread ≤ 254) :
    let u := rejectCommit (lineRejected w k) (writesAt (lineStatusOffset k) (lineStatusWords (lineRejected w k) k)) (.line k)
    Work w u [.events, .lc] ∧ u.line k = { w.line k with configRejected := true } ∧
    ((∀ m, m ≠ k → u.line m = w.line m) ∧ u.alertList = w.alertList ∧ u.cc.paths = w.cc.paths ∧ u.hc = w.hc ∧ u.mx = w.mx ∧ u.ra = w.ra ∧
      writesOf u = writesOf w ++ writesAt (lineStatusOffset k) (lineStatusWords u k) ++
        writesAt (eventOffset w.eu.evtHead) ((Event.configReject (.line k)).words w.frame)) ∧
    EventAt u w.eu.evtHead (.configReject (.line k)) w.frame := by
  intro u
  have hx : lineRejected w k = modLine w k fun l => { l with configRejected := true } := rfl
  have hsu : (lineRejected w k).su = w.su := by simp [hx]
  have heu : (lineRejected w k).eu = w.eu := by simp [hx]
  have hframe : (lineRejected w k).frame = w.frame := by simp [hx]
  have hbi : writesOf (lineRejected w k) = writesOf w := by simp [writesOf, hx]
  have hpart' : (lineRejected w k).su.part ≠ .loading := by rwa [hsu]
  have hu' : u = issue (postAll (lineRejected w k) (writesAt (lineStatusOffset k) (lineStatusWords (lineRejected w k) k))) (.configReject (.line k)) :=
    rejectCommit_of_carrying _ _ hpart'
  have hlc : u.lc = (lineRejected w k).lc := by rw [hu']; simp
  have hcc : u.cc = (lineRejected w k).cc := by rw [hu']; simp
  have hwords : lineStatusWords u = lineStatusWords (lineRejected w k) := lineStatusWords_congr hlc (by rw [hcc])
  have hmirror : ∀ e ∈ writesAt (lineStatusOffset k) (lineStatusWords (lineRejected w k) k), IsMirror e.1 := fun e hmem => by
    have hb := writesAt_offsets _ _ e hmem
    simp only [lineStatusOffset, lineStatusWords, List.length_cons, List.length_nil] at hb
    exact .inl (by omega)
  refine ⟨(((work_modLine w k _).mono (by decide)).step (work_rejectCommit (.line k) hpart' hmirror)), ?_,
    ⟨fun m hm => ?_, funext fun p => ?_, ?_, ?_, ?_, ?_, ?_⟩, ?_⟩
  · rw [State.line_congr hlc]
    simp [hx]
  · rw [State.line_congr hlc]
    simp [hx, hm]
  · rw [State.alertList_congr hlc]
    simp [hx]
  · rw [hcc]
    simp [hx]
  · rw [hu']
    simp [hx]
  · rw [hu']
    simp [hx]
  · rw [hu']
    simp [hx]
  · rw [hwords]
    have hwrites := rejectCommit_writes (lineRejected w k) (writesAt (lineStatusOffset k) (lineStatusWords (lineRejected w k) k)) (.line k)
    rwa [if_pos (by rw [heu]; exact hu), heu, hframe, hbi] at hwrites
  · have hevent := issue_eventAt (postAll (lineRejected w k) (writesAt (lineStatusOffset k) (lineStatusWords (lineRejected w k) k)))
      (.configReject (.line k)) (by rw [postAll_eu, heu]; exact hu)
    rwa [← hu', postAll_eu, postAll_frame, heu, hframe] at hevent

/-- The circuit of an entry follows its naming, as a commit leaves it (R28). -/
theorem CircuitRec.renamed_eq_ite (r : CircuitRec) (c : Prop) [Decidable c] (x : Bool) [Decidable (c ∧ (r.state = .idle ∨ r.state = .uninstalled))] :
    (if c then r.renamed x else r) =
      if c ∧ (r.state = .idle ∨ r.state = .uninstalled) then { r with state := if x then .idle else .uninstalled } else r := by
  by_cases hc : c
  · by_cases hr : r.state = .idle ∨ r.state = .uninstalled
    · rw [if_pos hc, if_pos ⟨hc, hr⟩, CircuitRec.renamed, if_pos hr]
    · rw [if_pos hc, if_neg fun h => hr h.2, CircuitRec.renamed, if_neg hr]
  · rw [if_neg hc, if_neg fun h => hc h.1]

end LineRejected

/-- Settles O16: a valid entry by `lineConfigured` and then its enabled field; an invalid one by its status and the event. -/
theorem lineCommitApplies : Obligations.LineCommitApplies := by
  unfold Obligations.LineCommitApplies
  intro n data be s ws hc htaken he hws
  have hcarrying := notLoading_of_copying hc
  refine ⟨fun cfg base hparse hbase => ?_, fun hparse hu => ?_⟩
  · obtain ⟨hexec, hwork⟩ := lineCommit_accepted hc htaken (hws ▸ hparse)
    obtain ⟨hwrote, hcopied, hleaves⟩ := wrote_settle hwork he s
    have hx := lineConfigured_line (merged s (lineConfigOffset n) data be) n cfg
    have hkept := (configKept_changeEnabled n (s.line n).applied.enabled cfg.enabled
      (.refl (lineConfigured (merged s (lineConfigOffset n) data be) n cfg))).line
    have happly : applyLine (merged s (lineConfigOffset n) data be) n cfg = changeEnabled (lineConfigured (merged s (lineConfigOffset n) data be) n cfg)
      n (s.line n).applied.enabled cfg.enabled := rfl
    obtain ⟨hsame, hoff, hon, hclearing⟩ := lineCommit_record (w := merged s (lineConfigOffset n) data be) base s he hbase
    rw [← happly] at hkept
    have happlied : ∀ m, ((settle s (applyLine (merged s (lineConfigOffset n) data be) n cfg)).line m).applied =
        if m = n.val then cfg else (s.line m).applied := fun m => by
      rw [settle_line, (hkept m).1, hx]
      split <;> rfl
    refine ⟨_, hexec, by rw [happlied, if_pos rfl], by rw [settle_line, (hkept n).2, hx, if_pos rfl],
      fun m hm => by rw [happlied, if_neg hm], hsame, fun h => ?_,
      fun hold hnew => ⟨(hoff hold hnew).1, (hoff hold hnew).2.1, fun hin => ?_⟩, hon, hclearing, hwrote, hcopied, hleaves.mono (by decide)⟩
    rotate_left
    · obtain ⟨hline, hforced⟩ := (hoff hold hnew).2.2 hin
      exact ⟨hline, hforced.of_eq rfl rfl rfl (fun _ _ => rfl) rfl⟩
    have hmoved : LineMoved (lineConfigured (merged s (lineConfigOffset n) data be) n cfg) (applyLine (merged s (lineConfigOffset n) data be) n cfg) n :=
      lineMoved_changeEnabled _ _ (by rw [hx, if_pos rfl]; exact parseLine_kind (hws ▸ hparse)) (by rw [hx, if_pos rfl]; exact h)
    obtain ⟨hlines, hcircuits, hpaths, hused, hcopy, hmasks, hlevels⟩ := lineApplied_moved (t := settle s (applyLine (merged s (lineConfigOffset n) data be) n cfg))
      hmoved (settle_lc _ _) (settle_circuit _ _) (settle_path _ _) (settle_ra _ _) (settle_hc _ _) (settle_mx _ _) (by rw [settle_su])
    refine ⟨hlines, fun c => ?_, hpaths, hused, hcopy, hmasks, hlevels⟩
    exact (hcircuits c).trans (CircuitRec.renamed_eq_ite _ _ _)
  · have hcommit := commitLine_none (w := merged s (lineConfigOffset n) data be) (k := n) (hws ▸ hparse)
    have hexec := exec_lineCommit (data := data) n hc htaken
    obtain ⟨hwork, hlines, hwrites, hevent⟩ := lineRejected_spec (w := merged s (lineConfigOffset n) data be) n.isLt hcarrying hu
    obtain ⟨hother, hlists, hpaths, hhc, hmx, hra, hwords⟩ := hwrites
    rw [← hcommit] at hwork hlines hevent hother hlists hpaths hhc hmx hra hwords
    rw [done_merged hwork htaken.none] at hexec
    obtain ⟨hwrote, hcopied, hleaves⟩ := wrote_settle hwork he s
    refine ⟨_, hexec, (settle_line _ _ _).trans hlines, fun m hm => (settle_line _ _ m).trans (hother m hm), hevent.settle he s,
      line_statusWrittenFirst n.isLt he hwords hother hlists hpaths hhc hmx hra, hwrote, hcopied, hleaves.mono (by decide)⟩

end Sys2Proof.Machine

namespace Sys2Proof.Machine

/-! ## Participant modes, and lines pushed on a hold stack (R8, R53) -/

section Modes

/-- A request that works on handsets' lines keeps circuits, the meter, recording, the mixer and the alert lists. -/
structure ModesOnly (s t : State) : Prop where
  cc     : t.cc = s.cc
  um     : t.um = s.um
  ra     : t.ra = s.ra
  mx     : t.mx = s.mx
  su     : t.su = s.su
  frame  : t.frame = s.frame
  alerts : t.lc.alerts = s.lc.alerts
  keys   : t.lc.keys = s.lc.keys

theorem ModesOnly.refl (s : State) : ModesOnly s s := ⟨rfl, rfl, rfl, rfl, rfl, rfl, rfl, rfl⟩

theorem ModesOnly.trans {a b c : State} (h : ModesOnly a b) (k : ModesOnly b c) : ModesOnly a c :=
  ⟨k.cc.trans h.cc, k.um.trans h.um, k.ra.trans h.ra, k.mx.trans h.mx, k.su.trans h.su, k.frame.trans h.frame, k.alerts.trans h.alerts,
    k.keys.trans h.keys⟩

variable (s : State)

theorem modesOnly_modLine (n : Nat) (f : LineRec → LineRec) : ModesOnly s (modLine s n f) := by constructor <;> simp

theorem modesOnly_modHandset (p : Party) (f : HandsetRec → HandsetRec) : ModesOnly s (modHandset s p f) := by constructor <;> simp

theorem modesOnly_issue (e : Event) : ModesOnly s (issue s e) := by constructor <;> simp

/-- A change of a line within its call (R8, R19). -/
theorem modesOnly_changeState (n : Nat) (new : LineState) (cause : StateCause) (h : new.atRest = false) :
    ModesOnly s (changeState s n new cause) := by
  obtain ⟨-, hra, hum, hmx, hsu, hframe, hkeys, -, halerts⟩ := changeState_rest s n new cause
  exact ⟨changeState_cc s n new cause (.inl h), hum, hra, hmx, hsu, hframe, halerts, hkeys⟩

/-- A line's record once its participants' modes have decided between CONNECTED and HELD (R8). -/
def LineRec.moded (l : LineRec) (now : Frame) : LineRec :=
  if l.state = .connected ∧ l.eff.kind ≠ .nailed ∧ allHeld l = true then l.changedTo .held now
  else if l.state = .held ∧ l.participants.any (fun e => decide (e.mode = .active)) = true then l.changedTo .connected now else l

/-- A mode set for one handset. -/
def LineRec.withMode (l : LineRec) (p : Party) (m : Mode) : LineRec :=
  { l with participants := l.participants.map fun e => if e.party = p then { e with mode := m } else e }

theorem LineRec.moded_participants (l : LineRec) (now : Frame) : (l.moded now).participants = l.participants := by
  unfold LineRec.moded
  (repeat' split) <;> rfl

theorem LineRec.moded_eff (l : LineRec) (now : Frame) : (l.moded now).eff = l.eff := by
  unfold LineRec.moded
  (repeat' split) <;> rfl

/-- Modes move a line between CONNECTED and HELD alone (R8). -/
theorem LineRec.moded_of_ne (l : LineRec) (now : Frame) (h1 : l.state ≠ .connected) (h2 : l.state ≠ .held) : l.moded now = l := by
  rw [LineRec.moded, if_neg fun h => h1 h.1, if_neg fun h => h2 h.1]

theorem modesOnly_applyModes (n : Nat) : ModesOnly s (applyModes s n) := by
  unfold applyModes
  dsimp only
  (repeat' split)
  · exact modesOnly_changeState s n _ _ rfl
  · exact .refl s
  · exact modesOnly_changeState s n _ _ rfl
  · exact .refl s
  · exact .refl s

@[simp] theorem applyModes_hc (n : Nat) : (applyModes s n).hc = s.hc := by
  unfold applyModes
  dsimp only
  (repeat' split) <;> simp

theorem applyModes_line (n m : Nat) : (applyModes s n).line m = if m = n then (s.line n).moded s.frame else s.line m := by
  have hkeep : (s.line n).moded s.frame = s.line n → s.line m = if m = n then (s.line n).moded s.frame else s.line m := fun h => by
    by_cases hm : m = n <;> simp [hm, h]
  unfold applyModes
  dsimp only
  split
  · next hs =>
    by_cases h : (s.line n).eff.kind ≠ .nailed ∧ allHeld (s.line n) = true
    · have hmoded : (s.line n).moded s.frame = (s.line n).changedTo .held s.frame := by rw [LineRec.moded, if_pos ⟨hs, h⟩]
      rw [if_pos h, changeState_line, hmoded]
      by_cases hm : m = n <;> simp [hm, hs]
    · rw [if_neg h]
      exact hkeep (by rw [LineRec.moded, if_neg fun hh => h hh.2, if_neg fun hh => by simp [hs] at hh])
  · next hs =>
    by_cases h : (s.line n).participants.any (fun e => decide (e.mode = .active)) = true
    · have hmoded : (s.line n).moded s.frame = (s.line n).changedTo .connected s.frame := by
        rw [LineRec.moded, if_neg fun hh => by simp [hs] at hh, if_pos ⟨hs, h⟩]
      rw [if_pos h, changeState_line, hmoded]
      by_cases hm : m = n <;> simp [hm, hs]
    · rw [if_neg h]
      exact hkeep (by rw [LineRec.moded, if_neg fun hh => by simp [hs] at hh, if_neg fun hh => h hh.2])
  · next h1 h2 => exact hkeep (LineRec.moded_of_ne _ _ h1 h2)

theorem modesOnly_setMode (n : Nat) (p : Party) (m : Mode) : ModesOnly s (setMode s n p m) :=
  (modesOnly_modLine s n _).trans (modesOnly_applyModes _ n)

@[simp] theorem setMode_hc (n : Nat) (p : Party) (m : Mode) : (setMode s n p m).hc = s.hc := by simp [setMode]

theorem setMode_line (n : Nat) (p : Party) (md : Mode) (m : Nat) :
    (setMode s n p md).line m = if m = n then ((s.line n).withMode p md).moded s.frame else s.line m := by
  have hput : (modLine s n fun l => l.withMode p md).line n = (s.line n).withMode p md := by simp
  have hset : setMode s n p md = applyModes (modLine s n fun l => l.withMode p md) n := rfl
  rw [hset, applyModes_line, hput]
  by_cases hm : m = n <;> simp [hm]

/-- Modes change a line's record and its events alone. -/
theorem work_setMode_lc (n : Nat) (p : Party) (m : Mode) : Work s (setMode s n p m) [.events, .lc] := by
  have h := work_setMode s n p m
  refine ⟨h.call, h.events, fun he => (h.leaves he).narrow fun b hb hn => ?_⟩
  have hcc := (modesOnly_setMode s n p m).cc
  cases b <;> simp at hb hn ⊢
  simp [Same, hcc]

theorem work_applyModes_lc (n : Nat) : Work s (applyModes s n) [.events, .lc] := by
  have h := work_applyModes s n
  refine ⟨h.call, h.events, fun he => (h.leaves he).narrow fun b hb hn => ?_⟩
  have hcc := (modesOnly_applyModes s n).cc
  cases b <;> simp at hb hn ⊢
  simp [Same, hcc]

end Modes

section Pushing

/-- What being pushed, perhaps more than once, makes of a line's record (R8, R53). -/
structure LineRec.Pushed (l r : LineRec) (p : Party) : Prop where
  mode : r.participants = l.participants.map fun e => if e.party = p then { e with mode := .hold } else e
  held : (l.state = .connected ∧ l.eff.kind ≠ .nailed) ∨ l.state = .held → l.participants ≠ [] →
    (∀ e ∈ l.participants, e.party ≠ p → e.mode = .hold) → r.state = .held

theorem LineRec.pushed (l : LineRec) (p : Party) (now : Frame) : l.Pushed ((l.withMode p .hold).moded now) p where
  mode := LineRec.moded_participants _ _
  held hs hne hothers := by
    have hall : ∀ e ∈ (l.withMode p .hold).participants, e.mode = .hold := by
      intro e he
      simp only [LineRec.withMode, List.mem_map] at he
      obtain ⟨x, hx, rfl⟩ := he
      split
      · rfl
      · next h => exact hothers x hx h
    rcases hs with ⟨hs, hk⟩ | hs
    · have hheld : allHeld (l.withMode p .hold) = true := by
        simp only [allHeld, Bool.and_eq_true, decide_eq_true_eq, List.all_eq_true]
        exact ⟨by simpa [LineRec.withMode] using hne, hall⟩
      rw [LineRec.moded, if_pos ⟨hs, hk, hheld⟩]
      rfl
    · rw [LineRec.moded, if_neg fun h => by simp [LineRec.withMode, hs] at h, if_neg fun h => ?_]
      · exact hs
      · obtain ⟨e, he, hactive⟩ := List.any_eq_true.mp h.2
        rw [hall e he] at hactive
        simp at hactive

theorem LineRec.Pushed.trans {l r x : LineRec} {p : Party} (h : l.Pushed r p) (k : r.Pushed x p) : l.Pushed x p where
  mode := by
    rw [k.mode, h.mode, List.map_map]
    refine List.map_congr_left fun e _ => ?_
    simp only [Function.comp_apply]
    by_cases he : e.party = p <;> simp [he]
  held hs hne hothers := k.held (.inr (h.held hs hne hothers)) (by simpa [h.mode] using hne) fun e he hp => by
    rw [h.mode, List.mem_map] at he
    obtain ⟨y, hy, rfl⟩ := he
    by_cases hyp : y.party = p
    · rw [if_pos hyp]
    · rw [if_neg hyp]
      exact hothers y hy hyp

variable (s : State) (p : Party)

/-- Lines pushed on a handset's hold stack. -/
def pushLines (ns : List Nat) : State := (ns.map CurEntry.line).foldl (pushEntry p) s

theorem pushCurrent_lines (ns : List Nat) (h : (s.handset p).current = ns.map .line) : pushCurrent s p = pushLines s p ns := by
  rw [pushCurrent, h, pushLines]

variable {s p}

/-- What the pushes do: the stack takes the lines in their order, and each is held by the handset (R53). -/
theorem pushLines_spec (ns : List Nat) :
    ModesOnly s (pushLines s p ns) ∧ OnlyHandsets s (pushLines s p ns) [p] ∧
    ((pushLines s p ns).handset p).hold = (s.handset p).hold ++ ns ∧ (pushLines s p ns).hc.calls = s.hc.calls ∧
    (pushLines s p ns).hc.positions = s.hc.positions ∧ (∀ m, m ∉ ns → (pushLines s p ns).line m = s.line m) ∧
    ∀ m ∈ ns, (s.line m).Pushed ((pushLines s p ns).line m) p := by
  induction ns generalizing s with
  | nil => exact ⟨.refl s, .refl s _, by simp [pushLines], rfl, rfl, fun _ _ => rfl, fun _ h => by simp at h⟩
  | cons a ns ih =>
    let x := modHandset s p fun h => { h with current := h.current.filter (· ≠ .line a), hold := h.hold ++ [a] }
    have hstep : pushLines s p (a :: ns) = pushLines (setMode x a p .hold) p ns := rfl
    obtain ⟨hmodes, honly, hhold, hcalls, hpositions, hother, hpushed⟩ := ih (s := setMode x a p .hold)
    have hx : ∀ m, x.line m = s.line m := fun m => by simp [x]
    have hxframe : x.frame = s.frame := by simp [x]
    have hfirst : ∀ m, (setMode x a p .hold).line m = if m = a then ((s.line a).withMode p .hold).moded s.frame else s.line m := fun m => by
      rw [setMode_line, hx, hx, hxframe]
    have hhc : (setMode x a p .hold).hc = x.hc := setMode_hc ..
    refine ⟨((modesOnly_modHandset s p _).trans (modesOnly_setMode x a p .hold)).trans hmodes,
      ((onlyHandsets_modHandset s p _).congr hhc).trans honly, ?_, ?_, ?_, fun m hm => ?_, fun m hm => ?_⟩
    · rw [hstep, hhold, State.handset_congr hhc]
      simp [x]
    · rw [hstep, hcalls, hhc]
      rfl
    · rw [hstep, hpositions, hhc]
      rfl
    · simp only [List.mem_cons, not_or] at hm
      rw [hstep, hother m hm.2, hfirst, if_neg hm.1]
    · rw [hstep]
      by_cases hin : m ∈ ns
      · have hlater := hpushed m hin
        rw [hfirst] at hlater
        split at hlater
        · next hma =>
          subst hma
          exact ((s.line m).pushed p s.frame).trans hlater
        · exact hlater
      · have hma : m = a := by simpa [hin] using hm
        rw [hother m hin, hfirst, if_pos hma, hma]
        exact (s.line a).pushed p s.frame

theorem work_pushLines (s : State) (p : Party) (ns : List Nat) : Work s (pushLines s p ns) [.events, .lc, .hc] := by
  unfold pushLines
  induction ns generalizing s with
  | nil => exact .refl s _
  | cons a ns ih => exact (((work_modHandset s p _).mono (by decide)).step (work_setMode_lc _ a p .hold)).trans (ih _)

end Pushing

end Sys2Proof.Machine

namespace Sys2Proof.Machine

/-! ## A handset joins a line (R21) -/

section Joining

variable (s : State) (p : Party) (n : Nat)

/-- A line's record with a handset on it (R21). -/
def LineRec.joined (l : LineRec) (p : Party) : LineRec :=
  { l with
    participants := l.participants ++ [{ party := p, mode := .active }]
    setter := if l.participants = [] ∧ l.eff.privacyDefault = true then some p else l.setter }

/-- The handset and the line, before a barge is reported (R21). -/
def handsetJoined : State := modLine (setCurrent s p (.line n)) n fun l => l.joined p

theorem joinParticipant_eq : joinParticipant s p n = match (s.line n).setter with
    | some st => countBarge (issue (handsetJoined s p n) (.barge n p st)) n
    | none => handsetJoined s p n := rfl

@[simp] theorem handsetJoined_line (m : Nat) : (handsetJoined s p n).line m = if m = n then (s.line n).joined p else s.line m := by
  by_cases hm : m = n <;> simp [handsetJoined, setCurrent, hm]

theorem handsetJoined_eu : (handsetJoined s p n).eu = s.eu := by simp [handsetJoined, setCurrent]

theorem modesOnly_handsetJoined : ModesOnly s (handsetJoined s p n) := (modesOnly_modHandset s p _).trans (modesOnly_modLine _ n _)

theorem work_handsetJoined : Work s (handsetJoined s p n) [.lc, .hc] :=
  ((work_modHandset s p _).mono (by decide)).step (work_modLine _ n _)

theorem work_joinParticipant : Work s (joinParticipant s p n) [.events, .lc, .hc] := by
  have hjoined := (work_handsetJoined s p n).mono (ys := [.events, .lc, .hc]) (by decide)
  rw [joinParticipant_eq]
  split
  · exact (hjoined.step (work_issue _ _)).step (work_modContext _ n _)
  · exact hjoined

/-- What a join does to the records, whether or not it overrides PRIVACY. -/
theorem joinParticipant_spec :
    (∀ m, (joinParticipant s p n).line m = if m = n then (s.line n).joined p else s.line m) ∧
    (joinParticipant s p n).hc = (setCurrent s p (.line n)).hc ∧ (joinParticipant s p n).cc = s.cc ∧ (joinParticipant s p n).su = s.su ∧
    (joinParticipant s p n).frame = s.frame ∧ ∀ q, (joinParticipant s p n).alertList q = s.alertList q := by
  obtain ⟨hcc, -, -, -, hsu, hframe, halerts, -⟩ := modesOnly_handsetJoined s p n
  have hhc : (handsetJoined s p n).hc = (setCurrent s p (.line n)).hc := by simp [handsetJoined]
  rw [joinParticipant_eq]
  split
  · refine ⟨fun m => ?_, ?_, ?_, ?_, ?_, fun q => ?_⟩
    · simp [countBarge]
    · simpa [countBarge] using hhc
    · simpa [countBarge] using hcc
    · simpa [countBarge] using hsu
    · simpa [countBarge] using hframe
    · simp [countBarge, State.alertList, halerts]
  · exact ⟨handsetJoined_line s p n, hhc, hcc, hsu, hframe, fun q => by simp [State.alertList, halerts]⟩

theorem joinParticipant_of_setter {st : Party} (h : (s.line n).setter = some st) :
    joinParticipant s p n = countBarge (issue (handsetJoined s p n) (.barge n p st)) n := by rw [joinParticipant_eq, h]

/-- A join that overrides PRIVACY is reported (R11). -/
theorem joinParticipant_barge {st : Party} (h : (s.line n).setter = some st) (he : s.eu.evtHead < 256) (hr : s.eu.evtRead < 256)
    (hu : s.eu.unread ≤ 254) : UnreadEvent (joinParticipant s p n) s.eu.evtHead (.barge n p st) s.frame := by
  have hframe := (modesOnly_handsetJoined s p n).frame
  have heu := handsetJoined_eu s p n
  have hevent := issue_unreadEvent (handsetJoined s p n) (.barge n p st) (by rwa [heu]) (by rwa [heu]) (by rwa [heu])
  rw [heu, hframe] at hevent
  rw [joinParticipant_of_setter s p n h]
  exact (work_modContext _ n _).events _ _ _ hevent

/-- A join that overrides PRIVACY is counted (R116). -/
theorem joinParticipant_context {st : Party} (h : (s.line n).setter = some st) :
    (joinParticipant s p n).context n = (s.context n).map fun x => { x with barges := x.barges + 1 } := by
  have hum := (modesOnly_handsetJoined s p n).um
  rw [joinParticipant_of_setter s p n h, countBarge, modContext_context, if_pos rfl, issue_context, State.context_congr hum]

end Joining

section Taking

variable {x : State} {n : Nat}

/-- With an ACTIVE participant a line is not held (R8). -/
theorem not_allHeld {l : LineRec} (h : ∃ e ∈ l.participants, e.mode = .active) : allHeld l = false := by
  obtain ⟨e, he, hactive⟩ := h
  rw [allHeld, Bool.and_eq_false_iff]
  exact .inr (List.all_eq_false.mpr ⟨e, he, by simp [hactive]⟩)

theorem work_answerRing (x : State) (n : Nat) : Work x (answerRing x n) [.events, .lc, .cc, .link] :=
  ((((((work_wantActive x n .seized).mono (by decide)).step (work_stopState _ n)).step (work_leaveAlerts _ n)).step
    (work_modContext _ n _)).step (work_modContext _ n _)).step (work_becomeConnected _ n _)

/-- The record of a line whose ring is answered (R21). -/
theorem answerRing_spec (hs : (x.line n).state = .ringingIn) (hactive : ∃ e ∈ (x.line n).participants, e.mode = .active) :
    (∀ m, (answerRing x n).line m =
      if m = n then { x.line n with state := .connected, lastChange := x.frame, stateTimer := none } else x.line m) ∧
    (answerRing x n).hc = x.hc ∧ (∀ d, (answerRing x n).circuit d = (wantActive x n .seized).circuit d) ∧
    ∀ q, n ∉ (answerRing x n).alertList q := by
  let v := leaveAlerts (stopState (wantActive x n .seized) n) n
  have hv : answerRing x n = becomeConnected (endRinging (countAnswered v n) n) n .request := rfl
  have hwant : (wantActive x n .seized).lc = x.lc ∧ (wantActive x n .seized).hc = x.hc ∧ (wantActive x n .seized).frame = x.frame := by
    unfold wantActive
    split
    · next c _ =>
      obtain ⟨l, hl⟩ := setDesired_eq x c .seized
      rw [hl]
      simp
    · exact ⟨rfl, rfl, rfl⟩
  obtain ⟨hlc, hhc, hframe⟩ := hwant
  have hline : ∀ m, v.line m = if m = n then { x.line n with stateTimer := none } else x.line m := fun m => by
    by_cases hm : m = n <;> simp [v, stopState, State.line_congr hlc, hm]
  have hheld : allHeld (v.line n) = false := not_allHeld (by rw [hline, if_pos rfl]; exact hactive)
  have hconnected : answerRing x n = changeState (openConnection (endRinging (countAnswered v n) n) n) n .connected .request := by
    rw [hv, becomeConnected]
    simp [endRinging, countAnswered, hheld]
  have hvhc : v.hc = x.hc := by simp [v, stopState, hhc]
  have hvcc : v.cc = (wantActive x n .seized).cc := by simp [v, stopState]
  have hvframe : v.frame = x.frame := by simp [v, stopState, hframe]
  rw [hconnected]
  refine ⟨fun m => ?_, ?_, fun d => ?_, fun q => ?_⟩
  · rw [changeState_line]
    by_cases hm : m = n
    · simp [openConnection, endRinging, countAnswered, hline, hm, hs, LineRec.changedTo, LineState.keepsSetter, LineState.atRest, hvframe]
    · simp [openConnection, endRinging, countAnswered, hline, hm]
  · simp [openConnection, endRinging, countAnswered, hvhc]
  · rw [State.circuit_congr (changeState_cc _ n .connected _ (.inl rfl))]
    simp [openConnection, endRinging, countAnswered, State.circuit, hvcc]
  · simpa [openConnection, endRinging, countAnswered] using leaveAlerts_notMem (stopState (wantActive x n .seized) n) n q

/-- A new seizure of an IDLE line for a call (R21, R30, R115). -/
theorem seizeLine_spec {j d : Nat} (cause : StateCause) (hs : (x.line n).state ≠ .calling) (hcl : (x.line n).state ≠ .clearing)
    (hd : (x.line n).applied.call.path[j]? = some d) :
    (∀ m, (seizeLine x n j cause).line m = if m = n then { x.line n with
      callCopy := some (x.line n).applied.call, active := some d, state := .calling, lastChange := x.frame } else x.line m) ∧
    (∀ c, (seizeLine x n j cause).circuit c =
      if c = d then { x.circuit d with owner := some n, state := .seizing, desired := .seized } else x.circuit c) ∧
    ((seizeLine x n j cause).path n).lastUsed = j ∧ (seizeLine x n j cause).hc = x.hc := by
  let v := latchContext (takeCallCopy x n) n 1 none
  have hline : ∀ m, v.line m = if m = n then { x.line n with callCopy := some (x.line n).applied.call } else x.line m := fun m => by
    by_cases hm : m = n <;> simp [v, latchContext, takeCallCopy, hm]
  have hpath : (v.line n).eff.path[j]? = some d := by rw [hline, if_pos rfl]; exact hd
  have hcc : v.cc = x.cc := by simp [v, latchContext, takeCallCopy]
  have hframe : (seizeAt v n j).frame = x.frame := by
    obtain ⟨l, hl⟩ := seizeAt_eq v n j d hpath
    rw [hl]
    simp [v, latchContext, takeCallCopy]
  have hhc : (seizeAt v n j).hc = x.hc := by
    obtain ⟨l, hl⟩ := seizeAt_eq v n j d hpath
    rw [hl]
    simp [v, latchContext, takeCallCopy]
  have hseize : seizeLine x n j cause = changeState (seizeAt v n j) n .calling cause := rfl
  have hkeep := changeState_cc (seizeAt v n j) n .calling cause (.inl rfl)
  rw [hseize]
  refine ⟨fun m => ?_, fun c => ?_, ?_, ?_⟩
  · rw [changeState_line]
    by_cases hm : m = n
    · simp [hm, seizeAt_line v n j d hpath, hline, hs, hcl, LineRec.changedTo, LineState.keepsSetter, LineState.atRest, hframe]
    · simp [hm, seizeAt_line v n j d hpath, hline]
  · rw [State.circuit_congr hkeep, seizeAt_circuit v n j d hpath, State.circuit_congr hcc, State.circuit_congr hcc]
  · rw [State.path_congr hkeep, seizeAt_path v n j d hpath, if_pos rfl]
  · simp [hhc]

theorem work_takeLine (x : State) (n : Nat) : Work x (takeLine x n) [.events, .lc, .cc, .link, .meter] := by
  unfold takeLine
  split
  · split
    · exact work_seizeLine x n _ _
    · exact .refl x _
  · exact (work_answerRing x n).mono (by decide)
  · exact (work_applyModes x n).mono (by decide)

end Taking

end Sys2Proof.Machine

namespace Sys2Proof.Machine

/-! ## SELECT and ANSWER that take a line (R20 to R22) -/

section Selecting

variable {s : State} {p : Party} {n : Nat}

/-- The handset on the line, its current set pushed; what becomes of the line is still to come (R21). -/
def handsetOn (s : State) (p : Party) (n : Nat) : State := joinParticipant (pushCurrent (provideChannel s p n) p) p n

theorem joinLine_eq (s : State) (p : Party) (n : Nat) : joinLine s p n = complete s (takeLine (handsetOn s p n) n) := rfl

theorem setCurrent_handset (x : State) (p : Party) (e : CurEntry) : (setCurrent x p e).handset p = { x.handset p with current := [e] } := by
  simp [setCurrent]

theorem work_pushCurrent_lines (x : State) (ns : List Nat) (h : (x.handset p).current = ns.map .line) :
    Work x (pushCurrent x p) [.events, .lc, .hc] := by
  rw [pushCurrent_lines x p ns h]
  exact work_pushLines x p ns

/-- What a handset that leaves lines for another does to them, to itself and to everything else (R21, R53). -/
structure HandsetOn (s v : State) (p : Party) (n : Nat) (ns : List Nat) : Prop where
  work    : Work s v [.events, .alarms, .lc, .hc, .ra]
  lines   : ∀ m, m ∉ ns → v.line m = if m = n then (s.line n).joined p else s.line m
  pushed  : ∀ m ∈ ns, (s.line m).Pushed (v.line m) p
  handset : v.handset p = { current := [.line n], hold := (s.handset p).hold ++ ns }
  beside  : OnlyHandsets s v [p]
  cc      : v.cc = s.cc
  alerts  : ∀ q, v.alertList q = s.alertList q

theorem handsetOn_lines (ns : List Nat) (hcurrent : (s.handset p).current = ns.map .line) (hn : n ∉ ns) :
    HandsetOn s (handsetOn s p n) p n ns := by
  have hcurrent' : ((provideChannel s p n).handset p).current = ns.map .line := by rw [provideChannel_handset, hcurrent]
  have hpush := pushCurrent_lines (provideChannel s p n) p ns hcurrent'
  obtain ⟨hmodes, honly, hhold, hcalls, hpositions, hother, hpushed⟩ := pushLines_spec (s := provideChannel s p n) (p := p) ns
  rw [← hpush] at hmodes honly hhold hcalls hpositions hother hpushed
  obtain ⟨hline, hhc, hcc, -, -, halerts⟩ := joinParticipant_spec (pushCurrent (provideChannel s p n) p) p n
  have hon : handsetOn s p n = joinParticipant (pushCurrent (provideChannel s p n) p) p n := rfl
  rw [← hon] at hline hhc hcc halerts
  have hset : OnlyHandsets (pushCurrent (provideChannel s p n) p) (handsetOn s p n) [p] := (onlyHandsets_modHandset _ p _).congr hhc
  have hprovided : OnlyHandsets s (provideChannel s p n) [p] := (OnlyHandsets.refl s [p]).congr (by simp)
  exact {
    work := (((work_provideChannel s p n).mono (by decide)).step (work_pushCurrent_lines _ ns hcurrent')).step (work_joinParticipant _ p n)
    lines := fun m hm => by
      rw [hline, hother n hn, hother m hm]
      simp
    pushed := fun m hm => by
      have hne : m ≠ n := fun h => hn (h ▸ hm)
      rw [hline, if_neg hne]
      simpa using hpushed m hm
    handset := by
      rw [State.handset_congr hhc, setCurrent_handset]
      simp [hhold]
    beside := (hprovided.trans honly).trans hset
    cc := by
      rw [hcc, hmodes.cc]
      simp
    alerts := fun q => by
      rw [halerts, State.alertList, hmodes.alerts]
      simp [State.alertList] }

/-! ### The checks of R20 -/

theorem newPosition_none_iff : newPosition s n = none ↔ ∀ j < 4, selectable s n j = false := by
  unfold newPosition firstSelectable
  rw [List.find?_eq_none]
  constructor
  · intro h j hj
    have := h j (by simp; omega)
    simpa using this
  · intro h j hj
    simpa using h j (by simp at hj; omega)

theorem bargeApplies_iff {q : Nat} {st : Party} (h : (s.line n).setter = some st) : bargeApplies s n q = true ↔ overrides s n q st := by
  simp [bargeApplies, h, overrides]

theorem participantLimit_eq (l : LineRec) : participantLimit l = if l.eff.shared = true then 4 else 1 := rfl

/-- A line that may be taken passes step 6 of R20. -/
theorem stateRefusal_of_takeable {q : Nat} (h : takeable s n q) : stateRefusal s n q = none := by
  rcases h with ⟨hs, hq, j, hj, hsel⟩ | hs | ⟨hs, hroom, hover⟩
  · have hposition : newPosition s n ≠ none := fun h => by simp [newPosition_none_iff.mp h j hj] at hsel
    simp [stateRefusal, hs, hq, hposition]
  · simp [stateRefusal, hs]
  · have hprivate : ((s.line n).setter.isSome && !bargeApplies s n q) = false := by
      cases hst : (s.line n).setter with
      | none => rfl
      | some st => simp [(bargeApplies_iff hst).mpr (hover st hst)]
    have hlimit : ¬participantLimit (s.line n) ≤ (s.line n).participants.length := by rw [participantLimit_eq]; omega
    rcases hs with hs | hs | hs <;> simp [stateRefusal, hs, hlimit, hprivate]

theorem inServiceLine_iff {l : LineRec} : inServiceLine l ↔ ¬(l.applied.enabled = false ∨ l.state.isOos = true) := by
  cases h : l.state <;> simp [inServiceLine, LineState.isOos, h]

/-- A handset that may take a line passes the steps before the line's state (R20). -/
theorem selectLine_of_mayTake (h : MayTake s p n) :
    (stateRefusal s n p.pos = none → selectLine s p n = if noRecorder s p n then (recorderOccurrence s, .noRecorder) else (joinLine s p n, .ok)) ∧
    ∀ r, stateRefusal s n p.pos = some r → selectLine s p n = (if r = .privateLine then countRefusal s n else s, r) := by
  obtain ⟨hservice, ⟨hcurrent, hhold⟩, haccess, hroom⟩ := h
  have hservice' := inServiceLine_iff.mp hservice
  have hroom' : hasRoom s p = true := by simpa [hasRoom] using hroom
  simp only [selectLine, hservice', if_false, List.contains_eq_mem, hcurrent, hhold, decide_false, Bool.or_false, Bool.false_eq_true,
    Nat.not_lt.mpr haccess, and_false, hroom', Bool.true_eq_false]
  refine ⟨fun h => by simp only [h], fun r h => ?_⟩
  cases r <;> simp only [h, if_true, reduceCtorEq, if_false]

theorem selectLine_takes (h : MayTake s p n) (htake : takeable s n p.pos) (hrecorder : noRecorder s p n = false) :
    selectLine s p n = (joinLine s p n, .ok) := by
  rw [(selectLine_of_mayTake h).1 (stateRefusal_of_takeable htake)]
  simp [hrecorder]

/-- The lines of a current set. -/
theorem currentLines_map (ns : List Nat) : currentLines (ns.map .line) = ns := by
  induction ns with
  | nil => rfl
  | cons a ns ih => simp [currentLines] at ih ⊢

/-- SELECT of a key that names a line, and ANSWER at the head of the alert list, end as the selection of the line does (R20, R22). -/
theorem select_exec {ws : List Word} {i : Instr} (hp : FromHandset s ws p)
    (hi : (i = .answer ∧ Ready s 0x11 ws 1 ∧ (s.alertList p.pos).head? = some n) ∨
      (i = .select ∧ Ready s 0x10 ws 1 ∧ param ws 1 ≤ 127 ∧ (s.key (128 * p.pos + param ws 1)).lineOf = some n))
    {u : State} {r : Result} (hsel : selectLine s p n = (u, r)) (hw : CallWork s u) :
    exec i s = .next (requestEnd s u ws r) ∧ s.eu.evtHead < 256 ∧ s.eu.evtRead < 256 ∧ s.eu.unread ≤ 254 := by
  have hparty := hp.party
  rcases hi with ⟨rfl, hr, hhead⟩ | ⟨rfl, hr, hkey, hline⟩
  · have hown : ownAnswer s ws = (u, r) := by
      rw [ownAnswer, hparty]
      cases hl : s.alertList p.pos with
      | nil => simp [hl] at hhead
      | cons a l =>
        obtain rfl : a = n := by simpa [hl] using hhead
        exact hsel
    exact ⟨request_next ws _ hr .handset ownAnswer (commonRefusal_handset hp) hown hw, hr.head, hr.read, hr.unread⟩
  · have hown : ownSelect s ws = (u, r) := by
      simp only [ownSelect, hparty, if_neg (Nat.not_lt.mpr hkey), hline]
      exact hsel
    exact ⟨request_next ws _ hr .handset ownSelect (commonRefusal_handset hp) hown hw, hr.head, hr.read, hr.unread⟩

end Selecting

end Sys2Proof.Machine

namespace Sys2Proof.Machine

/-! ## A handset leaves an intercom call (R66, R69, R72) -/

section Intercom

variable (s : State)

/-- A handset's record without an intercom call. -/
def HandsetRec.hungUp (h : HandsetRec) (x : Nat) : HandsetRec := { h with current := h.current.filter (· ≠ .intercom x) }

theorem HandsetRec.hungUp_hungUp (h : HandsetRec) (x : Nat) : (h.hungUp x).hungUp x = h.hungUp x := by
  simp [HandsetRec.hungUp, List.filter_filter]

theorem dropIntercom_handset (p : Party) (x : Nat) (q : Party) :
    (dropIntercom s p x).handset q = if q.place = p.place then (s.handset q).hungUp x else s.handset q := by
  by_cases h : q.place = p.place
  · have hsame : s.handset q = s.handset p := congrArg (Table.get HandsetRec.cold s.hc.handsets) h
    have hplace := h
    simp only [Party.place] at hplace
    simp [dropIntercom, h, State.setHandset_handset, hplace, HandsetRec.hungUp, hsame]
  · have hplace := h
    simp only [Party.place] at hplace
    simp [dropIntercom, h, State.setHandset_handset, hplace]

theorem dropIntercoms_handset (ps : List Party) (x : Nat) (q : Party) :
    (ps.foldl (fun s p => dropIntercom s p x) s).handset q = if ∃ p ∈ ps, q.place = p.place then (s.handset q).hungUp x else s.handset q := by
  induction ps generalizing s with
  | nil => simp
  | cons p ps ih =>
    rw [List.foldl_cons, ih, dropIntercom_handset]
    by_cases hp : q.place = p.place <;> simp [hp, HandsetRec.hungUp_hungUp]

theorem handsetsOnly_dropIntercoms (ps : List Party) (x : Nat) : HandsetsOnly s (ps.foldl (fun s p => dropIntercom s p x) s) := by
  induction ps generalizing s with
  | nil => exact ⟨_, rfl⟩
  | cons p ps ih =>
    obtain ⟨y, hy⟩ := ih (dropIntercom s p x)
    exact ⟨y, hy⟩

/-- The recomputation of the reach sets changes positions alone (R69). -/
theorem recomputeReach_rest : ∃ ps, recomputeReach s = { s with hc := { s.hc with positions := ps } } := by
  unfold recomputeReach
  generalize List.range 32 = l
  induction l generalizing s with
  | nil => exact ⟨_, rfl⟩
  | cons p l ih =>
    obtain ⟨ps, hps⟩ := ih (modPosition s p fun r => { r with reach := reachOf s p })
    exact ⟨ps, hps⟩

/-- The parties of a call. -/
def IcmRec.parties (r : IcmRec) : List Party := r.caller.toList ++ r.answerer.toList

theorem IcmRec.mem_parties (r : IcmRec) (q : Party) : q ∈ r.parties ↔ r.caller = some q ∨ r.answerer = some q := by
  simp [IcmRec.parties, Option.mem_toList]

/-- What the end of an intercom call does (R72). -/
theorem endIntercom_spec (x : Nat) (why : IcmEnd) :
    ModesOnly s (endIntercom s x why) ∧ (endIntercom s x why).lc = s.lc ∧ (endIntercom s x why).call x = IcmRec.cold ∧
    (∀ y, y ≠ x → (endIntercom s x why).call y = s.call y) ∧
    (∀ q, (endIntercom s x why).handset q = if ∃ r ∈ (s.call x).parties, q.place = r.place then (s.handset q).hungUp x else s.handset q) ∧
    (∀ q < 32, ((endIntercom s x why).position q).reach.getLsbD x = false) := by
  let v := (s.call x).parties.foldl (fun s p => dropIntercom s p x) s
  let w := issue (v.setCall x IcmRec.cold) (.icmEnd x why (s.call x).state)
  have hend : endIntercom s x why = recomputeReach w := rfl
  obtain ⟨ps, hps⟩ := recomputeReach_rest w
  obtain ⟨y, hy⟩ := handsetsOnly_dropIntercoms s (s.call x).parties x
  have hv : v = { s with hc := { s.hc with handsets := y } } := hy
  have hwhc : w.hc = (v.setCall x IcmRec.cold).hc := by simp [w]
  have hcall : ∀ c, w.call c = if c = x then IcmRec.cold else s.call c := fun c => by
    have hkept : v.call c = s.call c := by rw [hv]; rfl
    rw [State.call_congr hwhc, State.setCall_call, hkept]
  refine ⟨?_, ?_, ?_, fun c hc => ?_, fun q => ?_, fun q hq => ?_⟩
  · have hw : ModesOnly s w := ModesOnly.trans (b := v.setCall x IcmRec.cold) (by rw [hv]; constructor <;> rfl) (modesOnly_issue _ _)
    exact hw.trans (by rw [hend, hps]; constructor <;> rfl)
  · rw [hend, hps]
    simp [w, hv]
  · have hlast := hcall x
    rw [if_pos rfl] at hlast
    rw [hend, hps]
    exact hlast
  · have hlast := hcall c
    rw [if_neg hc] at hlast
    rw [hend, hps]
    exact hlast
  · have hlast : w.handset q = v.handset q := by
      rw [State.handset_congr hwhc]
      rfl
    rw [← dropIntercoms_handset, hend, hps]
    exact hlast
  · rw [hend, recomputeReach_reach _ _ hq, reachOf_getLsbD]
    simp [reaches, hcall, IcmRec.cold]

/-- The end of an intercom call is reported (R72). -/
theorem endIntercom_event (x : Nat) (why : IcmEnd) (he : s.eu.evtHead < 256) (hr : s.eu.evtRead < 256) (hu : s.eu.unread ≤ 254) :
    UnreadEvent (endIntercom s x why) s.eu.evtHead (.icmEnd x why (s.call x).state) s.frame := by
  obtain ⟨y, hy⟩ := handsetsOnly_dropIntercoms s (s.call x).parties x
  let v := (s.call x).parties.foldl (fun s p => dropIntercom s p x) s
  have hv : v = { s with hc := { s.hc with handsets := y } } := hy
  have heu : (v.setCall x IcmRec.cold).eu = s.eu := by rw [hv]; rfl
  have hframe : (v.setCall x IcmRec.cold).frame = s.frame := by rw [hv]; rfl
  have hevent := issue_unreadEvent (v.setCall x IcmRec.cold) (.icmEnd x why (s.call x).state) (by rwa [heu]) (by rwa [heu]) (by rwa [heu])
  rw [heu, hframe] at hevent
  exact (work_recomputeReach (issue (v.setCall x IcmRec.cold) (.icmEnd x why (s.call x).state))).events _ _ _ hevent

/-- An intercom call left, seen from a state with the same calls, the same handsets elsewhere, and no reach of it. -/
theorem callLeft_of {s t : State} {x : Nat} {p : Party} (hcalls : ∀ y, t.call y = (endIntercom s x (.left p)).call y)
    (hhandsets : ∀ q : Party, q.place ≠ p.place → t.handset q = (endIntercom s x (.left p)).handset q)
    (hreach : ∀ q, (t.position q).reach = ((endIntercom s x (.left p)).position q).reach) : CallLeft s t x p := by
  obtain ⟨-, -, hrecord, hothers, hparty, hunreached⟩ := endIntercom_spec s x (.left p)
  exact {
    record := (hcalls x).trans hrecord
    calls := fun y hy => (hcalls y).trans (hothers y hy)
    parties := fun q hq hp => by
      rw [hhandsets q hq, hparty, if_pos ⟨q, (IcmRec.mem_parties _ q).mpr hp, rfl⟩]
      rfl
    handsets := fun q hq hp => by
      rw [hhandsets q hq, hparty, if_neg]
      rintro ⟨r, hr, heq⟩
      exact hp r ((IcmRec.mem_parties _ r).mp hr) heq.symm
    reach := fun q hq => by rw [hreach, hunreached q hq] }

/-- Completion leaves the reach sets (R55, R73). -/
theorem complete_reach (b : State) (q : Nat) : ((complete b s).position q).reach = (s.position q).reach := by
  have hdims : ∀ (ps : List Nat) (u : State), ((ps.foldl refreshDim u).position q).reach = (u.position q).reach := by
    intro ps
    induction ps with
    | nil => exact fun u => rfl
    | cons p ps ih =>
      intro u
      rw [List.foldl_cons, ih]
      by_cases hq : q = p <;> simp [refreshDim, hq]
  show ((completePorts b s).position q).reach = _
  unfold completePorts
  split
  · rfl
  · rw [hdims]
    simp

end Intercom

end Sys2Proof.Machine

namespace Sys2Proof.Machine

section Answering

variable {s : State} {p : Party} {n : Nat}

theorem seizeAt_keeps (x : State) (n i : Nat) : (seizeAt x n i).hc = x.hc ∧ (∀ m, m ≠ n → (seizeAt x n i).line m = x.line m) ∧
    ((seizeAt x n i).line n).participants = (x.line n).participants := by
  cases h : (x.line n).eff.path[i]? with
  | none => simp [seizeAt, h]
  | some d =>
    refine ⟨?_, fun m hm => ?_, ?_⟩
    · obtain ⟨l, hl⟩ := seizeAt_eq x n i d h
      rw [hl]
      simp
    · rw [seizeAt_line x n i d h, if_neg hm]
    · rw [seizeAt_line x n i d h, if_pos rfl]

/-- Whatever becomes of a line that a handset has joined, its participants and the other lines stay (R21). -/
theorem takeLine_keeps {x : State} {n : Nat} (hactive : ∃ e ∈ (x.line n).participants, e.mode = .active) :
    (takeLine x n).hc = x.hc ∧ (∀ m, m ≠ n → (takeLine x n).line m = x.line m) ∧
    ((takeLine x n).line n).participants = (x.line n).participants := by
  unfold takeLine
  split
  · next hs =>
    split
    · next i hi =>
      obtain ⟨hhc, hother, hparticipants⟩ := seizeAt_keeps (latchContext (takeCallCopy x n) n 1 none) n i
      have hseize : seizeLine x n i .request = changeState (seizeAt (latchContext (takeCallCopy x n) n 1 none) n i) n .calling .request := rfl
      rw [hseize]
      refine ⟨?_, fun m hm => ?_, ?_⟩
      · rw [changeState_hc, hhc]
        simp [latchContext, takeCallCopy]
      · rw [changeState_line, if_neg fun h => hm h.1, hother m hm]
        simp [latchContext, takeCallCopy, hm]
      · rw [changeState_line]
        split
        · show ((seizeAt (latchContext (takeCallCopy x n) n 1 none) n i).line n).participants = _
          rw [hparticipants]
          simp [latchContext, takeCallCopy]
        · rw [hparticipants]
          simp [latchContext, takeCallCopy]
    · exact ⟨rfl, fun _ _ => rfl, rfl⟩
  · next hs =>
    obtain ⟨hline, hhc, -, -⟩ := answerRing_spec hs hactive
    exact ⟨hhc, fun m hm => by rw [hline, if_neg hm], by rw [hline, if_pos rfl]⟩
  · exact ⟨applyModes_hc x n, fun m hm => by rw [applyModes_line, if_neg hm], by rw [applyModes_line, if_pos rfl, LineRec.moded_participants]⟩

theorem LineRec.joined_active (l : LineRec) (p : Party) : ∃ e ∈ (l.joined p).participants, e.mode = .active :=
  ⟨{ party := p, mode := .active }, by simp [LineRec.joined], rfl⟩

/-- A handset that leaves an intercom call for a line, as far as the line itself (R21, R66). -/
theorem handsetOn_intercom {x : Nat} (hcurrent : (s.handset p).current = [.intercom x]) (hchannel : needsChannel s p n = false) :
    handsetOn s p n = joinParticipant (endIntercom s x (.left p)) p n := by
  have hprovide : provideChannel s p n = s := by simp [provideChannel, hchannel]
  simp only [handsetOn, hprovide, pushCurrent, hcurrent, List.foldl_cons, List.foldl_nil, pushEntry]

theorem setCurrent_call (x : State) (p : Party) (e : CurEntry) (y : Nat) : (setCurrent x p e).call y = x.call y := rfl

theorem onlyHandsets_setCurrent (x : State) (p : Party) (e : CurEntry) : OnlyHandsets x (setCurrent x p e) [p] := onlyHandsets_modHandset x p _

theorem setCurrent_position (x : State) (p : Party) (e : CurEntry) (q : Nat) : (setCurrent x p e).position q = x.position q := rfl

/-- SELECT or ANSWER by a handset in an intercom call: the call is left, and the handset is on the line (R21, R22, R66, R72). -/
theorem joinLine_intercom {x : Nat} (hcurrent : (s.handset p).current = [.intercom x]) (hchannel : needsChannel s p n = false) :
    CallLeft s (joinLine s p n) x p ∧ (joinLine s p n).handset p = { s.handset p with current := [.line n] } ∧
    (∀ m, m ≠ n → (joinLine s p n).line m = s.line m) ∧
    ((joinLine s p n).line n).participants = ((s.line n).joined p).participants ∧
    Work s (joinLine s p n) [.events, .alarms, .lc, .cc, .link, .hc, .ra, .meter] ∧
    EventsKept (endIntercom s x (.left p)) (joinLine s p n) := by
  obtain ⟨-, hlc, -, -, hparty, -⟩ := endIntercom_spec s x (.left p)
  have hon := handsetOn_intercom hcurrent hchannel
  obtain ⟨hline, hhc, -⟩ := joinParticipant_spec (endIntercom s x (.left p)) p n
  rw [← hon] at hline hhc
  have hlines : ∀ m, (endIntercom s x (.left p)).line m = s.line m := fun m => State.line_congr hlc m
  obtain ⟨htakehc, hother, hparticipants⟩ := takeLine_keeps (x := handsetOn s p n) (n := n) (by
    rw [hline, if_pos rfl]
    exact LineRec.joined_active _ p)
  have hhc' := htakehc.trans hhc
  have hend : (endIntercom s x (.left p)).handset p = { s.handset p with current := ((endIntercom s x (.left p)).handset p).current } := by
    rw [hparty]
    generalize s.handset p = h
    split <;> rfl
  have hwork := (work_joinParticipant (endIntercom s x (.left p)) p n).mono (ys := [.events, .alarms, .lc, .cc, .link, .hc, .ra, .meter]) (by decide)
  rw [← hon] at hwork
  have hafter := (hwork.step (work_takeLine _ n)).step (work_complete _ s)
  refine ⟨callLeft_of (fun y => ?_) (fun q hq => ?_) (fun q => ?_), ?_, fun m hm => ?_, ?_, ?_, hafter.events⟩
  · rw [joinLine_eq, complete_call, State.call_congr hhc', setCurrent_call]
  · rw [joinLine_eq, complete_handset, State.handset_congr hhc', (onlyHandsets_setCurrent _ p _).handsets q (by simpa using hq)]
  · rw [joinLine_eq, complete_reach, State.position_congr hhc', setCurrent_position]
  · rw [joinLine_eq, complete_handset, State.handset_congr hhc', setCurrent_handset, hend]
  · rw [joinLine_eq, complete_line, hother m hm, hline, if_neg hm, hlines]
  · rw [joinLine_eq, complete_line, hparticipants, hline, if_pos rfl, hlines]
  · exact ((work_endIntercom s x _).mono (by decide)).trans hafter

/-- The line of an answered ring, with every record that its answer changes (R21, R22). -/
theorem joinLine_ringing {c : Nat} (ns : List Nat) (hs : (s.line n).state = .ringingIn) (hactive : (s.line n).active = some c)
    (hcurrent : (s.handset p).current = ns.map .line) (hn : n ∉ ns) :
    Work s (joinLine s p n) [.events, .alarms, .lc, .cc, .link, .hc, .ra] ∧
    (joinLine s p n).handset p = { current := [.line n], hold := (s.handset p).hold ++ ns } ∧ OnlyHandsets s (joinLine s p n) [p] ∧
    (∀ m ∈ ns, (s.line m).Pushed ((joinLine s p n).line m) p) ∧
    (joinLine s p n).line n = { (s.line n).joined p with state := .connected, lastChange := s.frame, stateTimer := none } ∧
    (∀ m, m ≠ n → m ∉ ns → (joinLine s p n).line m = s.line m) ∧
    (∀ d, (joinLine s p n).circuit d = if d = c then { s.circuit c with desired := .seized } else s.circuit d) ∧
    ∀ q, n ∉ (joinLine s p n).alertList q := by
  obtain ⟨hwork, hlines, hpushed, hhandset, hbeside, hcc, halerts⟩ := handsetOn_lines ns hcurrent hn
  have hline : (handsetOn s p n).line n = (s.line n).joined p := by rw [hlines n hn, if_pos rfl]
  have hringing : ((handsetOn s p n).line n).state = .ringingIn := by rw [hline]; exact hs
  have htake : takeLine (handsetOn s p n) n = answerRing (handsetOn s p n) n := by simp only [takeLine, hringing]
  obtain ⟨hanswered, hhc, hcircuit, hlists⟩ := answerRing_spec hringing (by rw [hline]; exact LineRec.joined_active _ p)
  have hframe := hwork.call.frame
  rw [joinLine_eq, htake]
  refine ⟨((hwork.mono (by decide)).step (work_answerRing _ n)).step (work_complete _ s), ?_, (hbeside.congr hhc).complete, fun m hm => ?_, ?_,
    fun m hm hns => ?_, fun d => ?_, fun q => ?_⟩
  · rw [complete_handset, State.handset_congr hhc, hhandset]
  · have hne : m ≠ n := fun h => hn (h ▸ hm)
    rw [complete_line, hanswered, if_neg hne]
    exact hpushed m hm
  · rw [complete_line, hanswered, if_pos rfl, hline, hframe]
  · rw [complete_line, hanswered, if_neg hm, hlines m hns, if_neg hm]
  · obtain ⟨l, hl⟩ := wantActive_eq (handsetOn s p n) n c .seized (by rw [hline]; exact hactive)
    rw [complete_circuit, hcircuit, hl]
    by_cases hd : d = c <;> simp [hd, State.circuit_congr hcc]
  · rw [complete_alertList]
    exact hlists q

end Answering

/-- Settles O54: the ring answered from lines (R21), the line taken from an intercom call (R66), and the empty list (R22). -/
theorem answerTakesTheOldestRing : Obligations.AnswerTakesTheOldestRing := by
  unfold Obligations.AnswerTakesTheOldestRing
  intro s ws p i hp
  refine ⟨fun n ns c hi henabled hs hsetter hactive haccess hcurrent hn hhold hroom hrecorder => ?_,
    fun n x hi hmay htake hcurrent hchannel hu => ?_, fun hi hr hempty => ?_⟩
  · have hfresh : CurEntry.line n ∉ (s.handset p).current := by rw [hcurrent]; simpa using hn
    have hmay : MayTake s p n := ⟨inServiceLine_iff.mpr (by simp [henabled, hs, LineState.isOos]), ⟨hfresh, hhold⟩, haccess, by
      rw [hcurrent, currentLines_map]
      exact hroom⟩
    obtain ⟨hwork, hhandset, hbeside, hpushed, hline, hother, hcircuit, hlists⟩ := joinLine_ringing (p := p) ns hs hactive hcurrent hn
    obtain ⟨hexec, he, -, -⟩ := select_exec hp hi (selectLine_takes hmay (.inr (.inl hs)) hrecorder) hwork.call
    refine ⟨_, hexec, by rw [requestEnd_handset, hhandset], hbeside.congr (requestEnd_hc ..), ⟨fun m hm => ?_, fun m hm hc hk => ?_⟩, ?_, ?_,
      fun q => ?_, fun m hm hns => ?_, fun d hd => ?_, hwork.call.finished ws _ he s, (hwork.requestEnd ws _ he s).mono (by decide)⟩
    · rw [requestEnd_line, (hpushed m hm).mode]
    · rw [requestEnd_line]
      exact (hpushed m hm).held (.inl ⟨hc, hk⟩)
    · rw [requestEnd_line, hline]
      simp [LineRec.joined, hsetter]
    · rw [requestEnd_circuit, hcircuit, if_pos rfl]
    · rw [requestEnd_alertList]
      exact hlists q
    · rw [requestEnd_line, hother m hm hns]
    · rw [requestEnd_circuit, hcircuit, if_neg hd]
  · obtain ⟨hleft, hhandset, hother, hparticipants, hwork, hkept⟩ := joinLine_intercom (p := p) hcurrent hchannel
    have hrecorder : noRecorder s p n = false := by simp [noRecorder, hchannel]
    obtain ⟨hexec, he, hr, hu⟩ := select_exec hp hi (selectLine_takes hmay htake hrecorder) hwork.call
    have hevent := hkept _ _ _ (endIntercom_event s x (.left p) he hr hu)
    refine ⟨_, hexec, by rw [requestEnd_handset, hhandset], ?_, hevent.requestEnd ws _ s, ?_, fun m hm => by rw [requestEnd_line, hother m hm],
      hwork.call.finished ws _ he s, (hwork.requestEnd ws _ he s).mono (by decide)⟩
    · obtain ⟨hrecord, hcalls, hparties, hhandsets, hreach⟩ := hleft
      exact ⟨by rw [requestEnd_call, hrecord], fun y hy => by rw [requestEnd_call, hcalls y hy],
        fun q hq hparty => by rw [requestEnd_handset, hparties q hq hparty], fun q hq hparty => by rw [requestEnd_handset, hhandsets q hq hparty],
        fun q hq => by rw [requestEnd_position, hreach q hq]⟩
    · rw [requestEnd_line, hparticipants]
      simp [LineRec.joined]
  · subst hi
    have hown : ownAnswer s ws = (s, .notAlerting) := by rw [ownAnswer, hp.party, hempty]
    exact ⟨_, request_unchanged ws _ hr .handset ownAnswer (commonRefusal_handset hp) hown⟩

end Sys2Proof.Machine

namespace Sys2Proof.Machine

section Seizing

variable {s : State} {p : Party} {n : Nat}

/-- An IDLE line taken by a handset: seized, with every record that this changes (R21, R30). -/
theorem joinLine_idle {j d : Nat} (ns : List Nat) (hs : (s.line n).state = .idle) (hposition : newPosition s n = some j)
    (hd : (s.line n).applied.call.path[j]? = some d) (hcurrent : (s.handset p).current = ns.map .line) (hn : n ∉ ns) :
    Work s (joinLine s p n) [.events, .alarms, .lc, .cc, .link, .hc, .ra, .meter] ∧
    (joinLine s p n).handset p = { current := [.line n], hold := (s.handset p).hold ++ ns } ∧ OnlyHandsets s (joinLine s p n) [p] ∧
    (∀ m ∈ ns, (s.line m).Pushed ((joinLine s p n).line m) p) ∧
    (joinLine s p n).line n = { (s.line n).joined p with
      callCopy := some (s.line n).applied.call, active := some d, state := .calling, lastChange := s.frame } ∧
    (∀ m, m ≠ n → m ∉ ns → (joinLine s p n).line m = s.line m) ∧
    (∀ c, (joinLine s p n).circuit c =
      if c = d then { s.circuit d with owner := some n, state := .seizing, desired := .seized } else s.circuit c) ∧
    ((joinLine s p n).path n).lastUsed = j := by
  obtain ⟨hwork, hlines, hpushed, hhandset, hbeside, hcc, -⟩ := handsetOn_lines ns hcurrent hn
  have hline : (handsetOn s p n).line n = (s.line n).joined p := by rw [hlines n hn, if_pos rfl]
  have hidle : ((handsetOn s p n).line n).state = .idle := by rw [hline]; exact hs
  have hselectable : ∀ i, selectable (handsetOn s p n) n i = selectable s n i := fun i => by
    simp only [selectable, State.path_congr hcc, State.circuit_congr hcc, hline]
    rfl
  have hfound : newPosition (handsetOn s p n) n = some j := (firstSelectable_congr hselectable _).trans hposition
  have htake : takeLine (handsetOn s p n) n = seizeLine (handsetOn s p n) n j .request := by simp only [takeLine, hidle, hfound]
  obtain ⟨hseized, hcircuit, hused, hhc⟩ := seizeLine_spec (x := handsetOn s p n) (n := n) (j := j) (d := d) .request (by simp [hidle]) (by simp [hidle])
    (by rw [hline]; exact hd)
  have hframe := hwork.call.frame
  rw [joinLine_eq, htake]
  refine ⟨((hwork.mono (by decide)).step (work_seizeLine _ n j _)).step (work_complete _ s), ?_, (hbeside.congr hhc).complete, fun m hm => ?_, ?_,
    fun m hm hns => ?_, fun c => ?_, ?_⟩
  · rw [complete_handset, State.handset_congr hhc, hhandset]
  · have hne : m ≠ n := fun h => hn (h ▸ hm)
    rw [complete_line, hseized, if_neg hne]
    exact hpushed m hm
  · rw [complete_line, hseized, if_pos rfl, hline, hframe]
    rfl
  · rw [complete_line, hseized, if_neg hm, hlines m hns, if_neg hm]
  · rw [complete_circuit, hcircuit, State.circuit_congr hcc, State.circuit_congr hcc]
  · rw [complete_path, hused]

/-- A line in use that a handset joins: CONNECTED where it was HELD (R8, R21). -/
theorem LineRec.joined_moded (l : LineRec) (p : Party) (now : Frame) (hs : l.state = .calling ∨ l.state = .connected ∨ l.state = .held) :
    (l.joined p).moded now = { l.joined p with
      state := if l.state = .held then .connected else l.state, lastChange := if l.state = .held then now else l.lastChange } := by
  have hactive := l.joined_active p
  have hany : (l.joined p).participants.any (fun e => decide (e.mode = .active)) = true := by
    obtain ⟨e, he, hmode⟩ := hactive
    exact List.any_eq_true.mpr ⟨e, he, by simp [hmode]⟩
  have hstate : (l.joined p).state = l.state := rfl
  have hsame : l.state ≠ .held → l.joined p = { l.joined p with
      state := if l.state = .held then .connected else l.state, lastChange := if l.state = .held then now else l.lastChange } := fun h => by
    rw [if_neg h, if_neg h]
    rfl
  rcases hs with hs | hs | hs
  · rw [LineRec.moded_of_ne _ _ (by simp [hstate, hs]) (by simp [hstate, hs])]
    exact hsame (by simp [hs])
  · rw [LineRec.moded, if_neg (by simp [not_allHeld hactive]), if_neg (by simp [hstate, hs])]
    exact hsame (by simp [hs])
  · rw [LineRec.moded, if_neg (by simp [hstate, hs]), if_pos ⟨hstate.trans hs, hany⟩]
    simp [LineRec.changedTo, LineState.keepsSetter, LineState.atRest, hs, hstate]

/-- A line in use that a handset joins, with every record that this changes (R11, R21). -/
theorem joinLine_inUse (ns : List Nat) (hs : (s.line n).state = .calling ∨ (s.line n).state = .connected ∨ (s.line n).state = .held)
    (hcurrent : (s.handset p).current = ns.map .line) (hn : n ∉ ns) :
    Work s (joinLine s p n) [.events, .alarms, .lc, .hc, .ra] ∧
    (joinLine s p n).handset p = { current := [.line n], hold := (s.handset p).hold ++ ns } ∧ OnlyHandsets s (joinLine s p n) [p] ∧
    (∀ m ∈ ns, (s.line m).Pushed ((joinLine s p n).line m) p) ∧
    (joinLine s p n).line n = { (s.line n).joined p with
      state := if (s.line n).state = .held then .connected else (s.line n).state
      lastChange := if (s.line n).state = .held then s.frame else (s.line n).lastChange } ∧
    (∀ m, m ≠ n → m ∉ ns → (joinLine s p n).line m = s.line m) ∧ EventsKept (handsetOn s p n) (joinLine s p n) ∧
    (joinLine s p n).context n = (handsetOn s p n).context n := by
  obtain ⟨hwork, hlines, hpushed, hhandset, hbeside, -, -⟩ := handsetOn_lines ns hcurrent hn
  have hline : (handsetOn s p n).line n = (s.line n).joined p := by rw [hlines n hn, if_pos rfl]
  have hstate : ((handsetOn s p n).line n).state = (s.line n).state := by rw [hline]; rfl
  have htake : takeLine (handsetOn s p n) n = applyModes (handsetOn s p n) n := by
    rcases hs with hs | hs | hs <;> rw [hs] at hstate <;> simp only [takeLine, hstate]
  have hframe := hwork.call.frame
  have hhc := applyModes_hc (handsetOn s p n) n
  have hafter : Work (handsetOn s p n) (complete s (applyModes (handsetOn s p n) n)) [.events, .alarms, .lc, .hc, .ra] :=
    ((work_applyModes_lc (handsetOn s p n) n).mono (by decide)).step (work_complete _ s)
  rw [joinLine_eq, htake]
  refine ⟨hwork.trans hafter, ?_, (hbeside.congr hhc).complete, fun m hm => ?_, ?_, fun m hm hns => ?_, hafter.events, ?_⟩
  · rw [complete_handset, State.handset_congr hhc, hhandset]
  · have hne : m ≠ n := fun h => hn (h ▸ hm)
    rw [complete_line, applyModes_line, if_neg hne]
    exact hpushed m hm
  · rw [complete_line, applyModes_line, if_pos rfl, hline, hframe]
    exact (s.line n).joined_moded p s.frame hs
  · rw [complete_line, applyModes_line, if_neg hm, hlines m hns, if_neg hm]
  · rw [complete_context, State.context_congr (modesOnly_applyModes _ n).um]

/-- The barge of a join: counted on the context, and the first event where no line is pushed (R11, R116). -/
theorem handsetOn_barge {st : Party} (ns : List Nat) (hst : (s.line n).setter = some st) (hcurrent : (s.handset p).current = ns.map .line)
    (hn : n ∉ ns) (hchannel : needsChannel s p n = false) :
    ((handsetOn s p n).context n = (s.context n).map fun x => { x with barges := x.barges + 1 }) ∧
    (ns = [] → s.eu.evtHead < 256 → s.eu.evtRead < 256 → s.eu.unread ≤ 254 →
      UnreadEvent (handsetOn s p n) s.eu.evtHead (.barge n p st) s.frame) := by
  have hprovide : provideChannel s p n = s := by simp [provideChannel, hchannel]
  have hpush := pushCurrent_lines s p ns hcurrent
  obtain ⟨hmodes, -, -, -, -, hother, -⟩ := pushLines_spec (s := s) (p := p) ns
  have hon : handsetOn s p n = joinParticipant (pushLines s p ns) p n := by rw [handsetOn, hprovide, hpush]
  have hsetter : ((pushLines s p ns).line n).setter = some st := by rw [hother n hn, hst]
  rw [hon]
  refine ⟨by rw [joinParticipant_context _ p n hsetter, State.context_congr hmodes.um], fun hns he hr hu => ?_⟩
  subst hns
  exact joinParticipant_barge s p n hst he hr hu

/-- A SELECT that is refused changes at most the meter, by the count of the refusal (R20, R121). -/
theorem selectLine_refused {r : Result} (h : selectRefused s p n r) :
    selectLine s p n = (if r = .access ∨ r = .privateLine then countRefusal s n else s, r) := by
  rcases h with ⟨rfl, hservice⟩ | ⟨rfl, hservice, hcurrent, hhold, haccess⟩ | ⟨rfl, hservice, hcurrent⟩ |
    ⟨rfl, hservice, hcurrent, hhold, haccess, hfull⟩ | ⟨hmay, hstate⟩
  · have hout := not_not.mp (mt inServiceLine_iff.mpr hservice)
    simp [selectLine, hout]
  · have hin := inServiceLine_iff.mp hservice
    simp [selectLine, hin, hcurrent, hhold, haccess]
  · have hin := inServiceLine_iff.mp hservice
    simp [selectLine, hin, hcurrent]
  · have hin := inServiceLine_iff.mp hservice
    have hroom : hasRoom s p = false := by simpa [hasRoom] using hfull
    simp [selectLine, hin, hcurrent, hhold, Nat.not_lt.mpr haccess, hroom]
  · have hrefusal : stateRefusal s n p.pos = some r := by
      rcases hstate with ⟨rfl, hs, hq⟩ | ⟨rfl, hs, hq, hnone⟩ | ⟨rfl, hs⟩ | ⟨rfl, hs, hfull⟩ | ⟨rfl, hs, hfull, st, hst, hover⟩
      · simp [stateRefusal, hs, hq]
      · simp [stateRefusal, hs, hq, newPosition_none_iff.mpr hnone]
      · simp [stateRefusal, hs]
      · have hlimit : participantLimit (s.line n) ≤ (s.line n).participants.length := hfull
        rcases hs with hs | hs | hs <;> simp [stateRefusal, hs, hlimit]
      · have hlimit : ¬participantLimit (s.line n) ≤ (s.line n).participants.length := hfull
        have hset : (s.line n).setter = some st := hst
        have hprivate : bargeApplies s n p.pos = false := by
          cases hb : bargeApplies s n p.pos with
          | false => rfl
          | true => exact absurd ((bargeApplies_iff hset).mp hb) hover
        rcases hs with hs | hs | hs <;> simp [stateRefusal, hs, hlimit, hset, hprivate]
    rw [(selectLine_of_mayTake hmay).2 r hrefusal]
    rcases hstate with ⟨rfl, -⟩ | ⟨rfl, -⟩ | ⟨rfl, -⟩ | ⟨rfl, -⟩ | ⟨rfl, -⟩ <;> simp

end Seizing

end Sys2Proof.Machine

namespace Sys2Proof.Machine

section SelectEnds

variable {s t : State} {p : Party}

/-- Lines pushed are what the obligations say of them. -/
theorem linesPushed_of {ns : List Nat} (h : ∀ m ∈ ns, (s.line m).Pushed (t.line m) p) : LinesPushed s t p ns :=
  ⟨fun m hm => (h m hm).mode, fun m hm hc hk => (h m hm).held (.inl ⟨hc, hk⟩)⟩

theorem countRefusal_eu (s : State) (n : Nat) : (countRefusal s n).eu = s.eu := by
  unfold countRefusal
  dsimp only
  split
  · unfold formUpdate
    split <;> rfl
  · rfl

end SelectEnds

/-- Settles O53: the line seized (R30), the line joined (R11), the first refusal (R20), and a key without a line. -/
theorem selectTakesOrIsRefusedTheLine : Obligations.SelectTakesOrIsRefusedTheLine := by
  unfold Obligations.SelectTakesOrIsRefusedTheLine
  intro s ws p hready hp
  refine ⟨fun n j d ns hkey hline henabled hs hcopy hsetter haccess hcurrent hn hhold hroom hrunning hposition hd hrecorder => ?_,
    fun n ns hkey hline hmay hcurrent hs hlimit hover hchannel hu => ?_, fun n r hkey hline hrefused => ?_, fun hbad => ?_⟩
  · have heff : (s.line n).eff = (s.line n).applied.call := by simp [LineRec.eff, hcopy]
    have hfresh : CurEntry.line n ∉ (s.handset p).current := by rw [hcurrent]; simpa using hn
    have hmay : MayTake s p n := ⟨inServiceLine_iff.mpr (by simp [henabled, hs, LineState.isOos]), ⟨hfresh, hhold⟩, haccess, by
      rw [hcurrent, currentLines_map]
      exact hroom⟩
    obtain ⟨hj, hsel⟩ := firstSelectable_some hposition
    have htake : takeable s n p.pos := .inl ⟨hs, by simp [hrunning], j, by simp at hj; omega, hsel⟩
    obtain ⟨hwork, hhandset, hbeside, hpushed, hjoined, hother, hcircuit, hused⟩ :=
      joinLine_idle (p := p) ns hs hposition (by rw [← heff]; exact hd) hcurrent hn
    obtain ⟨hexec, he, -, -⟩ := select_exec hp (.inr ⟨rfl, hready, hkey, hline⟩) (selectLine_takes hmay htake hrecorder) hwork.call
    refine ⟨_, hexec, by rw [requestEnd_handset, hhandset], hbeside.congr (requestEnd_hc ..), linesPushed_of fun m hm => ?_, ?_, ?_, ?_,
      fun m hm hns => ?_, fun c hc => ?_, hwork.call.finished ws _ he s, (hwork.requestEnd ws _ he s).mono (by decide)⟩
    · rw [requestEnd_line]
      exact hpushed m hm
    · rw [requestEnd_line, hjoined]
      simp [LineRec.joined, hsetter, heff]
    · rw [requestEnd_circuit, hcircuit, if_pos rfl]
    · rw [requestEnd_path, hused]
    · rw [requestEnd_line, hother m hm hns]
    · rw [requestEnd_circuit, hcircuit, if_neg hc]
  · have hn : n ∉ ns := fun h => hmay.fresh.1 (by rw [hcurrent]; simpa using h)
    have htake : takeable s n p.pos := .inr (.inr ⟨hs, hlimit, hover⟩)
    have hrecorder : noRecorder s p n = false := by simp [noRecorder, hchannel]
    obtain ⟨hwork, hhandset, hbeside, hpushed, hjoined, hother, hkept, hcontext⟩ := joinLine_inUse (p := p) ns hs hcurrent hn
    obtain ⟨hexec, he, hr, hu'⟩ := select_exec hp (.inr ⟨rfl, hready, hkey, hline⟩) (selectLine_takes hmay htake hrecorder) hwork.call
    refine ⟨_, hexec, by rw [requestEnd_handset, hhandset], hbeside.congr (requestEnd_hc ..), linesPushed_of fun m hm => ?_, ?_, fun st hst => ?_,
      fun m hm hns => ?_, hwork.call.finished ws _ he s, (hwork.requestEnd ws _ he s).mono (by decide)⟩
    · rw [requestEnd_line]
      exact hpushed m hm
    · rw [requestEnd_line, hjoined]
      rfl
    · obtain ⟨hcount, hbarge⟩ := handsetOn_barge ns hst hcurrent hn hchannel
      refine ⟨fun hns => (hkept _ _ _ (hbarge hns he hr hu')).requestEnd ws _ s, fun x hx => ?_⟩
      obtain ⟨o, k, hmeter⟩ := requestEnd_context s (joinLine s p n) ws .ok n
      rw [hcontext, hcount, hx] at hmeter
      exact ⟨_, hmeter, rfl⟩
    · rw [requestEnd_line, hother m hm hns]
  · have hsel := selectLine_refused hrefused
    have hwork : Work s (if r = .access ∨ r = .privateLine then countRefusal s n else s) [.um] := .ite (work_countRefusal s n) (.refl s _)
    have heu : (if r = .access ∨ r = .privateLine then countRefusal s n else s).eu = s.eu := by
      split
      · exact countRefusal_eu s n
      · rfl
    obtain ⟨hexec, he, -, hu⟩ := select_exec hp (.inr ⟨rfl, hready, hkey, hline⟩) hsel hwork.call
    have hum := hwork.call.um
    simp only [Prod.mk.injEq] at hum
    refine ⟨_, hexec, hwork.call.completed ws _ (by rw [heu]; exact hu) he s, ?_, (hwork.requestEnd ws _ he s).mono (by decide)⟩
    by_cases hr : r = .access ∨ r = .privateLine
    · rw [if_pos hr] at hum ⊢
      exact ⟨by simp [if_pos hr], by simp [if_pos hr, hum], by simp [if_pos hr, hum]⟩
    · rw [if_neg hr] at hum ⊢
      exact ⟨by simp [if_neg hr], by simp [if_neg hr], by simp [if_neg hr]⟩
  · have hown : ownSelect s ws = (s, if 127 < param ws 1 then .badParam else .emptyKey) := by
      rw [ownSelect, hp.party]
      by_cases hkey : 127 < param ws 1
      · simp [hkey]
      · obtain ⟨-, hempty⟩ := hbad.resolve_left hkey
        simp only [if_neg hkey, hempty, KeyVal.lineOf]
    exact ⟨_, request_unchanged ws _ hready .handset ownSelect (commonRefusal_handset hp) hown⟩

end Sys2Proof.Machine

namespace Sys2Proof.Machine

/-! ## A handset leaves a line (R7, R8, R17, R18, R56) -/

section Circuits

variable {s t u : State} {c d : Nat}

/-- What naming may do to a circuit's record: IDLE or UNINSTALLED, and nothing else (R28). -/
structure CircuitRec.SameUse (r r' : CircuitRec) : Prop where
  owner    : r'.owner = r.owner
  desired  : r'.desired = r.desired
  lastSent : r'.lastSent = r.lastSent
  farHeld  : r'.farHeld = r.farHeld
  state    : r'.state = r.state ∨ ((r.state = .idle ∨ r.state = .uninstalled) ∧ (r'.state = .idle ∨ r'.state = .uninstalled))

theorem CircuitRec.SameUse.refl (r : CircuitRec) : r.SameUse r := ⟨rfl, rfl, rfl, rfl, .inl rfl⟩

theorem CircuitRec.SameUse.trans {a b c : CircuitRec} (h : a.SameUse b) (k : b.SameUse c) : a.SameUse c where
  owner := k.owner.trans h.owner
  desired := k.desired.trans h.desired
  lastSent := k.lastSent.trans h.lastSent
  farHeld := k.farHeld.trans h.farHeld
  state := by
    rcases h.state with h | ⟨ha, hb⟩
    · rw [← h]
      exact k.state
    · rcases k.state with k | ⟨-, hc⟩
      · exact .inr ⟨ha, k ▸ hb⟩
      · exact .inr ⟨ha, hc⟩

theorem CircuitRec.sameUse_renamed (r : CircuitRec) (b : Bool) : r.SameUse (r.renamed b) where
  owner := by simp
  desired := by simp
  lastSent := by simp
  farHeld := by simp
  state := by
    unfold CircuitRec.renamed
    split
    · next h => exact .inr ⟨h, by cases b <;> simp⟩
    · exact .inl rfl

/-- A circuit that other circuits' releases have passed by: its use is the same, and it has not been listed (R34). -/
structure CircuitBeside (s t : State) (c : Nat) : Prop where
  same    : (s.circuit c).SameUse (t.circuit c)
  pending : c ∈ t.cc.pendingList → c ∈ s.cc.pendingList

theorem circuitBeside_of_cc (h : t.cc = s.cc) : CircuitBeside s t c := by
  refine ⟨?_, fun hc => h ▸ hc⟩
  rw [State.circuit_congr h]
  exact .refl _

theorem CircuitBeside.trans (h : CircuitBeside s t c) (k : CircuitBeside t u c) : CircuitBeside s u c :=
  ⟨h.same.trans k.same, fun hc => h.pending (k.pending hc)⟩

theorem circuitBeside_changeState (s : State) (n : Nat) (new : LineState) (cause : StateCause) (c : Nat) :
    CircuitBeside s (changeState s n new cause) c := by
  refine ⟨?_, fun hc => by rwa [changeState_pendingList] at hc⟩
  obtain ⟨b, h | ⟨-, h⟩⟩ := changeState_circuit s n new cause c
  · rw [h]
    exact .refl _
  · rw [h]
    exact CircuitRec.sameUse_renamed _ b

theorem relist_pending (s : State) (c : Nat) (hd : d ≠ c) (h : d ∈ (relist s c).cc.pendingList) : d ∈ s.cc.pendingList := by
  unfold relist at h
  dsimp only at h
  split at h
  · exact h
  · split at h
    · exact (List.mem_filter.mp h).1
    · split at h
      · exact h
      · simpa [hd] using h

theorem finishRelease_pendingList (s : State) (c : Nat) : (finishRelease s c).cc.pendingList = s.cc.pendingList := by
  rcases finishRelease_eq s c with h | h
  · rw [h]
  · rw [h, enterIdle_pendingList]

theorem circuitBeside_releaseCircuit (s : State) (c : Nat) (b : Bool) (o : Option Nat) (hd : d ≠ c) : CircuitBeside s (releaseCircuit s c b o) d := by
  refine ⟨?_, fun h => ?_⟩
  · rw [releaseCircuit_circuit_ne s c b o d hd]
    exact .refl _
  · rw [releaseCircuit, finishRelease_pendingList] at h
    exact relist_pending (modCircuit s c _) c hd h

/-- A circuit that its line has given up, or is releasing (R35). -/
structure CircuitReleased (s t : State) (n c : Nat) (st : LineState) : Prop where
  desired : (t.circuit c).desired = .idle
  farHeld : (t.circuit c).farHeld = false
  kept    : st ≠ .calling → (t.circuit c).owner = some n ∧ (t.circuit c).state = .releasing
  freed   : st = .calling → (t.circuit c).owner = none ∧ (quiet s c = true → (s.circuit c).farHeld = false →
    c ∉ t.cc.pendingList ∧ ((t.circuit c).state = .idle ∨ (t.circuit c).state = .uninstalled))

theorem CircuitReleased.beside {n : Nat} {st : LineState} (h : CircuitReleased s t n c st) (k : CircuitBeside t u c) : CircuitReleased s u n c st where
  desired := k.same.desired.trans h.desired
  farHeld := k.same.farHeld.trans h.farHeld
  kept hst := by
    obtain ⟨howner, hstate⟩ := h.kept hst
    refine ⟨k.same.owner.trans howner, ?_⟩
    rcases k.same.state with hs | ⟨hs, -⟩
    · exact hs.trans hstate
    · simp [hstate] at hs
  freed hst := by
    obtain ⟨howner, hquiet⟩ := h.freed hst
    refine ⟨k.same.owner.trans howner, fun hq hf => ?_⟩
    obtain ⟨hpending, hstate⟩ := hquiet hq hf
    refine ⟨fun hc => hpending (k.pending hc), ?_⟩
    rcases k.same.state with hs | ⟨-, hs⟩
    · rwa [hs]
    · exact hs

/-- A release seen from a state in which the circuit was in the same use. -/
theorem CircuitReleased.from {n : Nat} {st : LineState} (h : CircuitReleased t u n c st) (k : (s.circuit c).SameUse (t.circuit c))
    (hsending : t.cc.sending = s.cc.sending) : CircuitReleased s u n c st where
  desired := h.desired
  farHeld := h.farHeld
  kept := h.kept
  freed hst := by
    obtain ⟨howner, hquiet⟩ := h.freed hst
    have hq : quiet t c = quiet s c := by simp only [quiet, k.lastSent, inTransmission_congr hsending c]
    exact ⟨howner, fun h1 h2 => hquiet (hq.trans h1) (k.farHeld.trans h2)⟩

/-- A circuit given up by its line: free at once where nothing is due on it (R35). -/
theorem circuitReleased_giveUp {n : Nat} (h : (s.line n).active = some c) : CircuitReleased s (giveUpCircuit s n false) n c .calling where
  desired := (giveUpCircuit_circuit s n c false h).desired
  farHeld := (giveUpCircuit_circuit s n c false h).farHeld
  kept hne := absurd rfl hne
  freed _ := by
    refine ⟨(giveUpCircuit_circuit s n c false h).owner, fun hquiet hfar => ?_⟩
    simp only [quiet, Bool.and_eq_true, decide_eq_true_eq, Bool.not_eq_true'] at hquiet
    obtain ⟨hlast, hsend⟩ := hquiet
    have hgive : (giveUpCircuit s n false).cc = (releaseCircuit s c false none).cc := by simp [giveUpCircuit, h, clearActive]
    let x := relist (modCircuit s c fun r =>
      { r with lastSent := if r.farHeld && !false then .seized else r.lastSent, desired := .idle, farHeld := false, state := .releasing,
               owner := none }) c
    have hx : x.circuit c = { s.circuit c with desired := .idle, farHeld := false, state := .releasing, owner := none } := by
      simp [x, hfar]
    have hxsend : inTransmission x c = false := by
      obtain ⟨l, hl⟩ := relist_eq (modCircuit s c fun r =>
        { r with lastSent := if r.farHeld && !false then .seized else r.lastSent, desired := .idle, farHeld := false, state := .releasing,
                 owner := none }) c
      exact (inTransmission_congr (by simp only [x, hl]; rfl) c).trans hsend
    have hrelease : releaseCircuit s c false none = enterIdle x c := by
      show finishRelease x c = _
      have hq : quiet x c = true := by simp [quiet, hx, hlast, hxsend]
      simp only [finishRelease, hx, hq, and_self, if_true]
    have hnot : c ∉ x.cc.pendingList := relist_notMem _ c ((inTransmission_congr rfl c).trans hsend) (by simp [hfar, hlast])
    rw [State.circuit_congr hgive, hgive, hrelease, enterIdle_pendingList, enterIdle_circuit, if_pos rfl]
    refine ⟨hnot, ?_⟩
    cases isNamed x c <;> simp

end Circuits

section Contexts

variable (s : State)

theorem endMeasurement_context (n m : Nat) (h : m ≠ n) : (endMeasurement s n).1.context m = s.context m := by
  unfold endMeasurement
  split
  · rfl
  · next c hc =>
    dsimp only
    rw [State.setContext_context, if_neg h]
    split
    · unfold formUpdate
      split <;> rfl
    · rfl

/-- The end of a line's call leaves the contexts of the others (R119). -/
theorem callEnd_context_ne (n m : Nat) (why : ReleaseCause) (h : m ≠ n) : (callEnd s n why).context m = s.context m := by
  simp only [callEnd, issue_context]
  rw [← endMeasurement_context s n m h]
  simp

end Contexts

end Sys2Proof.Machine

namespace Sys2Proof.Machine

section Leaving

variable {s t : State} {p : Party} {n : Nat}

/-- A line's record without a handset (R7). -/
def LineRec.left (l : LineRec) (p : Party) : LineRec :=
  { l with
    participants := l.participants.filter (fun e => decide (e.party ≠ p)), setter := if l.setter = some p then none else l.setter }

/-- The call that a line's last handset leaves ends (R18, R56). -/
structure CallReleased (s t : State) (n : Nat) : Prop where
  context : t.context n = none
  updates : t.um.updates = updatesAfter s n id
  line    : t.line n = if (s.line n).state = .calling then { idleAfter (s.line n) s.frame with participants := [] }
    else clearingAfter (s.line n) (s.frame + 8000#48) s.frame
  circuit : ∀ c, (s.line n).active = some c → CircuitReleased s t n c (s.line n).state

/-- What one handset's leaving of one line does. -/
structure LineLeft (s t : State) (p : Party) (n : Nat) : Prop where
  work         : Work s t [.events, .lc, .cc, .link, .hc, .um]
  others       : ∀ m, m ≠ n → t.line m = s.line m
  handset      : t.handset p = (s.handset p).without n
  beside       : OnlyHandsets s t [p]
  participants : (t.line n).participants = (s.line n).participants.filter (fun e => decide (e.party ≠ p))
  held         : (∃ e ∈ (s.line n).participants, e.party ≠ p) → (s.line n).state = .connected → (s.line n).eff.kind ≠ .nailed →
    (∃ e ∈ (s.line n).participants, e.party = p) → (∀ e ∈ (s.line n).participants, e.party ≠ p → e.mode = .hold) → (t.line n).state = .held
  released     : (∃ e ∈ (s.line n).participants, e.party = p) → (∀ e ∈ (s.line n).participants, e.party = p) → (s.line n).eff.kind ≠ .nailed →
    (s.line n).state = .calling ∨ (s.line n).state = .connected ∨ (s.line n).state = .held → CallReleased s t n
  staying      : (∃ e ∈ (s.line n).participants, e.party ≠ p) → t.um = s.um
  contexts     : ∀ m, m ≠ n → t.context m = s.context m
  circuits     : ∀ c, (s.line n).active ≠ some c → CircuitBeside s t c

/-- The line has the handset off it; its modes and its release are still to come. -/
def handsetOff (s : State) (p : Party) (n : Nat) : State := removeParticipant (hcDrop s p n) n p

theorem handsetOff_line (m : Nat) : (handsetOff s p n).line m = if m = n then (s.line n).left p else s.line m := by
  by_cases hm : m = n
  · by_cases hsetter : (s.line n).setter = some p <;> simp [handsetOff, removeParticipant, hcDrop, LineRec.left, hm, hsetter]
  · simp [handsetOff, removeParticipant, hcDrop, hm]

theorem handsetOff_rest : (handsetOff s p n).hc = (hcDrop s p n).hc ∧ (handsetOff s p n).cc = s.cc ∧ (handsetOff s p n).um = s.um ∧
    (handsetOff s p n).frame = s.frame := by simp [handsetOff, removeParticipant, hcDrop]

theorem hcDrop_self (s : State) (p : Party) (n : Nat) : (hcDrop s p n).handset p = (s.handset p).without n := by
  rw [hcDrop_handset, if_pos rfl]

theorem onlyHandsets_hcDrop (s : State) (p : Party) (n : Nat) : OnlyHandsets s (hcDrop s p n) [p] := onlyHandsets_modHandset s p _

theorem applyModes_of_empty {x : State} (h : (x.line n).participants = []) : applyModes x n = x := by
  unfold applyModes
  dsimp only
  split
  · simp [allHeld, h]
  · simp [h]
  · rfl

/-- What the end of a call leaves beside its line, its circuit and its context. -/
structure CallEndedBeside (x u : State) (n : Nat) : Prop where
  hc       : u.hc = x.hc
  others   : ∀ m, m ≠ n → u.line m = x.line m
  contexts : ∀ m, m ≠ n → u.context m = x.context m
  circuits : ∀ c, (x.line n).active ≠ some c → CircuitBeside x u c

/-- A call in CALLING ends with its last handset (R18, R35). -/
theorem calling_released {x : State} (hs : (x.line n).state = .calling) (he : (x.line n).participants = []) :
    let u := changeState (callEnd (giveUpCircuit x n false) n .localEnd) n .idle .request
    CallReleased x u n ∧ CallEndedBeside x u n := by
  intro u
  obtain ⟨hum, hhc, -, hframe, -⟩ := giveUpCircuit_rest x n false
  have hline := giveUpCircuit_line x n false
  have hbeside : ∀ c, CircuitBeside (giveUpCircuit x n false) u c := fun c =>
    (circuitBeside_of_cc (callEnd_cc _ n .localEnd)).trans (circuitBeside_changeState _ n .idle .request c)
  have hlines : ∀ m, u.line m = if m = n then { idleAfter (x.line n) x.frame with participants := [] } else x.line m := fun m => by
    rw [changeState_line]
    by_cases hm : m = n
    · simp [hm, hline, LineRec.callEnded, LineRec.changedTo, hs, he, idleAfter, LineState.keepsSetter, LineState.atRest, hframe]
    · simp [hm, hline]
  have hcontext : ∀ m, u.context m = (callEnd (giveUpCircuit x n false) n .localEnd).context m := State.context_congr (changeState_um _ n _ _)
  refine ⟨⟨?_, ?_, ?_, fun c hc => ?_⟩, ⟨?_, fun m hm => by rw [hlines, if_neg hm], fun m hm => ?_, fun c hc => ?_⟩⟩
  · rw [hcontext, callEnd_context]
  · rw [changeState_um, callEnd_updates, updatesAfter_congr n id (State.context_congr hum n) (by rw [hum]) hframe]
  · rw [hlines, if_pos rfl, if_pos hs]
  · rw [hs]
    exact (circuitReleased_giveUp hc).beside (hbeside c)
  · rw [changeState_hc, callEnd_hc, hhc]
  · rw [hcontext, callEnd_context_ne _ n m _ hm, State.context_congr hum]
  · refine CircuitBeside.trans ?_ (hbeside c)
    unfold giveUpCircuit
    split
    · next d hd =>
      have hne : c ≠ d := fun h => hc (h ▸ hd)
      exact (circuitBeside_releaseCircuit x d false none hne).trans (circuitBeside_of_cc (by simp [clearActive]))
    · exact circuitBeside_of_cc rfl

/-- A call in CONNECTED or HELD ends with its last handset (R18). -/
theorem connected_released {x : State} (hs : (x.line n).state = .connected ∨ (x.line n).state = .held) (he : (x.line n).participants = []) :
    let u := enterClearing x n .localEnd .request false
    CallReleased x u n ∧ CallEndedBeside x u n := by
  intro u
  have hclearing : (x.line n).state ≠ .clearing := by rcases hs with h | h <;> simp [h]
  have hcalling : (x.line n).state ≠ .calling := by rcases hs with h | h <;> simp [h]
  have hline := fun m => enterClearing_line x n .localEnd .request false m hclearing
  obtain ⟨hcontext, hupdates, hhc, -⟩ := enterClearing_rest x n .localEnd .request false
  obtain ⟨-, -, -, -, -, -, -, hum, -⟩ := (ccOnly_circuitKept x n false).rest
  have hcircuit := enterClearing_circuit x n .localEnd .request false
  have hpending : u.cc.pendingList = (circuitKept x n false).cc.pendingList := by
    show (enterClearing x n .localEnd .request false).cc.pendingList = _
    rw [enterClearing_eq, changeState_pendingList]
    simp [startState]
  refine ⟨⟨hcontext, hupdates, ?_, fun c hc => ?_⟩, ⟨hhc, fun m hm => by rw [hline, if_neg hm], fun m hm => ?_, fun c hc => ?_⟩⟩
  · rw [hline, if_pos rfl, if_neg hcalling, he]
    rfl
  · have hreleasing := circuitKept_circuit x n c c false hc
    rw [if_pos rfl] at hreleasing
    exact ⟨by rw [hcircuit, hreleasing]; rfl, by rw [hcircuit, hreleasing]; rfl, fun _ => by rw [hcircuit, hreleasing]; exact ⟨rfl, rfl⟩,
      fun h => absurd h hcalling⟩
  · show (enterClearing x n .localEnd .request false).context m = _
    rw [enterClearing_eq, State.context_congr (changeState_um _ n _ _)]
    have hstart : ∀ y : State, (startState y n .guard Config.guardFrames).context m = y.context m := fun y => by simp [startState]
    rw [hstart, callEnd_context_ne _ n m _ hm, State.context_congr hum]
  · have hkept : CircuitBeside x (circuitKept x n false) c := by
      unfold circuitKept
      split
      · next d hd =>
        have hne : c ≠ d := fun h => hc (h ▸ hd)
        exact circuitBeside_releaseCircuit x d false (some n) hne
      · exact circuitBeside_of_cc rfl
    exact ⟨by rw [hcircuit]; exact hkept.same, fun h => hkept.pending (by rwa [hpending] at h)⟩

end Leaving

end Sys2Proof.Machine

namespace Sys2Proof.Machine

section LeavingLines

variable {s t : State} {p : Party} {n : Nat}

theorem handsetOff_circuit (c : Nat) : (handsetOff s p n).circuit c = s.circuit c := State.circuit_congr handsetOff_rest.2.1 c

/-- The end of a call that its last handset has left, seen from before the handset left it. -/
theorem CallReleased.off {u : State} (h : CallReleased (handsetOff s p n) u n) : CallReleased s u n := by
  obtain ⟨-, hcc, hum, hframe⟩ := handsetOff_rest (s := s) (p := p) (n := n)
  have hline : (handsetOff s p n).line n = (s.line n).left p := by rw [handsetOff_line, if_pos rfl]
  refine ⟨h.context, ?_, ?_, fun c hc => ?_⟩
  · rw [h.updates, updatesAfter_congr n id (State.context_congr hum n) (by rw [hum]) hframe]
  · rw [h.line, hline, hframe]
    rfl
  · have hreleased := h.circuit c (by rw [hline]; exact hc)
    rw [hline] at hreleased
    exact hreleased.from (by rw [handsetOff_circuit]; exact .refl _) (by rw [hcc])

/-- A line that a handset has left and whose call has ended or goes on. -/
theorem lineLeft_of_beside {u : State} (hbeside : CallEndedBeside (handsetOff s p n) u n) (hwork : Work s u [.events, .lc, .cc, .link, .hc, .um])
    (hparticipants : (u.line n).participants = (s.line n).participants.filter (fun e => decide (e.party ≠ p)))
    (hheld : (∃ e ∈ (s.line n).participants, e.party ≠ p) → (s.line n).state = .connected → (s.line n).eff.kind ≠ .nailed →
      (∀ e ∈ (s.line n).participants, e.party ≠ p → e.mode = .hold) → (u.line n).state = .held)
    (hreleased : (∀ e ∈ (s.line n).participants, e.party = p) → (s.line n).eff.kind ≠ .nailed →
      (s.line n).state = .calling ∨ (s.line n).state = .connected ∨ (s.line n).state = .held → CallReleased s u n)
    (hstaying : (∃ e ∈ (s.line n).participants, e.party ≠ p) → u.um = s.um) : LineLeft s u p n := by
  obtain ⟨hhc, hcc, hum, -⟩ := handsetOff_rest (s := s) (p := p) (n := n)
  have hactive : ((handsetOff s p n).line n).active = (s.line n).active := by rw [handsetOff_line, if_pos rfl]; rfl
  exact {
    work := hwork
    others := fun m hm => by rw [hbeside.others m hm, handsetOff_line, if_neg hm]
    handset := by rw [State.handset_congr hbeside.hc, State.handset_congr hhc, hcDrop_self]
    beside := (onlyHandsets_hcDrop s p n).congr (hbeside.hc.trans hhc)
    participants := hparticipants
    held := fun hother hc hk _ hmodes => hheld hother hc hk hmodes
    released := fun _ hall hk hst => hreleased hall hk hst
    staying := hstaying
    contexts := fun m hm => by rw [hbeside.contexts m hm, State.context_congr hum]
    circuits := fun c hc => (circuitBeside_of_cc hcc).trans (hbeside.circuits c (by rw [hactive]; exact hc)) }

theorem callEndedBeside_refl (x : State) (n : Nat) : CallEndedBeside x x n := ⟨rfl, fun _ _ => rfl, fun _ _ => rfl, fun _ _ => circuitBeside_of_cc rfl⟩

theorem callEndedBeside_applyModes (x : State) (n : Nat) : CallEndedBeside x (applyModes x n) n where
  hc := applyModes_hc x n
  others m hm := by rw [applyModes_line, if_neg hm]
  contexts m _ := State.context_congr (modesOnly_applyModes x n).um m
  circuits _ _ := circuitBeside_of_cc (modesOnly_applyModes x n).cc

/-- A handset that is no participant of a line leaves the records of its own alone. -/
theorem lineLeft_hcDrop (h : ¬∃ e ∈ (s.line n).participants, e.party = p) : LineLeft s (hcDrop s p n) p n := by
  have hline : ∀ m, (hcDrop s p n).line m = s.line m := fun m => by simp [hcDrop]
  have hfilter : (s.line n).participants.filter (fun e => decide (e.party ≠ p)) = (s.line n).participants :=
    List.filter_eq_self.mpr fun e he => by simpa using fun heq => h ⟨e, he, heq⟩
  exact {
    work := (work_hcDrop s p n).mono (by decide)
    others := fun m _ => hline m
    handset := hcDrop_self s p n
    beside := onlyHandsets_hcDrop s p n
    participants := by rw [hline, hfilter]
    held := fun _ _ _ hp => absurd hp h
    released := fun hp => absurd hp h
    staying := fun _ => rfl
    contexts := fun _ _ => rfl
    circuits := fun _ _ => circuitBeside_of_cc rfl }

theorem leaveLine_of_participant (h : ∃ e ∈ (s.line n).participants, e.party = p) :
    leaveLine s p n = releaseIfEmpty (applyModes (handsetOff s p n) n) n := by
  have hany : (s.line n).participants.any (fun e => decide (e.party = p)) = true := by simpa using h
  rw [leaveLine, if_pos hany, handsetOff]

/-- Others remain: the modes decide (R8). -/
theorem lineLeft_others (h : ∃ e ∈ (s.line n).participants, e.party = p) (hother : ∃ e ∈ (s.line n).participants, e.party ≠ p) :
    LineLeft s (leaveLine s p n) p n := by
  obtain ⟨hhc, hcc, hum, hframe⟩ := handsetOff_rest (s := s) (p := p) (n := n)
  have hoff : (handsetOff s p n).line n = (s.line n).left p := by rw [handsetOff_line, if_pos rfl]
  have hne : ((s.line n).left p).participants ≠ [] := by
    obtain ⟨e, he, hp⟩ := hother
    exact List.ne_nil_of_mem (List.mem_filter.mpr ⟨he, by simpa using hp⟩)
  have hline : (applyModes (handsetOff s p n) n).line n = ((s.line n).left p).moded s.frame := by rw [applyModes_line, if_pos rfl, hoff, hframe]
  have hleave : leaveLine s p n = applyModes (handsetOff s p n) n := by
    rw [leaveLine_of_participant h, releaseIfEmpty, if_neg fun hh => hne (by rw [← hh.1, hline, LineRec.moded_participants])]
  have hwork := work_leaveLine s p n
  rw [hleave] at hwork ⊢
  refine lineLeft_of_beside (callEndedBeside_applyModes _ n) hwork ?_ (fun _ hc hk hmodes => ?_) (fun hall => ?_) fun _ => ?_
  · rw [hline, LineRec.moded_participants]
    rfl
  · have hheld : allHeld ((s.line n).left p) = true := by
      simp only [allHeld, Bool.and_eq_true, decide_eq_true_eq, List.all_eq_true]
      refine ⟨hne, fun e he => ?_⟩
      obtain ⟨hmem, hep⟩ := List.mem_filter.mp he
      exact hmodes e hmem (by simpa using hep)
    rw [hline, LineRec.moded, if_pos ⟨hc, hk, hheld⟩]
    rfl
  · obtain ⟨e, he, hep⟩ := hother
    exact absurd (hall e he) hep
  · rw [(modesOnly_applyModes _ n).um, hum]

/-! ### The release of an empty line, by its state (R18) -/

theorem releaseIfEmpty_calling {x : State} (he : (x.line n).participants = []) (hk : (x.line n).eff.kind ≠ .nailed)
    (hs : (x.line n).state = .calling) :
    releaseIfEmpty x n = changeState (callEnd (giveUpCircuit x n false) n .localEnd) n .idle .request := by simp [releaseIfEmpty, he, hk, hs]

theorem releaseIfEmpty_connected {x : State} (he : (x.line n).participants = []) (hk : (x.line n).eff.kind ≠ .nailed)
    (hs : (x.line n).state = .connected ∨ (x.line n).state = .held) :
    releaseIfEmpty x n = enterClearing x n .localEnd .request false := by
  rcases hs with hs | hs <;> simp [releaseIfEmpty, he, hk, hs]

theorem releaseIfEmpty_other {x : State} (hcalling : (x.line n).state ≠ .calling) (hconnected : (x.line n).state ≠ .connected)
    (hheld : (x.line n).state ≠ .held) : releaseIfEmpty x n = x := by
  cases hs : (x.line n).state <;> simp_all [releaseIfEmpty]

/-- The last handset leaves: the call ends, by the line's state (R18). -/
theorem lineLeft_last (h : ∃ e ∈ (s.line n).participants, e.party = p) (hall : ∀ e ∈ (s.line n).participants, e.party = p) :
    LineLeft s (leaveLine s p n) p n := by
  have hoff : (handsetOff s p n).line n = (s.line n).left p := by rw [handsetOff_line, if_pos rfl]
  have hnil : (s.line n).participants.filter (fun e => decide (e.party ≠ p)) = [] :=
    List.filter_eq_nil_iff.mpr fun e he => by simpa using hall e he
  have hempty : ((handsetOff s p n).line n).participants = [] := by rw [hoff]; exact hnil
  have hleave : leaveLine s p n = releaseIfEmpty (handsetOff s p n) n := by rw [leaveLine_of_participant h, applyModes_of_empty hempty]
  have hwork := work_leaveLine s p n
  have hnone : ¬∃ e ∈ (s.line n).participants, e.party ≠ p := fun ⟨e, he, hp⟩ => hp (hall e he)
  have heff : ((handsetOff s p n).line n).eff = (s.line n).eff := by rw [hoff]; rfl
  have hstate : ((handsetOff s p n).line n).state = (s.line n).state := by rw [hoff]; rfl
  have hfinish : ∀ u, leaveLine s p n = u → CallEndedBeside (handsetOff s p n) u n → (u.line n).participants = [] →
      ((s.line n).eff.kind ≠ .nailed → (s.line n).state = .calling ∨ (s.line n).state = .connected ∨ (s.line n).state = .held →
        CallReleased s u n) → LineLeft s (leaveLine s p n) p n := fun u hu hbeside hparticipants hreleased => by
    rw [hu] at hwork ⊢
    exact lineLeft_of_beside hbeside hwork (by rw [hparticipants, hnil]) (fun hother => absurd hother hnone) (fun _ => hreleased)
      fun hother => absurd hother hnone
  by_cases hk : (s.line n).eff.kind = .nailed
  · refine hfinish (handsetOff s p n) ?_ (callEndedBeside_refl _ n) hempty fun hk' => absurd hk hk'
    rw [hleave, releaseIfEmpty, if_neg fun hh => hh.2 (by rw [heff]; exact hk)]
  · have hk' : ((handsetOff s p n).line n).eff.kind ≠ .nailed := by rwa [heff]
    by_cases hcalling : (s.line n).state = .calling
    · obtain ⟨hreleased, hbeside⟩ := calling_released (x := handsetOff s p n) (n := n) (hstate.trans hcalling) hempty
      refine hfinish _ (hleave.trans (releaseIfEmpty_calling hempty hk' (hstate.trans hcalling))) hbeside ?_ fun _ _ => hreleased.off
      rw [hreleased.line, hstate, hcalling, if_pos rfl]
    · by_cases hin : (s.line n).state = .connected ∨ (s.line n).state = .held
      · obtain ⟨hreleased, hbeside⟩ := connected_released (x := handsetOff s p n) (n := n) (by rwa [hstate]) hempty
        refine hfinish _ (hleave.trans (releaseIfEmpty_connected hempty hk' (by rwa [hstate]))) hbeside ?_ fun _ _ => hreleased.off
        rw [hreleased.line, hstate, if_neg hcalling]
        rfl
      · obtain ⟨hconnected, hheld⟩ := not_or.mp hin
        refine hfinish _ (hleave.trans (releaseIfEmpty_other ?_ ?_ ?_)) (callEndedBeside_refl _ n) hempty
          fun _ hh => absurd (hh.resolve_left hcalling) hin <;> rwa [hstate]

/-- What one handset's leaving of one line does (R7, R8, R17, R18). -/
theorem lineLeft_leaveLine (s : State) (p : Party) (n : Nat) : LineLeft s (leaveLine s p n) p n := by
  by_cases h : ∃ e ∈ (s.line n).participants, e.party = p
  · by_cases hother : ∃ e ∈ (s.line n).participants, e.party ≠ p
    · exact lineLeft_others h hother
    · exact lineLeft_last h fun e he => by_contra fun hp => hother ⟨e, he, hp⟩
  · have hany : ¬(s.line n).participants.any (fun e => decide (e.party = p)) = true := by simpa using h
    rw [leaveLine, if_neg hany]
    exact lineLeft_hcDrop h

end LeavingLines

end Sys2Proof.Machine

namespace Sys2Proof.Machine

/-! ## RELEASE (R56, R57) -/

section Releasing

variable {s t u : State} {p : Party} {n : Nat}

/-- What the leaving of several lines does to one of them. -/
structure LeftAmong (s t : State) (p : Party) (ns : List Nat) (n : Nat) : Prop where
  participants : (t.line n).participants = (s.line n).participants.filter (fun e => decide (e.party ≠ p))
  held         : (∃ e ∈ (s.line n).participants, e.party ≠ p) → (s.line n).state = .connected → (s.line n).eff.kind ≠ .nailed →
    (∃ e ∈ (s.line n).participants, e.party = p) → (∀ e ∈ (s.line n).participants, e.party ≠ p → e.mode = .hold) → (t.line n).state = .held
  released     : (∃ e ∈ (s.line n).participants, e.party = p) → (∀ e ∈ (s.line n).participants, e.party = p) → (s.line n).eff.kind ≠ .nailed →
    (s.line n).state = .calling ∨ (s.line n).state = .connected ∨ (s.line n).state = .held →
    t.context n = none ∧
    t.line n = (if (s.line n).state = .calling then { idleAfter (s.line n) s.frame with participants := [] }
      else clearingAfter (s.line n) (s.frame + 8000#48) s.frame) ∧
    ∀ c, (s.line n).active = some c → (∀ m ∈ ns, m ≠ n → (s.line m).active ≠ some c) → CircuitReleased s t n c (s.line n).state

/-- Later work that keeps a line, its context and its circuit keeps what leaving did to it. -/
theorem LeftAmong.beside {ns ms : List Nat} (h : LeftAmong s t p ns n) (hsub : ∀ m ∈ ns, m ∈ ms) (hline : u.line n = t.line n)
    (hcontext : t.context n = none → u.context n = none)
    (hcircuit : ∀ c, (s.line n).active = some c → (∀ m ∈ ms, m ≠ n → (s.line m).active ≠ some c) → CircuitBeside t u c) :
    LeftAmong s u p ms n where
  participants := by rw [hline, h.participants]
  held h1 h2 h3 h4 h5 := by rw [hline]; exact h.held h1 h2 h3 h4 h5
  released h1 h2 h3 h4 := by
    obtain ⟨hnone, hl, hc⟩ := h.released h1 h2 h3 h4
    exact ⟨hcontext hnone, hline.trans hl, fun c ha hothers =>
      (hc c ha fun m hm hne => hothers m (hsub m hm) hne).beside (hcircuit c ha hothers)⟩

/-- Earlier leaving of other lines does not matter to a line. -/
theorem LeftAmong.from {ns ms : List Nat} (h : LeftAmong t u p ns n) (hsub : ∀ m ∈ ns, m ∈ ms) (hlines : ∀ m ∈ n :: ns, t.line m = s.line m)
    (hframe : t.frame = s.frame) (hsending : t.cc.sending = s.cc.sending)
    (hcircuit : ∀ c, (s.line n).active = some c → (∀ m ∈ ms, m ≠ n → (s.line m).active ≠ some c) → CircuitBeside s t c) :
    LeftAmong s u p ms n := by
  have hline : t.line n = s.line n := hlines n (by simp)
  obtain ⟨hparticipants, hheld, hreleased⟩ := h
  rw [hline] at hparticipants hheld hreleased
  refine ⟨hparticipants, hheld, fun h1 h2 h3 h4 => ?_⟩
  obtain ⟨hnone, hl, hc⟩ := hreleased h1 h2 h3 h4
  rw [hframe] at hl
  refine ⟨hnone, hl, fun c ha hothers => (hc c ha fun m hm hne => ?_).from (hcircuit c ha hothers).same hsending⟩
  rw [hlines m (by simp [hm])]
  exact hothers m (hsub m hm) hne

theorem LineLeft.among (h : LineLeft s t p n) (ns : List Nat) : LeftAmong s t p ns n where
  participants := h.participants
  held := h.held
  released h1 h2 h3 h4 := by
    obtain ⟨hcontext, -, hline, hcircuit⟩ := h.released h1 h2 h3 h4
    exact ⟨hcontext, hline, fun c hc _ => hcircuit c hc⟩

/-- A handset leaves some lines, one after another. -/
def leaveLines (s : State) (p : Party) (ns : List Nat) : State := ns.foldl (fun s n => leaveLine s p n) s

/-- What a handset's leaving of several lines does. -/
structure LinesLeft (s t : State) (p : Party) (ns : List Nat) : Prop where
  work    : Work s t [.events, .lc, .cc, .link, .hc, .um]
  others  : ∀ m, m ∉ ns → t.line m = s.line m
  handset : t.handset p = ns.foldl HandsetRec.without (s.handset p)
  beside  : OnlyHandsets s t [p]
  each    : ∀ n ∈ ns, LeftAmong s t p ns n
  staying : (∀ n ∈ ns, ∃ e ∈ (s.line n).participants, e.party ≠ p) → t.um = s.um
  contexts : ∀ m, m ∉ ns → t.context m = s.context m
  circuits : ∀ c, (∀ n ∈ ns, (s.line n).active ≠ some c) → CircuitBeside s t c

theorem linesLeft_leaveLines (s : State) (p : Party) (ns : List Nat) (hnodup : ns.Nodup) : LinesLeft s (leaveLines s p ns) p ns := by
  induction ns generalizing s with
  | nil => exact ⟨.refl s _, fun _ _ => rfl, rfl, .refl s _, fun _ h => by simp at h, fun _ => rfl, fun _ _ => rfl, fun _ _ => circuitBeside_of_cc rfl⟩
  | cons a ns ih =>
    obtain ⟨ha, hnodup⟩ := List.nodup_cons.mp hnodup
    have hfirst := lineLeft_leaveLine s p a
    have hrest := ih (leaveLine s p a) hnodup
    have hstep : leaveLines s p (a :: ns) = leaveLines (leaveLine s p a) p ns := rfl
    generalize leaveLine s p a = x at hfirst hrest hstep
    rw [hstep]
    generalize leaveLines x p ns = v at hrest
    have hne : ∀ m ∈ ns, m ≠ a := fun m hm h => ha (h ▸ hm)
    have hlines : ∀ m ∈ ns, x.line m = s.line m := fun m hm => hfirst.others m (hne m hm)
    exact {
      work := hfirst.work.trans hrest.work
      others := fun m hm => by
        simp only [List.mem_cons, not_or] at hm
        rw [hrest.others m hm.2, hfirst.others m hm.1]
      handset := by rw [hrest.handset, hfirst.handset, List.foldl_cons]
      beside := hfirst.beside.trans hrest.beside
      each := fun n hn => by
        by_cases hin : n ∈ ns
        · refine (hrest.each n hin).from (fun m hm => by simp [hm]) (fun m hm => ?_) hfirst.work.call.frame hfirst.work.call.cc
            fun c _ hothers => hfirst.circuits c (hothers a (by simp) (hne n hin).symm)
          rcases List.mem_cons.mp hm with rfl | hm
          · exact hlines m hin
          · exact hlines m hm
        · have hna : n = a := by simpa [hin] using hn
          subst hna
          refine (hfirst.among [n]).beside (fun m hm => by simp at hm; simp [hm]) (hrest.others n ha) (fun h => by rw [hrest.contexts n ha, h])
            fun c _ hothers => hrest.circuits c fun m hm => ?_
          rw [hlines m hm]
          exact hothers m (by simp [hm]) (hne m hm)
      staying := fun h => by
        have hlater := hrest.staying fun m hm => by rw [hlines m hm]; exact h m (by simp [hm])
        rw [hlater, hfirst.staying (h a (by simp))]
      contexts := fun m hm => by
        simp only [List.mem_cons, not_or] at hm
        rw [hrest.contexts m hm.2, hfirst.contexts m hm.1]
      circuits := fun c hc => (hfirst.circuits c (hc a (by simp))).trans (hrest.circuits c fun m hm => by
        rw [hlines m hm]
        exact hc m (by simp [hm])) }

/-- A handset that leaves the lines of its current set has nothing current, and its hold stack. -/
theorem without_current (ns : List Nat) (h : HandsetRec) (hcurrent : h.current = ns.map .line) (hhold : ∀ n ∈ ns, n ∉ h.hold) :
    ns.foldl HandsetRec.without h = { current := [], hold := h.hold } := by
  have hfold : ∀ (ms : List Nat) (x : HandsetRec), ms.foldl HandsetRec.without x =
      { current := x.current.filter (fun e => decide (∀ m ∈ ms, e ≠ .line m)), hold := x.hold.filter (fun k => decide (∀ m ∈ ms, k ≠ m)) } := by
    intro ms
    induction ms with
    | nil => simp
    | cons a ms ih =>
      intro x
      rw [List.foldl_cons, ih]
      simp [HandsetRec.without, List.filter_filter, Bool.and_comm]
  rw [hfold, hcurrent]
  congr 1
  · rw [List.filter_eq_nil_iff]
    intro e he
    obtain ⟨m, hm, rfl⟩ := List.mem_map.mp he
    simpa using hm
  · refine List.filter_eq_self.mpr fun k hk => ?_
    simp only [decide_eq_true_eq]
    exact fun m hm hkm => hhold m hm (hkm ▸ hk)

end Releasing

end Sys2Proof.Machine

namespace Sys2Proof.Machine

section Resuming

variable {s x : State} {p : Party}

theorem work_resumeTop (x : State) (p : Party) : Work x (resumeTop x p) [.events, .lc, .hc] := by
  unfold resumeTop
  split
  · exact ((work_modHandset x p _).mono (by decide)).step (work_setMode_lc _ _ p .active)
  · exact .refl x _

/-- Resuming leaves everything but the top line, the handset and events (R57). -/
theorem resumeTop_rest (x : State) (p : Party) : ModesOnly x (resumeTop x p) ∧ OnlyHandsets x (resumeTop x p) [p] ∧
    (∀ q, (resumeTop x p).position q = x.position q) ∧ ∀ k, (x.handset p).hold.getLast? ≠ some k → (resumeTop x p).line k = x.line k := by
  unfold resumeTop
  split
  · next m hm =>
    have hhc := setMode_hc (modHandset x p fun h => { current := [.line m], hold := h.hold.filter (· ≠ m) }) m p .active
    refine ⟨(modesOnly_modHandset x p _).trans (modesOnly_setMode _ m p .active), (onlyHandsets_modHandset x p _).congr hhc, fun q => ?_,
      fun k hk => ?_⟩
    · rw [State.position_congr hhc]
      simp
    · have hne : k ≠ m := fun h => hk (by rw [hm, h])
      rw [setMode_line, if_neg hne]
      simp
  · exact ⟨.refl x, .refl x _, fun _ => rfl, fun _ _ => rfl⟩

/-- The top held line becomes current, and is CONNECTED again where the handset held it (R8, R57). -/
theorem topResumed_resumeTop (hcurrent : (x.handset p).current = []) : TopResumed x (resumeTop x p) p where
  resumed m hm := by
    have htop : resumeTop x p = setMode (modHandset x p fun h => { current := [.line m], hold := h.hold.filter (· ≠ m) }) m p .active := by
      simp only [resumeTop, hm]
    rw [htop]
    refine ⟨?_, fun hs hp => ?_⟩
    · rw [State.handset_congr (setMode_hc _ m p .active)]
      simp
    · rw [setMode_line, if_pos rfl]
      have hline : (modHandset x p fun h => { current := [.line m], hold := h.hold.filter (· ≠ m) }).line m = x.line m := by simp
      have hany : ((x.line m).withMode p .active).participants.any (fun e => decide (e.mode = .active)) = true :=
        List.any_eq_true.mpr ⟨{ party := p, mode := .active }, List.mem_map.mpr ⟨_, hp, by simp⟩, by simp⟩
      have hheld : ((x.line m).withMode p .active).state = .held := hs
      rw [hline, LineRec.moded, if_neg (by simp [hheld]), if_pos ⟨hheld, hany⟩]
      rfl
  empty hhold := by
    have hnone : resumeTop x p = x := by simp [resumeTop, hhold]
    rw [hnone]
    cases hx : x.handset p with
    | mk c h => simp_all

/-- A resume seen from a state with the same stack and the same top line, and up to a state with the same records. -/
theorem TopResumed.congr {y t : State} (h : TopResumed x y p) (hhold : (x.handset p).hold = (s.handset p).hold)
    (hline : ∀ m, (s.handset p).hold.getLast? = some m → x.line m = s.line m) (hhandset : t.handset p = y.handset p)
    (hlines : ∀ m, t.line m = y.line m) : TopResumed s t p where
  resumed m hm := by
    obtain ⟨hh, hc⟩ := h.resumed m (by rw [hhold, hm])
    rw [hhold] at hh
    rw [hline m hm] at hc
    exact ⟨hhandset.trans hh, fun h1 h2 => by rw [hlines, hc h1 h2]⟩
  empty he := hhandset.trans (h.empty (by rw [hhold, he]))

theorem releaseHandset_eq (s : State) (p : Party) :
    releaseHandset s p = complete s (resumeTop ((s.handset p).current.foldl (releaseEntry p) s) p) := rfl

theorem releaseEntries_lines (s : State) (p : Party) (ns : List Nat) : (ns.map CurEntry.line).foldl (releaseEntry p) s = leaveLines s p ns := by
  rw [leaveLines, List.foldl_map]
  rfl

theorem releaseEntries_intercom (s : State) (p : Party) (c : Nat) :
    [CurEntry.intercom c].foldl (releaseEntry p) s = dropIntercom (endIntercom s c (.left p)) p c := by
  rw [List.foldl_cons, List.foldl_nil, releaseEntry]

/-- A command's end lists no circuit that was not listed (R34). -/
theorem settle_listed (b x : State) (c : Nat) (h : c ∈ (settle b x).cc.pendingList) : c ∈ x.cc.pendingList := by
  have hcc : (settle b x).cc = (startSending (lookAgain x)).cc := by simp [settle]
  have hpending : (lookAgain x).cc = x.cc := by simp
  rw [hcc] at h
  rw [← hpending]
  generalize lookAgain x = v at h
  unfold startSending at h
  split at h
  · next d rest hsend hlist =>
    rw [hlist]
    refine List.mem_cons_of_mem _ ?_
    dsimp only at h
    split at h <;> simpa using h
  · exact h

theorem circuitBeside_requestEnd (b u : State) (ws : List Word) (r : Result) (c : Nat) : CircuitBeside u (requestEnd b u ws r) c := by
  refine ⟨?_, fun h => ?_⟩
  · rw [requestEnd_circuit]
    exact .refl _
  · simpa using settle_listed _ _ c h

theorem leftAmong_requestEnd {u : State} {ns : List Nat} {n : Nat} (h : LeftAmong s u p ns n) (b : State) (ws : List Word) (r : Result) :
    LeftAmong s (requestEnd b u ws r) p ns n :=
  h.beside (fun _ hm => hm) (requestEnd_line ..) (requestEnd_context_none b u ws r n) fun c _ _ => circuitBeside_requestEnd b u ws r c

/-- RELEASE of lines: each is left, and the top of the stack resumes (R56, R57). -/
theorem releaseHandset_lines (ns : List Nat) (hnodup : ns.Nodup) (hcurrent : (s.handset p).current = ns.map .line)
    (hhold : ∀ n ∈ ns, n ∉ (s.handset p).hold) :
    Work s (releaseHandset s p) [.events, .alarms, .lc, .cc, .link, .hc, .ra, .um] ∧ OnlyHandsets s (releaseHandset s p) [p] ∧
    TopResumed s (releaseHandset s p) p ∧ (∀ n ∈ ns, LeftAmong s (releaseHandset s p) p ns n) ∧
    (releaseHandset s p).um = (leaveLines s p ns).um ∧
    ∀ m, m ∉ ns → (s.handset p).hold.getLast? ≠ some m → (releaseHandset s p).line m = s.line m := by
  have hleft := linesLeft_leaveLines s p ns hnodup
  rw [releaseHandset_eq, hcurrent, releaseEntries_lines]
  generalize leaveLines s p ns = x at hleft
  have hrecord : x.handset p = { current := [], hold := (s.handset p).hold } := hleft.handset.trans (without_current ns _ hcurrent hhold)
  obtain ⟨hmodes, honly, -, hlines⟩ := resumeTop_rest x p
  have htop := topResumed_resumeTop (x := x) (p := p) (by rw [hrecord])
  have hnot : ∀ m, (s.handset p).hold.getLast? = some m → m ∉ ns := fun m hm hin => hhold m hin (List.mem_of_getLast? hm)
  have hstack : (x.handset p).hold = (s.handset p).hold := by rw [hrecord]
  refine ⟨((hleft.work.mono (by decide)).step (work_resumeTop x p)).step (work_complete _ s), (hleft.beside.trans honly).complete,
    htop.congr hstack (fun m hm => hleft.others m (hnot m hm)) (complete_handset ..) (complete_line _ s), fun n hn => ?_, ?_, fun m hm hlast => ?_⟩
  · have hkept : (s.handset p).hold.getLast? ≠ some n := fun h => hnot n h hn
    refine (hleft.each n hn).beside (fun _ hm => hm) ?_ (fun h => ?_) fun c _ _ => circuitBeside_of_cc ?_
    · rw [complete_line, hlines n (by rw [hstack]; exact hkept)]
    · rw [complete_context, State.context_congr hmodes.um, h]
    · rw [complete_cc, hmodes.cc]
  · rw [complete_um, hmodes.um]
  · rw [complete_line, hlines m (by rw [hstack]; exact hlast), hleft.others m hm]

/-- The handset that has left a call hangs up, and the top of its stack resumes (R56, R57). -/
theorem hungUp_resumed {e t : State} {c : Nat} (ht : t = complete s (resumeTop (dropIntercom e p c) p)) (hcurrent : (s.handset p).current = [.intercom c]) (hlc : e.lc = s.lc)
    (hparty : e.handset p = s.handset p ∨ e.handset p = (s.handset p).hungUp c) :
    Work e t [.events, .alarms, .lc, .hc, .ra] ∧ (∀ y, t.call y = e.call y) ∧
    (∀ q : Party, q.place ≠ p.place → t.handset q = e.handset q) ∧ (∀ q, (t.position q).reach = (e.position q).reach) ∧ TopResumed s t p ∧
    ∀ m, (s.handset p).hold.getLast? ≠ some m → t.line m = s.line m := by
  have hx : (dropIntercom e p c).handset p = { current := [], hold := (s.handset p).hold } := by
    rw [dropIntercom_handset, if_pos rfl]
    rcases hparty with h | h <;> simp [h, HandsetRec.hungUp, hcurrent]
  have hxlc : (dropIntercom e p c).lc = s.lc := by simpa [dropIntercom] using hlc
  have hdropped : OnlyHandsets e (dropIntercom e p c) [p] := onlyHandsets_modHandset e p _
  have hwork : Work e (dropIntercom e p c) [.hc] := work_modHandset e p _
  have hreach : ∀ q, (dropIntercom e p c).position q = e.position q := fun q => by simp [dropIntercom]
  generalize dropIntercom e p c = x at ht hx hxlc hdropped hwork hreach
  subst ht
  obtain ⟨-, honly, hpositions, hlines⟩ := resumeTop_rest x p
  have hstack : (x.handset p).hold = (s.handset p).hold := by rw [hx]
  refine ⟨((hwork.mono (by decide)).step (work_resumeTop x p)).step (work_complete _ s), fun y => ?_, fun q hq => ?_, fun q => ?_,
    (topResumed_resumeTop (by rw [hx])).congr hstack (fun m _ => State.line_congr hxlc m) (complete_handset ..) (complete_line _ s), fun m hm => ?_⟩
  · rw [complete_call, State.call, State.call, (hdropped.trans honly).calls]
  · rw [complete_handset, (hdropped.trans honly).handsets q (by simpa using hq)]
  · rw [complete_reach, hpositions, hreach]
  · rw [complete_line, hlines m (by rw [hstack]; exact hm), State.line_congr hxlc]

/-- RELEASE of an intercom call: it ends, and the top of the stack resumes (R56, R57, R72). -/
theorem releaseHandset_intercom {c : Nat} (hcurrent : (s.handset p).current = [.intercom c]) :
    Work s (releaseHandset s p) [.events, .alarms, .lc, .hc, .ra] ∧ CallLeft s (releaseHandset s p) c p ∧
    TopResumed s (releaseHandset s p) p ∧ (∀ m, (s.handset p).hold.getLast? ≠ some m → (releaseHandset s p).line m = s.line m) ∧
    EventsKept (endIntercom s c (.left p)) (releaseHandset s p) := by
  obtain ⟨-, hlc, -, -, hparty, -⟩ := endIntercom_spec s c (.left p)
  have hself : (endIntercom s c (.left p)).handset p = s.handset p ∨ (endIntercom s c (.left p)).handset p = (s.handset p).hungUp c := by
    rw [hparty]
    split
    · exact .inr rfl
    · exact .inl rfl
  have hrelease : releaseHandset s p = complete s (resumeTop (dropIntercom (endIntercom s c (.left p)) p c) p) := by
    rw [releaseHandset_eq, hcurrent, releaseEntries_intercom]
  obtain ⟨hwork, hcalls, hhandsets, hreach, htop, hlines⟩ := hungUp_resumed hrelease hcurrent hlc hself
  exact ⟨((work_endIntercom s c _).mono (by decide)).trans hwork, callLeft_of hcalls hhandsets hreach, htop, hlines, hwork.events⟩

end Resuming

/-- Settles O56: the lines left (R56) or the call (R72), and the top resumed (R57). -/
theorem releaseResumesTheTop : Obligations.ReleaseResumesTheTop := by
  unfold Obligations.ReleaseResumesTheTop
  intro s ws p hready hp
  have he := hready.head
  have hexec : ∀ {u : State}, (s.handset p).current ≠ [] → releaseHandset s p = u → CallWork s u →
      exec .release s = .next (requestEnd s u ws .ok) := fun hne hu hw => by
    have hown : ownRelease s ws = (releaseHandset s p, .ok) := by rw [ownRelease, hp.party, if_neg hne]
    exact request_next ws _ hready .handset ownRelease (commonRefusal_handset hp) (hown.trans (by rw [hu])) hw
  refine ⟨fun ns hns hnodup hcurrent hhold => ?_, fun x hcurrent => ?_, fun hempty => ?_⟩
  · obtain ⟨hwork, hbeside, htop, heach, hum, hother⟩ := releaseHandset_lines ns hnodup hcurrent hhold
    have hmode := hwork.call.um
    simp only [Prod.mk.injEq] at hmode
    refine ⟨_, hexec (by simpa [hcurrent] using hns) rfl hwork.call, hbeside.congr (requestEnd_hc ..),
      htop.congr rfl (fun _ _ => rfl) (requestEnd_handset ..) (fun m => requestEnd_line ..), fun n hn => ?_, fun hall => ?_,
      fun m hm hlast => by rw [requestEnd_line, hother m hm hlast], hwork.call.finished ws _ he s, (hwork.requestEnd ws _ he s).mono (by decide)⟩
    · obtain ⟨hparticipants, hheld, hreleased⟩ := leftAmong_requestEnd (heach n hn) s ws .ok
      refine ⟨hparticipants, hheld, fun hlone hk hs => ?_⟩
      have hin : ∃ e ∈ (s.line n).participants, e.party = p := ⟨{ party := p, mode := .active }, by simp [hlone], rfl⟩
      have hall : ∀ e ∈ (s.line n).participants, e.party = p := fun e hmem => by rw [hlone] at hmem; simp_all
      obtain ⟨hcontext, hline, hcircuit⟩ := hreleased hin hall hk hs
      refine ⟨hcontext, fun hone => ?_, hline, fun c hc hothers => ?_⟩
      · subst hone
        have hupdates := ((lineLeft_leaveLine s p n).released hin hall hk hs).updates
        have hsingle : leaveLines s p [n] = leaveLine s p n := rfl
        rw [hsingle] at hum
        exact ⟨by rw [requestEnd_updates, hum, hupdates], by rw [requestEnd_enable]; exact hmode.1, by rw [requestEnd_format]; exact hmode.2.1⟩
      · obtain ⟨hdesired, hfar, hkept, hfreed⟩ := hcircuit c hc hothers
        exact ⟨hdesired, hfar, hkept, hfreed⟩
    · have hstays := (linesLeft_leaveLines s p ns hnodup).staying hall
      exact ⟨by rw [requestEnd_updates, hum, hstays], by rw [requestEnd_enable]; exact hmode.1, by rw [requestEnd_format]; exact hmode.2.1⟩
  · obtain ⟨hwork, hleft, htop, hother, hkept⟩ := releaseHandset_intercom hcurrent
    have hevent := hkept _ _ _ (endIntercom_event s x (.left p) he hready.read hready.unread)
    refine ⟨_, hexec (by simp [hcurrent]) rfl hwork.call, ?_, htop.congr rfl (fun _ _ => rfl) (requestEnd_handset ..) (fun m => requestEnd_line ..),
      hevent.requestEnd ws _ s, fun m hm => by rw [requestEnd_line, hother m hm], hwork.call.finished ws _ he s,
      (hwork.requestEnd ws _ he s).mono (by decide)⟩
    obtain ⟨hrecord, hcalls, hparties, hhandsets, hreach⟩ := hleft
    exact ⟨by rw [requestEnd_call, hrecord], fun y hy => by rw [requestEnd_call, hcalls y hy],
      fun q hq hparty => by rw [requestEnd_handset, hparties q hq hparty], fun q hq hparty => by rw [requestEnd_handset, hhandsets q hq hparty],
      fun q hq => by rw [requestEnd_position, hreach q hq]⟩
  · have hown : ownRelease s ws = (s, .noCurrent) := by rw [ownRelease, hp.party, if_pos hempty]
    exact ⟨_, request_unchanged ws _ hready .handset ownRelease (commonRefusal_handset hp) hown⟩

end Sys2Proof.Machine

namespace Sys2Proof.Machine

/-! ## Handsets that leave all their lines (R63, R64) -/

section LeavingAll

variable {s t u : State}

/-- What the leaving of handsets makes of a line, by whether any stays (R8, R18). -/
structure LineRec.Leaving (l r : LineRec) (now : Frame) : Prop where
  rest  : l.participants = [] → r = l
  going : r.participants ≠ [] → r.eff.kind = l.eff.kind ∧
    (r.state = l.state ∨ ((l.state = .connected ∨ l.state = .held) ∧ (r.state = .connected ∨ r.state = .held)))
  gone  : l.participants ≠ [] → r.participants = [] → l.eff.kind ≠ .nailed → (l.state = .calling → r.state = .idle) ∧
    (l.state = .connected ∨ l.state = .held → r.state = .clearing ∧ r.stateTimer = some (.guard, now + 8000#48))

theorem LineRec.Leaving.refl (l : LineRec) (now : Frame) : l.Leaving l now :=
  ⟨fun _ => rfl, fun _ => ⟨rfl, .inl rfl⟩, fun h1 h2 => absurd h2 h1⟩

theorem LineRec.Leaving.trans {l m r : LineRec} {now : Frame} (h : l.Leaving m now) (k : m.Leaving r now) : l.Leaving r now where
  rest hl := by
    have hm := h.rest hl
    rw [k.rest (by rw [hm, hl]), hm]
  going hr := by
    have hm : m.participants ≠ [] := fun hm => hr (by rw [k.rest hm, hm])
    obtain ⟨hkind, hstate⟩ := h.going hm
    obtain ⟨hkind', hstate'⟩ := k.going hr
    refine ⟨hkind'.trans hkind, ?_⟩
    rcases hstate with hs | ⟨hl, hm'⟩
    · rw [← hs]
      exact hstate'
    · refine .inr ⟨hl, ?_⟩
      rcases hstate' with hs | ⟨-, hr'⟩
      · rwa [hs]
      · exact hr'
  gone hl hr hk := by
    by_cases hm : m.participants = []
    · rw [k.rest hm]
      exact h.gone hl hm hk
    · obtain ⟨hkind, hstate⟩ := h.going hm
      obtain ⟨hcalling, hconnected⟩ := k.gone hm hr (by rwa [hkind])
      rcases hstate with hs | ⟨hl', hm'⟩
      · rw [hs] at hcalling hconnected
        exact ⟨hcalling, hconnected⟩
      · exact ⟨fun hc => by rcases hl' with h | h <;> simp [hc] at h, fun _ => hconnected hm'⟩

theorem LineRec.moded_state (l : LineRec) (now : Frame) :
    (l.moded now).state = l.state ∨ ((l.state = .connected ∨ l.state = .held) ∧ ((l.moded now).state = .connected ∨ (l.moded now).state = .held)) := by
  unfold LineRec.moded
  split
  · next h => exact .inr ⟨.inl h.1, .inr rfl⟩
  · split
    · next h => exact .inr ⟨.inr h.1, .inl rfl⟩
    · exact .inl rfl

theorem leaveLine_of_notParticipant {p : Party} {n : Nat} (h : ¬∃ e ∈ (s.line n).participants, e.party = p) : leaveLine s p n = hcDrop s p n := by
  have hany : ¬(s.line n).participants.any (fun e => decide (e.party = p)) = true := by simpa using h
  rw [leaveLine, if_neg hany]

/-- One handset leaves one line: what this makes of the line (R8, R18). -/
theorem leaving_leaveLine (s : State) (p : Party) (n : Nat) : (s.line n).Leaving ((leaveLine s p n).line n) s.frame := by
  by_cases h : ∃ e ∈ (s.line n).participants, e.party = p
  · have hleft := lineLeft_leaveLine s p n
    have hsome : (s.line n).participants ≠ [] := by
      obtain ⟨e, he, -⟩ := h
      exact List.ne_nil_of_mem he
    by_cases hother : ∃ e ∈ (s.line n).participants, e.party ≠ p
    · have hne : ((s.line n).left p).participants ≠ [] := by
        obtain ⟨e, he, hp⟩ := hother
        exact List.ne_nil_of_mem (List.mem_filter.mpr ⟨he, by simpa using hp⟩)
      have hline : (leaveLine s p n).line n = ((s.line n).left p).moded s.frame := by
        have happly : (applyModes (handsetOff s p n) n).line n = ((s.line n).left p).moded s.frame := by
          rw [applyModes_line, if_pos rfl, handsetOff_line, if_pos rfl, handsetOff_rest.2.2.2]
        rw [leaveLine_of_participant h, releaseIfEmpty, if_neg fun hh => hne (by rw [← hh.1, happly, LineRec.moded_participants]), happly]
      refine ⟨fun hl => absurd hl hsome, fun _ => ?_, fun _ hr => absurd hr ?_⟩
      · rw [hline]
        exact ⟨by rw [LineRec.moded_eff]; rfl, LineRec.moded_state ((s.line n).left p) s.frame⟩
      · rw [hline, LineRec.moded_participants]
        exact hne
    · have hall : ∀ e ∈ (s.line n).participants, e.party = p := fun e he => by_contra fun hp => hother ⟨e, he, hp⟩
      have hnil : ((leaveLine s p n).line n).participants = [] := by
        rw [hleft.participants]
        exact List.filter_eq_nil_iff.mpr fun e he => by simpa using hall e he
      refine ⟨fun hl => absurd hl hsome, fun hr => absurd hnil hr, fun _ _ hk => ⟨fun hs => ?_, fun hs => ?_⟩⟩
      · rw [(hleft.released h hall hk (.inl hs)).line, if_pos hs]
        rfl
      · have hcalling : (s.line n).state ≠ .calling := by rcases hs with hs | hs <;> simp [hs]
        rw [(hleft.released h hall hk (.inr hs)).line, if_neg hcalling]
        exact ⟨rfl, rfl⟩
  · rw [leaveLine_of_notParticipant h]
    have hline : (hcDrop s p n).line n = s.line n := by simp [hcDrop]
    rw [hline]
    exact .refl _ _

theorem leaveLine_alerts (s : State) (p : Party) (n q : Nat) : (leaveLine s p n).alertList q = s.alertList q := by
  have hoff : (handsetOff s p n).alertList q = s.alertList q := by simp [handsetOff, removeParticipant, hcDrop]
  have hmodes : (applyModes (handsetOff s p n) n).alertList q = s.alertList q := by
    rw [← hoff, State.alertList, State.alertList, (modesOnly_applyModes _ n).alerts]
  by_cases h : ∃ e ∈ (s.line n).participants, e.party = p
  · rw [leaveLine_of_participant h]
    generalize applyModes (handsetOff s p n) n = x at hmodes
    rw [← hmodes]
    unfold releaseIfEmpty
    dsimp only
    split
    · split
      · rw [changeState_alertList, callEnd_alertList, State.alertList, State.alertList, (giveUpCircuit_rest x n false).2.2.2.2]
      · exact (enterClearing_rest x n _ _ _).2.2.2 q
      · exact (enterClearing_rest x n _ _ _).2.2.2 q
      · rfl
    · rfl
  · rw [leaveLine_of_notParticipant h]
    simp [hcDrop]

/-- Handsets leave lines, in some order. -/
def leaveAll (s : State) (es : List (Party × Nat)) : State := es.foldl (fun s e => leaveLine s e.1 e.2) s

/-- A handset's record without the lines it leaves. -/
def HandsetRec.withoutAll (h : HandsetRec) (q : Party) (es : List (Party × Nat)) : HandsetRec :=
  es.foldl (fun h e => if q.place = e.1.place then h.without e.2 else h) h

/-- What the leaving of lines by handsets does (R7, R17, R18). -/
structure LeftAll (s t : State) (es : List (Party × Nat)) : Prop where
  work         : Work s t [.events, .lc, .cc, .link, .hc, .um]
  participants : ∀ n, (t.line n).participants = (s.line n).participants.filter (fun e => decide ((e.party, n) ∉ es))
  leaving      : ∀ n, (s.line n).Leaving (t.line n) s.frame
  handsets     : ∀ q, t.handset q = (s.handset q).withoutAll q es
  calls        : t.hc.calls = s.hc.calls
  alerts       : ∀ q, t.alertList q = s.alertList q

theorem leftAll_leaveAll (s : State) (es : List (Party × Nat)) : LeftAll s (leaveAll s es) es := by
  induction es generalizing s with
  | nil => exact ⟨.refl s _, fun n => by simp [leaveAll], fun n => .refl _ _, fun q => rfl, rfl, fun q => rfl⟩
  | cons e es ih =>
    obtain ⟨p, a⟩ := e
    have hfirst := lineLeft_leaveLine s p a
    have hleaving := leaving_leaveLine s p a
    have halerts := leaveLine_alerts s p a
    have hrest := ih (leaveLine s p a)
    have hstep : leaveAll s ((p, a) :: es) = leaveAll (leaveLine s p a) es := rfl
    rw [hstep]
    generalize leaveLine s p a = x at hfirst hleaving halerts hrest
    generalize leaveAll x es = v at hrest
    have hframe := hfirst.work.call.frame
    exact {
      work := hfirst.work.trans hrest.work
      participants := fun n => by
        rw [hrest.participants]
        by_cases hn : n = a
        · subst hn
          rw [hfirst.participants, List.filter_filter]
          refine List.filter_congr fun e _ => ?_
          by_cases hp : e.party = p <;> simp [hp]
        · rw [hfirst.others n hn]
          refine List.filter_congr fun e _ => ?_
          simp [hn]
      leaving := fun n => by
        have hlater := hrest.leaving n
        rw [hframe] at hlater
        by_cases hn : n = a
        · subst hn
          exact hleaving.trans hlater
        · rwa [hfirst.others n hn] at hlater
      handsets := fun q => by
        rw [hrest.handsets, HandsetRec.withoutAll, HandsetRec.withoutAll, List.foldl_cons]
        by_cases hq : q.place = p.place
        · have hsame : ∀ y : State, y.handset q = y.handset p := fun y => congrArg (Table.get HandsetRec.cold y.hc.handsets) hq
          rw [if_pos hq, hsame, hfirst.handset, hsame]
        · rw [if_neg hq, hfirst.beside.handsets q (by simpa using hq)]
      calls := hrest.calls.trans hfirst.beside.calls
      alerts := fun q => (hrest.alerts q).trans (halerts q) }

/-- The lines that a handset leaves when it leaves them all. -/
def linesOf (s : State) (p : Party) : List (Party × Nat) :=
  (currentLines (s.handset p).current ++ (s.handset p).hold.reverse).map fun n => (p, n)

theorem dropHandset_eq (s : State) (p : Party) : dropHandset s p = leaveAll s (linesOf s p) := by
  rw [leaveAll, linesOf, List.foldl_map]
  rfl

theorem mem_currentLines (cur : List CurEntry) (n : Nat) : n ∈ currentLines cur ↔ CurEntry.line n ∈ cur := by
  induction cur with
  | nil => simp [currentLines]
  | cons e cur ih =>
    cases e with
    | line m =>
      have hcons : currentLines (.line m :: cur) = m :: currentLines cur := rfl
      rw [hcons, List.mem_cons, List.mem_cons, ih]
      simp
    | intercom c =>
      have hcons : currentLines (.intercom c :: cur) = currentLines cur := rfl
      rw [hcons, ih]
      simp

theorem mem_linesOf (s : State) (p q : Party) (n : Nat) :
    (q, n) ∈ linesOf s p ↔ q = p ∧ (CurEntry.line n ∈ (s.handset p).current ∨ n ∈ (s.handset p).hold) := by
  simp only [linesOf, List.mem_map, List.mem_append, List.mem_reverse, mem_currentLines, Prod.mk.injEq]
  constructor
  · rintro ⟨m, hm, rfl, rfl⟩
    exact ⟨rfl, hm⟩
  · rintro ⟨rfl, hm⟩
    exact ⟨n, hm, rfl, rfl⟩

/-- A record without lines, entry by entry. -/
theorem withoutAll_eq (h : HandsetRec) (q : Party) (es : List (Party × Nat)) : h.withoutAll q es =
    { current := h.current.filter fun e => decide (∀ x ∈ es, q.place = x.1.place → e ≠ .line x.2)
      hold := h.hold.filter fun n => decide (∀ x ∈ es, q.place = x.1.place → n ≠ x.2) } := by
  induction es generalizing h with
  | nil => simp [HandsetRec.withoutAll]
  | cons x es ih =>
    have hstep : h.withoutAll q (x :: es) = (if q.place = x.1.place then h.without x.2 else h).withoutAll q es := rfl
    rw [hstep, ih]
    by_cases hq : q.place = x.1.place
    · rw [if_pos hq, HandsetRec.without, List.filter_filter, List.filter_filter]
      congr 1 <;> exact List.filter_congr fun e _ => by rw [Bool.eq_iff_iff]; simp [hq, and_comm]
    · rw [if_neg hq]
      congr 1 <;> exact List.filter_congr fun e _ => by rw [Bool.eq_iff_iff]; simp [hq]

end LeavingAll

end Sys2Proof.Machine

namespace Sys2Proof.Machine

section EndingCalls

variable {s t u : State}

/-- What the end of some intercom calls leaves of the handsets and the calls (R63, R72). -/
structure CallsEnded (s t : State) : Prop where
  work  : Work s t [.events, .hc]
  modes : ModesOnly s t
  lc    : t.lc = s.lc
  calls : ∀ c, t.call c = s.call c ∨ t.call c = IcmRec.cold
  hold  : ∀ q, (t.handset q).hold = (s.handset q).hold
  lines : ∀ q n, CurEntry.line n ∈ (t.handset q).current ↔ CurEntry.line n ∈ (s.handset q).current
  aside : ∀ q, (∀ c, CurEntry.intercom c ∉ (s.handset q).current) → t.handset q = s.handset q

theorem CallsEnded.refl (s : State) : CallsEnded s s :=
  ⟨.refl s _, .refl s, rfl, fun _ => .inl rfl, fun _ => rfl, fun _ _ => Iff.rfl, fun _ _ => rfl⟩

theorem CallsEnded.trans (h : CallsEnded s t) (k : CallsEnded t u) : CallsEnded s u where
  work := h.work.trans k.work
  modes := h.modes.trans k.modes
  lc := k.lc.trans h.lc
  calls c := by
    rcases k.calls c with hk | hk
    · rw [hk]
      exact h.calls c
    · exact .inr hk
  hold q := (k.hold q).trans (h.hold q)
  lines q n := (k.lines q n).trans (h.lines q n)
  aside q hq := by
    have hsame := h.aside q hq
    rw [k.aside q (by rw [hsame]; exact hq), hsame]

theorem callsEnded_endIntercom (s : State) (c : Nat) (why : IcmEnd) : CallsEnded s (endIntercom s c why) := by
  obtain ⟨hmodes, hlc, hrecord, hothers, hparty, -⟩ := endIntercom_spec s c why
  have hwork := work_endIntercom s c why
  generalize endIntercom s c why = t at *
  refine ⟨hwork, hmodes, hlc, fun d => ?_, fun q => ?_, fun q n => ?_, fun q hq => ?_⟩
  · by_cases hd : d = c
    · exact .inr (hd ▸ hrecord)
    · exact .inl (hothers d hd)
  · rw [hparty]
    split <;> rfl
  · rw [hparty]
    split <;> simp [HandsetRec.hungUp]
  · rw [hparty]
    split
    · have hsame : (s.handset q).current.filter (· ≠ .intercom c) = (s.handset q).current :=
        List.filter_eq_self.mpr fun e he => by
          have hne : e ≠ .intercom c := fun heq => hq c (heq ▸ he)
          simpa using hne
      simp only [HandsetRec.hungUp, hsame]
    · rfl

/-- One step of the end of the calls for which a condition holds. -/
def endCallIf (cond : IcmRec → Bool) (why : IcmEnd) (s : State) (c : Nat) : State :=
  if (s.call c).state ≠ .free ∧ cond (s.call c) = true then endIntercom s c why else s

theorem callsEnded_endCallIf (cond : IcmRec → Bool) (why : IcmEnd) (s : State) (c : Nat) :
    CallsEnded s (endCallIf cond why s c) ∧
    ((s.call c).state ≠ .free → cond (s.call c) = true → (endCallIf cond why s c).call c = IcmRec.cold) := by
  have hspec := callsEnded_endIntercom s c why
  have hrecord := (endIntercom_spec s c why).2.2.1
  unfold endCallIf
  generalize endIntercom s c why = t at hspec hrecord
  split
  · exact ⟨hspec, fun _ _ => hrecord⟩
  · next h => exact ⟨.refl s, fun h1 h2 => absurd ⟨h1, h2⟩ h⟩

theorem callsEnded_foldl (cond : IcmRec → Bool) (why : IcmEnd) (cs : List Nat) (s : State) :
    CallsEnded s (cs.foldl (endCallIf cond why) s) ∧
    ∀ c ∈ cs, (s.call c).state ≠ .free → cond (s.call c) = true → (cs.foldl (endCallIf cond why) s).call c = IcmRec.cold := by
  induction cs generalizing s with
  | nil => exact ⟨.refl s, fun _ h => by simp at h⟩
  | cons a cs ih =>
    obtain ⟨hfirst, hended⟩ := callsEnded_endCallIf cond why s a
    obtain ⟨hrest, hlater⟩ := ih (endCallIf cond why s a)
    rw [List.foldl_cons]
    generalize endCallIf cond why s a = x at hfirst hended hrest hlater
    generalize cs.foldl (endCallIf cond why) x = v at hrest hlater
    have hcold : ∀ c, x.call c = IcmRec.cold → v.call c = IcmRec.cold := fun c hc => by
      rcases hrest.calls c with h | h
      · rw [h, hc]
      · exact h
    refine ⟨hfirst.trans hrest, fun c hc hs hcond => ?_⟩
    rcases hfirst.calls c with hx | hx
    · rcases List.mem_cons.mp hc with rfl | hc
      · exact hcold c (hended hs hcond)
      · exact hlater c hc (by rwa [hx]) (by rwa [hx])
    · exact hcold c hx

/-- The calls for which a condition holds end; the rest of the part goes on (R63). -/
theorem endCallsWhere_spec (s : State) (cond : IcmRec → Bool) (why : IcmEnd) :
    CallsEnded s (endCallsWhere s cond why) ∧
    ∀ c < 16, (s.call c).state ≠ .free → cond (s.call c) = true → (endCallsWhere s cond why).call c = IcmRec.cold := by
  obtain ⟨hended, hcold⟩ := callsEnded_foldl cond why (List.range 16) s
  exact ⟨hended, fun c hc => hcold c (by simpa using hc)⟩

end EndingCalls

section HandsetsGone

variable {s t : State} {ps : List Party}

theorem leftAll_dropHandset (s : State) (p : Party) : LeftAll s (dropHandset s p) (linesOf s p) := by
  rw [dropHandset_eq]
  exact leftAll_leaveAll s _

/-- A handset elsewhere leaves nothing. -/
theorem withoutAll_linesOf_ne (s : State) (p q : Party) (h : HandsetRec) (hq : q.place ≠ p.place) : h.withoutAll q (linesOf s p) = h := by
  have hother : ∀ x ∈ linesOf s p, q.place ≠ x.1.place := fun x hx => by
    obtain ⟨hp, -⟩ := (mem_linesOf s p x.1 x.2).mp hx
    rw [hp]
    exact hq
  rw [withoutAll_eq]
  cases h with
  | mk c k =>
    congr 1 <;> exact List.filter_eq_self.mpr fun e _ => by simpa using fun a b hx hpl => absurd hpl (hother (a, b) hx)

/-- A handset that leaves all its lines has none current and none held. -/
theorem withoutAll_linesOf_self (s : State) (p : Party) : ((s.handset p).withoutAll p (linesOf s p)).hold = [] ∧
    (∀ n, CurEntry.line n ∉ ((s.handset p).withoutAll p (linesOf s p)).current) ∧
    ∀ c, CurEntry.intercom c ∈ ((s.handset p).withoutAll p (linesOf s p)).current → CurEntry.intercom c ∈ (s.handset p).current := by
  have hmem : ∀ n, CurEntry.line n ∈ (s.handset p).current ∨ n ∈ (s.handset p).hold → (p, n) ∈ linesOf s p := fun n hn =>
    (mem_linesOf s p p n).mpr ⟨rfl, hn⟩
  rw [withoutAll_eq]
  refine ⟨List.filter_eq_nil_iff.mpr fun n hn => ?_, fun n hn => ?_, fun c hc => (List.mem_filter.mp hc).1⟩
  · have hin := hmem n (.inr hn)
    simp only [decide_eq_true_eq]
    exact fun h => h (p, n) hin rfl rfl
  · obtain ⟨hcurrent, hnot⟩ := List.mem_filter.mp hn
    have hall := of_decide_eq_true hnot
    exact hall (p, n) (hmem n (.inl hcurrent)) rfl rfl

end HandsetsGone

end Sys2Proof.Machine

namespace Sys2Proof.Machine

/-! ## Position commits: what they leave (R62 to R64) -/

section CommitWork

variable {s t u : State} {xs ys : List Block}

/-- Work of a commit, which may change the mixer's speakers too. -/
structure CommitWork (s t : State) (xs : List Block) : Prop where
  mem    : t.mem = s.mem
  frame  : t.frame = s.frame
  bi     : (t.bi.base, t.bi.copies, t.bi.startCopy, t.bi.latch, t.bi.held, t.bi.readData) =
    (s.bi.base, s.bi.copies, s.bi.startCopy, s.bi.latch, s.bi.held, s.bi.readData)
  words  : s.eu.evtHead < 256 → t.eu.evtHead < 256 ∧ ∀ off, regionOf off ≠ .owned → latestWord t off = latestWord s off
  leaves : s.eu.evtHead < 256 → Leaves s t xs

theorem Work.commit (h : Work s t xs) : CommitWork s t xs := by
  have hbi := h.call.bi
  simp only [Prod.mk.injEq] at hbi
  obtain ⟨hbase, hcopies, hstart, hlatch, -, hheld, hread⟩ := hbi
  exact ⟨h.call.mem, h.call.frame, by rw [hbase, hcopies, hstart, hlatch, hheld, hread], h.call.words, h.leaves⟩

theorem CommitWork.mono (h : CommitWork s t xs) (hs : xs ⊆ ys) : CommitWork s t ys :=
  ⟨h.mem, h.frame, h.bi, h.words, fun he => (h.leaves he).mono hs⟩

theorem CommitWork.trans (h : CommitWork s t xs) (k : CommitWork t u xs) : CommitWork s u xs :=
  ⟨k.mem.trans h.mem, k.frame.trans h.frame, k.bi.trans h.bi, fun he => by
    obtain ⟨hhead, hwords⟩ := h.words he
    obtain ⟨hhead', hwords'⟩ := k.words hhead
    exact ⟨hhead', fun off ho => (hwords' off ho).trans (hwords off ho)⟩,
    fun he => ((h.leaves he).trans (k.leaves (h.words he).1)).mono (by simp)⟩

theorem CommitWork.step (h : CommitWork s t xs) (k : CommitWork t u ys) (hs : ys ⊆ xs := by decide) : CommitWork s u xs := h.trans (k.mono hs)

/-- Speakers are the mixer's. -/
theorem commitWork_setSpeaker (s : State) (p : Nat) (r : SpeakerRec) : CommitWork s (s.setSpeaker p r) [.mx] :=
  ⟨rfl, rfl, rfl, fun he => ⟨he, fun _ _ => rfl⟩, fun _ => ⟨rfl, fun b hb => by
    cases b <;> simp [Same] at hb ⊢
    case words => exact fun _ _ => rfl⟩⟩

/-- What a write to a copied word and the commit that follows it leave in the SRAM and on the processor's side of the bus. -/
theorem wrote_commit {off : Nat} {data : Word} {be : ByteEnables} (h : CommitWork (merged s off data be) u xs) (he : s.eu.evtHead < 256) (b : State) :
    Wrote s (settle b u) off data be ∧ Copied s (settle b u) off data be ∧ Leaves s (settle b u) ([.sram, .words, .bus] ++ xs) := by
  have hbi := h.bi
  simp only [Prod.mk.injEq] at hbi
  obtain ⟨hbase, hcopies, hstart, hlatch, hheld, hread⟩ := hbi
  refine ⟨⟨?_, fun o ho hr => ?_⟩, ⟨fun o => ?_, ?_⟩, ?_⟩
  · rw [settle_mem, h.mem]
    rfl
  · rw [settle_latestWord b u o fun hm => hr (isMirror_owned o hm), (h.words he).2 o hr, merged_latestWord s off data be o ho]
  · rw [← merged_copyAt]
    simp [copyAt, hcopies]
  · simp only [settle_bi_base, settle_bi_startCopy, settle_bi_latch, settle_bi_held, settle_bi_readData, hbase, hstart, hlatch, hheld, hread]
    exact ⟨rfl, rfl, rfl, rfl, rfl⟩
  · exact (((leaves_merged s off data be).trans (h.leaves he)).trans (leaves_settle b u)).mono (by simp)

end CommitWork

section Ends

/-- The end of a position's commit: ports, displays and reach sets follow (R64, R69, R73, R99). -/
structure EndsCommit (x t : State) : Prop where
  work     : Work x t [.events, .alarms, .hc, .ra]
  lc       : t.lc = x.lc
  mx       : t.mx = x.mx
  handsets : t.hc.handsets = x.hc.handsets
  calls    : t.hc.calls = x.hc.calls

theorem EndsCommit.refl (x : State) : EndsCommit x x := ⟨.refl x _, rfl, rfl, rfl, rfl⟩

theorem EndsCommit.trans {a b c : State} (h : EndsCommit a b) (k : EndsCommit b c) : EndsCommit a c :=
  ⟨h.work.trans k.work, k.lc.trans h.lc, k.mx.trans h.mx, k.handsets.trans h.handsets, k.calls.trans h.calls⟩

variable (x : State)

theorem endsCommit_recomputePorts (l : List Nat) : EndsCommit x (recomputePorts x l) :=
  ⟨(work_recomputePorts x l).mono (by decide), by simp, by simp, by simp, by simp⟩

theorem endsCommit_complete (b : State) : EndsCommit x (complete b x) := by
  have h := completionOnly_complete x b
  exact ⟨work_complete x b, h.lc, h.mx, h.hands, h.calls⟩

theorem endsCommit_refreshDim (p : Nat) : EndsCommit x (refreshDim x p) := ⟨(work_refreshDim x p).mono (by decide), rfl, rfl, rfl, rfl⟩

theorem endsCommit_recomputeReach : EndsCommit x (recomputeReach x) := by
  obtain ⟨ps, hps⟩ := recomputeReach_rest x
  have hwork := work_recomputeReach x
  rw [hps] at hwork ⊢
  exact ⟨hwork.mono (by decide), rfl, rfl, rfl, rfl⟩

theorem endsCommit_refreshDims (ps : List Nat) : EndsCommit x (ps.foldl refreshDim x) := by
  induction ps generalizing x with
  | nil => exact .refl x
  | cons p ps ih => exact (endsCommit_refreshDim x p).trans (ih _)

variable {x} {t : State}

theorem EndsCommit.line (h : EndsCommit x t) (n : Nat) : t.line n = x.line n := State.line_congr h.lc n

theorem EndsCommit.alertList (h : EndsCommit x t) (q : Nat) : t.alertList q = x.alertList q := State.alertList_congr h.lc q

theorem EndsCommit.speaker (h : EndsCommit x t) (q : Nat) : t.speaker q = x.speaker q := State.speaker_congr h.mx q

theorem EndsCommit.handset (h : EndsCommit x t) (q : Party) : t.handset q = x.handset q := by simp only [State.handset, h.handsets]

theorem EndsCommit.call (h : EndsCommit x t) (c : Nat) : t.call c = x.call c := by simp only [State.call, h.calls]

end Ends

end Sys2Proof.Machine

namespace Sys2Proof.Machine

/-! ## Handsets taken out of service (R63, R64) -/

section Vacating

variable {x t u : State} {ps : List Party}

/-- Handsets have left all their lines, and some intercom calls have ended. -/
structure Vacated (x t : State) (ps : List Party) : Prop where
  work         : Work x t [.events, .lc, .cc, .link, .hc, .um]
  participants : ∀ n, (t.line n).participants = participantsWithout x ps n
  leaving      : ∀ n, (x.line n).Leaving (t.line n) x.frame
  alerts       : ∀ q, t.alertList q = x.alertList q
  cleared      : ∀ p ∈ ps, (t.handset p).hold = [] ∧ ∀ n, CurEntry.line n ∉ (t.handset p).current
  hold         : ∀ q, (∀ p ∈ ps, q.place ≠ p.place) → (t.handset q).hold = (x.handset q).hold
  lines        : ∀ q, (∀ p ∈ ps, q.place ≠ p.place) → ∀ n, CurEntry.line n ∈ (t.handset q).current ↔ CurEntry.line n ∈ (x.handset q).current
  aside        : ∀ q, (∀ p ∈ ps, q.place ≠ p.place) → (∀ c, CurEntry.intercom c ∉ (x.handset q).current) → t.handset q = x.handset q
  calls        : ∀ c, t.call c = x.call c ∨ t.call c = IcmRec.cold

theorem Vacated.refl (x : State) : Vacated x x [] :=
  ⟨.refl x _, fun n => by simp [participantsWithout], fun _ => .refl _ _, fun _ => rfl, fun _ h => by simp at h, fun _ _ => rfl,
    fun _ _ _ => Iff.rfl, fun _ _ _ => rfl, fun _ => .inl rfl⟩

/-- Intercom calls end meanwhile. -/
theorem Vacated.ended (h : Vacated x t ps) (k : CallsEnded t u) : Vacated x u ps where
  work := h.work.trans (k.work.mono (by decide))
  participants n := by rw [State.line_congr k.lc, h.participants]
  leaving n := by rw [State.line_congr k.lc]; exact h.leaving n
  alerts q := by rw [State.alertList_congr k.lc, h.alerts]
  cleared p hp := by
    obtain ⟨hhold, hlines⟩ := h.cleared p hp
    exact ⟨(k.hold p).trans hhold, fun n hn => hlines n ((k.lines p n).mp hn)⟩
  hold q hq := (k.hold q).trans (h.hold q hq)
  lines q hq n := (k.lines q n).trans (h.lines q hq n)
  aside q hq hnone := by
    have hsame := h.aside q hq hnone
    rw [k.aside q (by rw [hsame]; exact hnone), hsame]
  calls c := by
    rcases k.calls c with hk | hk
    · rw [hk]
      exact h.calls c
    · exact .inr hk

/-- One more handset leaves all its lines. -/
theorem Vacated.dropped (h : Vacated x t ps) (p : Party) (hp : ∀ q ∈ ps, p.place ≠ q.place) : Vacated x (dropHandset t p) (ps ++ [p]) := by
  have hdrop := leftAll_dropHandset t p
  have hnotMem : p ∉ ps := fun hmem => hp p hmem rfl
  have helsewhere : ∀ q : Party, q.place ≠ p.place → (dropHandset t p).handset q = t.handset q := fun q hq => by
    rw [hdrop.handsets, withoutAll_linesOf_ne t p q _ hq]
  have hlisted : ∀ n, (CurEntry.line n ∈ (t.handset p).current ∨ n ∈ (t.handset p).hold) ↔
      (CurEntry.line n ∈ (x.handset p).current ∨ n ∈ (x.handset p).hold) := fun n => by rw [h.lines p hp n, h.hold p hp]
  obtain ⟨hempty, hnoLine, -⟩ := withoutAll_linesOf_self t p
  have hcall : ∀ c, (dropHandset t p).call c = t.call c := fun c => by simp only [State.call, hdrop.calls]
  exact {
    work := h.work.trans hdrop.work
    participants := fun n => by
      rw [hdrop.participants, h.participants, participantsWithout, participantsWithout, List.filter_filter]
      refine List.filter_congr fun e _ => ?_
      rw [Bool.eq_iff_iff]
      simp only [mem_linesOf, Bool.and_eq_true, decide_eq_true_eq, List.mem_append, List.mem_singleton]
      by_cases he : e.party = p
      · rw [he]
        simp [hnotMem, hlisted]
      · simp [he]
    leaving := fun n => (h.leaving n).trans (by rw [← h.work.call.frame]; exact hdrop.leaving n)
    alerts := fun q => (hdrop.alerts q).trans (h.alerts q)
    cleared := fun q hq => by
      rcases List.mem_append.mp hq with hq | hq
      · rw [helsewhere q fun heq => hp q hq heq.symm]
        exact h.cleared q hq
      · obtain rfl := List.mem_singleton.mp hq
        rw [hdrop.handsets]
        exact ⟨hempty, hnoLine⟩
    hold := fun q hq => by
      rw [helsewhere q (hq p (by simp)), h.hold q fun r hr => hq r (by simp [hr])]
    lines := fun q hq n => by
      rw [helsewhere q (hq p (by simp)), h.lines q fun r hr => hq r (by simp [hr])]
    aside := fun q hq hnone => by
      rw [helsewhere q (hq p (by simp)), h.aside q (fun r hr => hq r (by simp [hr])) hnone]
    calls := fun c => by rw [hcall]; exact h.calls c }

/-- What the obligations say of handsets that have left. -/
theorem Vacated.handsetsLeft {s : State} (h : Vacated x t ps) (hlines : ∀ n, u.line n = t.line n) (hs : ∀ n, x.line n = s.line n)
    (hhandsets : ∀ q, x.handset q = s.handset q) (hframe : x.frame = s.frame) : HandsetsLeft s u ps := by
  have hparticipants : ∀ n, (t.line n).participants = participantsWithout s ps n := fun n => by
    rw [h.participants, participantsWithout, participantsWithout, hs]
    simp only [hhandsets]
  refine ⟨fun n => by rw [hlines, hparticipants], fun n hne hnil hk => ?_⟩
  have hleaving := h.leaving n
  rw [hs, hframe] at hleaving
  rw [hlines]
  exact hleaving.gone hne (by rw [hparticipants, hnil]) hk

end Vacating

section Disabling

variable {x : State} {p : Nat}

/-- The lines and calls that a disabled position has left; its speakers are still to be stopped. -/
def positionVacated (x : State) (p : Nat) : State :=
  endCallsWhere (dropHandset (dropHandset (x.setAlertList p []) { pos := p, hs := 0 }) { pos := p, hs := 1 }) (concernsPosition p) (.disabledPosition p)

/-- Its speakers stopped. -/
def speakersStopped (y : State) (p : Nat) : State :=
  modSpeaker y p fun r => { channels := Table.mapVals ChanRun.cold (fun _ c => { c with source := .none }) r.channels, ptt := none }

theorem endsCommit_disablePosition (x : State) (p : Nat) : EndsCommit (speakersStopped (positionVacated x p) p) (disablePosition x p) :=
  (((endsCommit_recomputePorts _ _).trans (endsCommit_complete _ x)).trans (endsCommit_refreshDim _ p)).trans (endsCommit_recomputeReach _)

theorem vacated_positionVacated (x : State) (p : Nat) :
    Vacated (x.setAlertList p []) (positionVacated x p) [{ pos := p, hs := 0 }, { pos := p, hs := 1 }] :=
  (((Vacated.refl _).dropped { pos := p, hs := 0 } (by simp)).dropped { pos := p, hs := 1 } (by simp [Party.place])).ended (endCallsWhere_spec _ _ _).1

/-- A position is disabled (R63). -/
theorem disablePosition_spec (x : State) (p : Nat) :
    let t := disablePosition x p
    CommitWork x t [.events, .alarms, .lc, .cc, .link, .hc, .mx, .ra, .um] ∧
    (t.speaker p).ptt = none ∧ (∀ i, (Table.get ChanRun.cold (t.speaker p).channels i).source = .none) ∧
    (∀ q, q ≠ p → t.speaker q = x.speaker q) ∧ t.alertList p = [] ∧ (∀ q, q ≠ p → t.alertList q = x.alertList q) ∧
    (∀ h < 2, (t.handset { pos := p, hs := h }).hold = [] ∧ ∀ n, CurEntry.line n ∉ (t.handset { pos := p, hs := h }).current) ∧
    HandsetsLeft x t [{ pos := p, hs := 0 }, { pos := p, hs := 1 }] ∧
    ∀ c < 16, (x.call c).state ≠ .free → concernsPosition p (x.call c) = true → t.call c = IcmRec.cold := by
  intro t
  have hends := endsCommit_disablePosition x p
  have hvacated := vacated_positionVacated x p
  have hcalls : ∀ c < 16, (x.call c).state ≠ .free → concernsPosition p (x.call c) = true → (positionVacated x p).call c = IcmRec.cold := by
    intro c hc hs hcond
    have hdropped := ((Vacated.refl (x.setAlertList p [])).dropped { pos := p, hs := 0 } (by simp)).dropped { pos := p, hs := 1 } (by simp [Party.place])
    obtain ⟨hended, hcold⟩ := endCallsWhere_spec
      (dropHandset (dropHandset (x.setAlertList p []) { pos := p, hs := 0 }) { pos := p, hs := 1 }) (concernsPosition p) (.disabledPosition p)
    rcases hdropped.calls c with hsame | hsame
    · exact hcold c hc (by rw [hsame]; exact hs) (by rw [hsame]; exact hcond)
    · rcases hended.calls c with h | h
      · exact h.trans hsame
      · exact h
  change EndsCommit (speakersStopped (positionVacated x p) p) t at hends
  generalize positionVacated x p = y at hends hvacated hcalls
  have hmx : y.mx = x.mx := hvacated.work.call.mx
  have hspeakers : ∀ q, (speakersStopped y p).speaker q =
      if q = p then { channels := Table.mapVals ChanRun.cold (fun _ c => { c with source := .none }) (y.speaker p).channels, ptt := none }
      else y.speaker q := fun q => by simp [speakersStopped, modSpeaker]
  have hline : ∀ n, t.line n = y.line n := fun n => hends.line n
  have hhandset : ∀ q, t.handset q = y.handset q := fun q => hends.handset q
  refine ⟨?_, ?_, fun i => ?_, fun q hq => ?_, ?_, fun q hq => ?_, fun h hh => ?_, ?_, fun c hc hs hcond => ?_⟩
  · have hstart : CommitWork x (x.setAlertList p []) [.events, .alarms, .lc, .cc, .link, .hc, .mx, .ra, .um] :=
      (work_setAlertList x p []).commit.mono (by decide)
    exact ((hstart.step hvacated.work.commit).step (commitWork_setSpeaker y p _)).step hends.work.commit
  · rw [hends.speaker, hspeakers, if_pos rfl]
  · rw [hends.speaker, hspeakers, if_pos rfl]
    exact Table.get_mapVals_all ChanRun.cold _ _ (fun _ c => c.source = .none) (fun _ => rfl) (fun _ _ => rfl) i
  · rw [hends.speaker, hspeakers, if_neg hq, State.speaker_congr hmx]
  · have hlist := (hends.alertList p).trans (hvacated.alerts p)
    rw [hlist]
    simp
  · have hlist := (hends.alertList q).trans (hvacated.alerts q)
    rw [hlist]
    simp [hq]
  · rw [hhandset]
    interval_cases h
    · exact hvacated.cleared _ (by simp)
    · exact hvacated.cleared _ (by simp)
  · exact hvacated.handsetsLeft hline (fun _ => rfl) (fun _ => rfl) rfl
  · rw [hends.call]
    exact hcalls c hc hs hcond

end Disabling

end Sys2Proof.Machine

namespace Sys2Proof.Machine

/-! ## A position that stays enabled (R64) -/

section HandsetRemoval

variable {x y : State} {ps : List Party} {old new : PosConfig} {p : Nat}

/-- A handset leaves the handsets-present mask. -/
def leavesMask (old new : PosConfig) (h : Nat) : Bool := present old h && !present new h

/-- One handset's part of a commit: removed, where it leaves the mask. -/
def handsetRemoved (old new : PosConfig) (p : Nat) (y : State) (h : Nat) : State :=
  if leavesMask old new h = true then removeHandset y { pos := p, hs := h } else y

/-- The handsets of a list that leave the mask. -/
def leavers (old new : PosConfig) (p : Nat) (hs : List Nat) : List Party := (hs.filter (leavesMask old new)).map fun h => { pos := p, hs := h }

theorem mem_leavers (hs : List Nat) (q : Party) : q ∈ leavers old new p hs ↔ ∃ h ∈ hs, leavesMask old new h = true ∧ { pos := p, hs := h } = q := by
  simp [leavers, and_assoc]

/-- A removed handset's calls are free, and calls that were free so stay. -/
theorem vacated_removeHandset (h : Vacated x y ps) (q : Party) (hq : ∀ r ∈ ps, q.place ≠ r.place) :
    Vacated x (removeHandset y q) (ps ++ [q]) ∧ (∀ c, y.call c = IcmRec.cold → (removeHandset y q).call c = IcmRec.cold) ∧
    ∀ c < 16, (x.call c).state ≠ .free → (x.call c).hasParty q = true → (removeHandset y q).call c = IcmRec.cold := by
  have hdropped := h.dropped q hq
  obtain ⟨hended, hcold⟩ := endCallsWhere_spec (dropHandset y q) (fun r => r.hasParty q) (.disabledHandset q)
  have hsame : ∀ c, (dropHandset y q).call c = y.call c := fun c => by simp only [State.call, (leftAll_dropHandset y q).calls]
  have hkeep : ∀ c, y.call c = IcmRec.cold → (removeHandset y q).call c = IcmRec.cold := fun c hc => by
    rcases hended.calls c with hk | hk
    · exact (hk.trans (hsame c)).trans hc
    · exact hk
  refine ⟨hdropped.ended hended, hkeep, fun c hc hstate hparty => ?_⟩
  rcases h.calls c with hk | hk
  · exact hcold c hc (by rwa [hsame, hk]) (by simpa only [hsame, hk] using hparty)
  · exact hkeep c hk

/-- The handsets of a position that leave the mask leave their lines and calls (R64; log 45). -/
theorem vacated_handsetsRemoved (x : State) (old new : PosConfig) (p : Nat) :
    let y := handsetRemoved old new p (handsetRemoved old new p x 0) 1
    Vacated x y (leavers old new p [0, 1]) ∧
    ∀ h < 2, leavesMask old new h = true → ∀ c < 16, (x.call c).state ≠ .free → (x.call c).hasParty { pos := p, hs := h } = true → y.call c = IcmRec.cold := by
  have hfirst : Vacated x (handsetRemoved old new p x 0) (leavers old new p [0]) ∧ (leavesMask old new 0 = true →
      ∀ c < 16, (x.call c).state ≠ .free → (x.call c).hasParty { pos := p, hs := 0 } = true → (handsetRemoved old new p x 0).call c = IcmRec.cold) := by
    by_cases h0 : leavesMask old new 0 = true
    · have hrem := vacated_removeHandset (.refl x) { pos := p, hs := 0 } (by simp)
      simp only [handsetRemoved, leavers, if_pos h0, List.filter_cons_of_pos h0, List.filter_nil, List.map_cons, List.map_nil]
      exact ⟨hrem.1, fun _ => hrem.2.2⟩
    · simp only [handsetRemoved, leavers, if_neg h0, List.filter_cons_of_neg h0, List.filter_nil, List.map_nil]
      exact ⟨.refl x, fun h => absurd h h0⟩
  obtain ⟨hvacated, hcalls⟩ := hfirst
  intro y
  by_cases h1 : leavesMask old new 1 = true
  · have hplace : ∀ r ∈ leavers old new p [0], Party.place { pos := p, hs := 1 } ≠ r.place := fun r hr => by
      obtain ⟨h, hh, -, rfl⟩ := (mem_leavers [0] r).mp hr
      obtain rfl := List.mem_singleton.mp hh
      simp [Party.place]
    obtain ⟨hrem, hkeep, hown⟩ := vacated_removeHandset hvacated { pos := p, hs := 1 } hplace
    have hy : y = removeHandset (handsetRemoved old new p x 0) { pos := p, hs := 1 } := if_pos h1
    have hlist : leavers old new p [0, 1] = leavers old new p [0] ++ [{ pos := p, hs := 1 }] := by
      by_cases h0 : leavesMask old new 0 = true <;> simp [leavers, h0, h1]
    rw [hy, hlist]
    refine ⟨hrem, fun h hh hleaves c hc hstate hparty => ?_⟩
    interval_cases h
    · exact hkeep c (hcalls hleaves c hc hstate hparty)
    · exact hown c hc hstate hparty
  · have hy : y = handsetRemoved old new p x 0 := if_neg h1
    have hlist : leavers old new p [0, 1] = leavers old new p [0] := by
      by_cases h0 : leavesMask old new 0 = true <;> simp [leavers, h0, h1]
    rw [hy, hlist]
    refine ⟨hvacated, fun h hh hleaves c hc hstate hparty => ?_⟩
    interval_cases h
    · exact hcalls hleaves c hc hstate hparty
    · exact absurd hleaves h1

end HandsetRemoval

section Channels

variable {y t : State} {new : PosConfig} {p : Nat}

/-- What the replacement of some channels by their applied fields does (R64). -/
structure ChannelsReplaced (y t : State) (new : PosConfig) (p : Nat) (is : List Nat) : Prop where
  work     : CommitWork y t [.mx]
  lc       : t.lc = y.lc
  hc       : t.hc = y.hc
  speakers : ∀ q, q ≠ p → t.speaker q = y.speaker q
  channels : ∀ i, Table.get ChanRun.cold (t.speaker p).channels i =
    if i ∈ is then runtimeOf (Table.get ChanConfig.cold new.channels i) else Table.get ChanRun.cold (y.speaker p).channels i
  ptt      : (t.speaker p).ptt = (y.speaker p).ptt.filter fun i => decide (i ∉ is)

theorem channelsReplaced_replaceChannel (y : State) (new : PosConfig) (p i : Nat) :
    ChannelsReplaced y (replaceChannel y p i (Table.get ChanConfig.cold new.channels i)) new p [i] where
  work := commitWork_setSpeaker y p _
  lc := rfl
  hc := rfl
  speakers q hq := by simp [replaceChannel, modSpeaker, hq]
  channels j := by
    by_cases hj : j = i <;> simp [replaceChannel, modSpeaker, hj]
  ptt := by
    cases hptt : (y.speaker p).ptt with
    | none => simp [replaceChannel, modSpeaker, hptt]
    | some j =>
      by_cases hj : j = i <;> simp [replaceChannel, modSpeaker, hptt, hj, Option.filter]

theorem ChannelsReplaced.trans {u : State} {is js : List Nat} (h : ChannelsReplaced y t new p is) (k : ChannelsReplaced t u new p js) :
    ChannelsReplaced y u new p (is ++ js) where
  work := h.work.trans k.work
  lc := k.lc.trans h.lc
  hc := k.hc.trans h.hc
  speakers q hq := (k.speakers q hq).trans (h.speakers q hq)
  channels i := by
    rw [k.channels, h.channels]
    by_cases hj : i ∈ js <;> simp [hj]
  ptt := by
    rw [k.ptt, h.ptt, Option.filter_filter]
    congr 1
    funext i
    simp

theorem channelsReplaced_foldl (y : State) (new : PosConfig) (p : Nat) (is : List Nat) :
    ChannelsReplaced y (is.foldl (fun s i => replaceChannel s p i (Table.get ChanConfig.cold new.channels i)) y) new p is := by
  induction is generalizing y with
  | nil => exact ⟨(Work.refl y _).commit, rfl, rfl, fun _ _ => rfl, fun i => by simp, by cases hp : (y.speaker p).ptt <;> simp [Option.filter, hp]⟩
  | cons i is ih => exact (channelsReplaced_replaceChannel y new p i).trans (ih _)

theorem mem_changedChannels {old new : PosConfig} {i : Nat} : i ∈ changedChannels old new ↔
    i < 8 ∧ Table.get ChanConfig.cold old.channels i ≠ Table.get ChanConfig.cold new.channels i := by
  simp [changedChannels]

end Channels

section Changing

/-- The handsets that leave the mask removed, and the changed channels replaced: a commit before its completion. -/
def positionChanged (x : State) (p : Nat) (old new : PosConfig) : State :=
  (changedChannels old new).foldl (fun s i => replaceChannel s p i (Table.get ChanConfig.cold new.channels i))
    (handsetRemoved old new p (handsetRemoved old new p x 0) 1)

theorem leavesMask_iff (old new : PosConfig) (h : Nat) : leavesMask old new h = true ↔ present old h = true ∧ present new h = false := by
  simp [leavesMask]

theorem endsCommit_changePosition (x : State) (p : Nat) (old new : PosConfig) :
    EndsCommit (positionChanged x p old new) (changePosition x p old new) := by
  have hremoved : ∀ (y : State) (h : Nat), handsetRemoved old new p y h =
      if present old h = true ∧ present new h = false then removeHandset y { pos := p, hs := h } else y := fun y h => by
    simp only [handsetRemoved, leavesMask_iff]
  have hchanged : positionChanged x p old new = (changedChannels old new).foldl (fun s i => replaceChannel s p i (Table.get ChanConfig.cold new.channels i))
      (if old.present1 = true ∧ new.present1 = false then
        removeHandset (if old.present0 = true ∧ new.present0 = false then removeHandset x { pos := p, hs := 0 } else x) { pos := p, hs := 1 }
      else if old.present0 = true ∧ new.present0 = false then removeHandset x { pos := p, hs := 0 } else x) := by
    rw [positionChanged, hremoved, hremoved]
    rfl
  unfold changePosition
  dsimp only
  rw [← hchanged]
  generalize positionChanged x p old new = y
  refine .trans ?_ (.trans (endsCommit_refreshDims _ _) (endsCommit_recomputeReach _))
  split
  · exact .refl y
  · exact endsCommit_recomputePorts y _

/-- A commit leaves a position enabled (R64). -/
theorem changePosition_spec (x : State) (p : Nat) (old new : PosConfig) :
    let t := changePosition x p old new
    CommitWork x t [.events, .alarms, .lc, .cc, .link, .hc, .mx, .ra, .um] ∧
    (∀ q, t.alertList q = x.alertList q) ∧ (∀ q, q ≠ p → t.speaker q = x.speaker q) ∧
    (∀ h < 2, leavesMask old new h = true →
      (t.handset { pos := p, hs := h }).hold = [] ∧ (∀ n, CurEntry.line n ∉ (t.handset { pos := p, hs := h }).current) ∧
      ∀ c < 16, (x.call c).state ≠ .free → (x.call c).hasParty { pos := p, hs := h } = true → t.call c = IcmRec.cold) ∧
    HandsetsLeft x t (leavers old new p [0, 1]) ∧
    (∀ h < 2, leavesMask old new h ≠ true → (∀ c, CurEntry.intercom c ∉ (x.handset { pos := p, hs := h }).current) →
      t.handset { pos := p, hs := h } = x.handset { pos := p, hs := h }) ∧
    (∀ i, Table.get ChanRun.cold (t.speaker p).channels i =
      if i ∈ changedChannels old new then runtimeOf (Table.get ChanConfig.cold new.channels i) else Table.get ChanRun.cold (x.speaker p).channels i) ∧
    (t.speaker p).ptt = (x.speaker p).ptt.filter fun i => decide (i ∉ changedChannels old new) := by
  intro t
  obtain ⟨hvacated, hcalls⟩ := vacated_handsetsRemoved x old new p
  have hreplaced := channelsReplaced_foldl (handsetRemoved old new p (handsetRemoved old new p x 0) 1) new p (changedChannels old new)
  have hends : EndsCommit (positionChanged x p old new) t := endsCommit_changePosition x p old new
  change ChannelsReplaced _ (positionChanged x p old new) _ _ _ at hreplaced
  generalize positionChanged x p old new = z at hreplaced hends
  generalize handsetRemoved old new p (handsetRemoved old new p x 0) 1 = y at hvacated hcalls hreplaced
  have hline : ∀ n, t.line n = y.line n := fun n => (hends.line n).trans (State.line_congr hreplaced.lc n)
  have hhandset : ∀ q, t.handset q = y.handset q := fun q => (hends.handset q).trans (State.handset_congr hreplaced.hc q)
  have hcall : ∀ c, t.call c = y.call c := fun c => (hends.call c).trans (by simp only [State.call, hreplaced.hc])
  have hspeaker : ∀ q, y.speaker q = x.speaker q := State.speaker_congr hvacated.work.call.mx
  refine ⟨?_, fun q => ?_, fun q hq => ?_, fun h hh hleaves => ?_, ?_, fun h hh hstays hnone => ?_, fun i => ?_, ?_⟩
  · have hstart : CommitWork x y [.events, .alarms, .lc, .cc, .link, .hc, .mx, .ra, .um] := hvacated.work.commit.mono (by decide)
    exact (hstart.step hreplaced.work).step hends.work.commit
  · rw [hends.alertList, State.alertList_congr hreplaced.lc, hvacated.alerts]
  · rw [hends.speaker, hreplaced.speakers q hq, hspeaker]
  · have hmem : { pos := p, hs := h } ∈ leavers old new p [0, 1] := (mem_leavers _ _).mpr ⟨h, by simpa using (by omega : h = 0 ∨ h = 1), hleaves, rfl⟩
    obtain ⟨hhold, hnoLine⟩ := hvacated.cleared _ hmem
    rw [hhandset]
    exact ⟨hhold, hnoLine, fun c hc hs hp => (hcall c).trans (hcalls h hh hleaves c hc hs hp)⟩
  · exact hvacated.handsetsLeft hline (fun _ => rfl) (fun _ => rfl) rfl
  · rw [hhandset]
    refine hvacated.aside _ (fun r hr => ?_) hnone
    obtain ⟨g, hg, hleaves, rfl⟩ := (mem_leavers _ _).mp hr
    have hne : h ≠ g := fun heq => hstays (heq ▸ hleaves)
    have hg2 : g < 2 := by
      have : g = 0 ∨ g = 1 := by simpa using hg
      omega
    simp only [Party.place]
    omega
  · rw [hends.speaker, hreplaced.channels, hspeaker]
  · rw [hends.speaker, hreplaced.ptt, hspeaker]

end Changing

end Sys2Proof.Machine

namespace Sys2Proof.Machine

/-! ## A position that becomes enabled (R16, R63) -/

section RingsInOrder

variable {s t : State} {p : Nat}

theorem ringsBefore_trans {a b c : Nat} (h : ringsBefore s a b = true) (k : ringsBefore s b c = true) : ringsBefore s a c = true := by
  simp only [ringsBefore, Bool.or_eq_true, Bool.and_eq_true, decide_eq_true_eq] at h k ⊢
  omega

theorem ringsBefore_total {a b : Nat} (h : a ≠ b) : ringsBefore s a b = true ∨ ringsBefore s b a = true := by
  simp only [ringsBefore, Bool.or_eq_true, Bool.and_eq_true, decide_eq_true_eq]
  omega

/-- Among some lines, one rang first. -/
theorem exists_earliest (s : State) {l : List Nat} (h : l ≠ []) : ∃ x ∈ l, ∀ y ∈ l, y ≠ x → ringsBefore s x y = true := by
  induction l with
  | nil => exact absurd rfl h
  | cons a l ih =>
    by_cases hl : l = []
    · subst hl
      exact ⟨a, by simp, fun y hy hne => absurd (List.mem_singleton.mp hy) hne⟩
    · obtain ⟨x, hx, hfirst⟩ := ih hl
      by_cases hax : a = x
      · refine ⟨x, .tail _ hx, fun y hy hne => ?_⟩
        exact hfirst y ((List.mem_cons.mp hy).resolve_left fun h => hne (h.trans hax)) hne
      · rcases ringsBefore_total (s := s) hax with hbefore | hbefore
        · refine ⟨a, .head _, fun y hy hne => ?_⟩
          have hy := (List.mem_cons.mp hy).resolve_left hne
          by_cases hyx : y = x
          · exact hyx ▸ hbefore
          · exact ringsBefore_trans hbefore (hfirst y hy hyx)
        · refine ⟨x, .tail _ hx, fun y hy hne => ?_⟩
          rcases List.mem_cons.mp hy with rfl | hy
          · exact hbefore
          · exact hfirst y hy hne

/-- A line that rang after every line of a list takes its last place. -/
theorem insertByRing_last {n : Nat} {l : List Nat} (h : ∀ m ∈ l, ringsBefore s m n = true) : insertByRing s n l = l ++ [n] := by
  induction l with
  | nil => rfl
  | cons m l ih =>
    have hnot : ringsBefore s n m = false := ringsBefore_asymm (h m (by simp))
    rw [insertByRing, hnot, ih fun k hk => h k (by simp [hk])]
    rfl

end RingsInOrder

section Filling

variable {s t u : State} {p : Nat}

/-- A position's list while it is filled: the first rings, in order, and the list no longer than the steps done; it is shorter only where no line is
left to join it (R16). -/
structure FilledTo (t : State) (p k : Nat) : Prop where
  only  : ∀ n ∈ t.alertList p, n ∈ ringingLines t ∧ audibleAt t n p = true
  order : (t.alertList p).Pairwise fun a b => ringsBefore t a b = true
  size  : (t.alertList p).length ≤ k
  first : ∀ n ∈ candidates t p, ∀ m ∈ t.alertList p, ringsBefore t m n = true
  short : (t.alertList p).length = k ∨ candidates t p = []

theorem FilledTo.filledAlerts (h : FilledTo t p 8) : FilledAlerts t p :=
  ⟨h.only, h.order, h.size, fun n hn ha hout => by
    have hcand : n ∈ candidates t p := mem_candidates.mpr ⟨hn, ha, hout⟩
    exact ⟨h.short.resolve_right (List.ne_nil_of_mem hcand), h.first n hcand⟩⟩

theorem alertsOnly_backfill (s : State) (p : Nat) : AlertsOnly s (backfill s p none) := by
  cases hx : nextAlert s p none with
  | none => rw [backfill_of_none hx]; exact .refl s
  | some x => rw [backfill_of_some hx]; exact alertsOnly_addAlert s p x

/-- The order of rings, the ringing lines and their appearances do not look at alert lists. -/
theorem AlertsOnly.rings (h : AlertsOnly s t) : ringsBefore t = ringsBefore s ∧ ringingLines t = ringingLines s := by
  obtain ⟨a, rfl⟩ := h
  exact ⟨funext fun a => funext fun b => ringsBefore_congr rfl rfl a b, rfl⟩

/-- One more step of filling (R16). -/
theorem FilledTo.backfill {k : Nat} (h : FilledTo s p k) (hp : (s.position p).applied.enabled = true) (hk : k < 8) :
    FilledTo (backfill s p none) p (k + 1) := by
  by_cases hnone : candidates s p = []
  · have hnext : nextAlert s p none = none := nextAlert_none fun x hx => by simp [hnone] at hx
    rw [backfill_of_none hnext]
    exact ⟨h.only, h.order, h.size.trans (by omega), h.first, .inr hnone⟩
  · obtain ⟨x, hx, hfirst⟩ := exists_earliest s hnone
    obtain ⟨hringing, haudible, hout⟩ := mem_candidates.mp hx
    have hlist : (Machine.backfill s p none).alertList p = s.alertList p ++ [x] := by
      have hsize := h.size
      rw [backfill_of_some (nextAlert_first hx hfirst), addAlert_alertList, if_pos ⟨rfl, hp, by omega, hout⟩, insertByRing_last (h.first x hx)]
    have halerts := alertsOnly_backfill s p
    obtain ⟨hbefore, hlines⟩ := halerts.rings
    have haudibles : ∀ n, audibleAt (Machine.backfill s p none) n p = audibleAt s n p := fun n => halerts.audibleAt n p
    generalize Machine.backfill s p none = t at hlist hbefore hlines haudibles
    have hlater : ∀ n, n ∈ candidates t p → n ∈ candidates s p ∧ n ≠ x := fun n hn => by
      rw [mem_candidates, hlines, haudibles, hlist] at hn
      obtain ⟨hr, ha, hno⟩ := hn
      have hno : n ∉ s.alertList p ∧ n ≠ x := by simpa using hno
      exact ⟨mem_candidates.mpr ⟨hr, ha, hno.1⟩, hno.2⟩
    refine ⟨fun n hn => ?_, ?_, ?_, fun n hn m hm => ?_, .inl ?_⟩
    · rw [hlines, haudibles]
      rw [hlist, List.mem_append, List.mem_singleton] at hn
      rcases hn with hn | rfl
      · exact h.only n hn
      · exact ⟨hringing, haudible⟩
    · rw [hlist, hbefore]
      refine List.pairwise_append.mpr ⟨h.order, List.pairwise_singleton _ _, fun a ha b hb => ?_⟩
      exact List.mem_singleton.mp hb ▸ h.first x hx a ha
    · rw [hlist, List.length_append]
      exact Nat.add_le_add_right h.size 1
    · obtain ⟨hn, hne⟩ := hlater n hn
      rw [hbefore]
      rw [hlist, List.mem_append, List.mem_singleton] at hm
      rcases hm with hm | rfl
      · exact h.first n hn m hm
      · exact hfirst n hn hne
    · rw [hlist, List.length_append, h.short.resolve_right hnone]
      rfl

/-- Only a position's own list is filled. -/
theorem fillAlerts_alertList_ne (s : State) (p q : Nat) (h : q ≠ p) : (fillAlerts s p).alertList q = s.alertList q := by
  unfold fillAlerts
  induction List.range 8 generalizing s with
  | nil => rfl
  | cons i is ih => exact (ih _).trans (backfill_alertList_ne s p q h)

theorem alertsOnly_fillAlerts (s : State) (p : Nat) : AlertsOnly s (fillAlerts s p) :=
  alertsOnly_foldl _ _ (fun s _ => alertsOnly_backfill s p) s

theorem work_fillAlerts (s : State) (p : Nat) : Work s (fillAlerts s p) [.lc] := .foldl _ _ fun s _ => work_backfill s p none

/-- An empty list is filled with the first eight rings (R16). -/
theorem filledAlerts_fillAlerts (h : s.alertList p = []) (hp : (s.position p).applied.enabled = true) : FilledAlerts (fillAlerts s p) p := by
  have hsteps : ∀ (is : List Nat) (k : Nat) (s : State), k + is.length = 8 → FilledTo s p k → (s.position p).applied.enabled = true →
      FilledTo (is.foldl (fun s _ => Machine.backfill s p none) s) p 8 := by
    intro is
    induction is with
    | nil =>
      intro k s hk hfilled _
      obtain rfl : k = 8 := hk
      exact hfilled
    | cons i is ih =>
      intro k s hk hfilled hp
      rw [List.length_cons] at hk
      refine ih (k + 1) _ (by omega) (hfilled.backfill hp (by omega)) ?_
      rwa [State.position_congr (alertsOnly_backfill s p).rest.2.2.2.2.2.1]
  have hstart : FilledTo s p 0 := ⟨by simp [h], by simp [h], by simp [h], by simp [h], .inl (by simp [h])⟩
  exact (hsteps (List.range 8) 0 s rfl hstart hp).filledAlerts

/-- What is filled stays so where lines, appearances and lists stay. -/
theorem FilledAlerts.of_eq (h : FilledAlerts t p) (hlc : u.lc = t.lc) (hframe : u.frame = t.frame) : FilledAlerts u p := by
  have hlist := State.alertList_congr hlc p
  have hbefore : ringsBefore u = ringsBefore t := funext fun a => funext fun b => ringsBefore_congr (by rw [hlc]) hframe a b
  have hlines : ringingLines u = ringingLines t := by simp only [ringingLines, hlc]
  have haudible : ∀ n, audibleAt u n p = audibleAt t n p := fun n => by simp only [audibleAt, State.appEntries, hlc]
  exact ⟨by simpa only [hlist, hlines, haudible] using h.only, by simpa only [hlist, hbefore] using h.order, by simpa only [hlist] using h.size,
    by simpa only [hlist, hlines, haudible, hbefore] using h.first⟩

end Filling

section Enabling

/-- The speaker side of a position that becomes enabled (R63). -/
def speakersStarted (x : State) (p : Nat) : State :=
  x.setSpeaker p { channels := Table.mapVals ChanRun.cold (fun _ c => runtimeOf c) (x.position p).applied.channels, ptt := none }

/-- A position is enabled (R16, R63). -/
theorem enablePosition_spec (x : State) (p : Nat) :
    let t := enablePosition x p
    CommitWork x t [.events, .alarms, .lc, .hc, .mx, .ra] ∧ (t.speaker p).ptt = none ∧
    (∀ i, Table.get ChanRun.cold (t.speaker p).channels i = runtimeOf (Table.get ChanConfig.cold (x.position p).applied.channels i)) ∧
    (∀ q, q ≠ p → t.speaker q = x.speaker q) ∧ (∀ q, q ≠ p → t.alertList q = x.alertList q) ∧ t.lc.lines = x.lc.lines ∧
    ((x.position p).applied.enabled = true → x.alertList p = [] → FilledAlerts t p) := by
  intro t
  have hends : EndsCommit (fillAlerts (speakersStarted x p) p) t := (endsCommit_recomputePorts _ _).trans (endsCommit_recomputeReach _)
  have halerts := alertsOnly_fillAlerts (speakersStarted x p) p
  have hfilled : (x.position p).applied.enabled = true → x.alertList p = [] → FilledAlerts (fillAlerts (speakersStarted x p) p) p :=
    fun hp hlist => filledAlerts_fillAlerts hlist hp
  have hothers := fillAlerts_alertList_ne (speakersStarted x p) p
  have hwork := work_fillAlerts (speakersStarted x p) p
  generalize fillAlerts (speakersStarted x p) p = y at *
  have hspeaker : ∀ q, t.speaker q = (speakersStarted x p).speaker q := fun q =>
    (hends.speaker q).trans (State.speaker_congr hwork.call.mx q)
  refine ⟨?_, ?_, fun i => ?_, fun q hq => ?_, fun q hq => ?_, ?_, fun hp hlist => ?_⟩
  · have hstart : CommitWork x (speakersStarted x p) [.events, .alarms, .lc, .hc, .mx, .ra] := (commitWork_setSpeaker x p _).mono (by decide)
    exact (hstart.step hwork.commit).step hends.work.commit
  · rw [hspeaker, speakersStarted]
    simp
  · rw [hspeaker, speakersStarted, State.setSpeaker_speaker, if_pos rfl]
    exact Table.get_mapVals ChanConfig.cold ChanRun.cold (fun _ c => runtimeOf c) _ (fun _ a b => b = runtimeOf a) (fun _ => rfl) (fun _ _ => rfl) i
  · rw [hspeaker, speakersStarted, State.setSpeaker_speaker, if_neg hq]
  · exact (hends.alertList q).trans (hothers q hq)
  · rw [hends.lc]
    obtain ⟨a, ha⟩ := halerts
    rw [ha]
    rfl
  · exact (hfilled hp hlist).of_eq hends.lc hends.work.call.frame

end Enabling

end Sys2Proof.Machine

namespace Sys2Proof.Machine

/-! ## A rejected position commit writes the entry's status first (R62, R130) -/

section PositionStatus

theorem positionStatusWords_length (s : State) (p : Nat) : (positionStatusWords s p).length = 19 := by simp [positionStatusWords, handsetWords]

theorem positionStatusEntry_length (s : State) (p : Nat) : (positionStatusEntry s p).length = 64 := by
  rw [positionStatusEntry, List.length_append, positionStatusWords_length, List.length_replicate]

theorem positionStatusEntry_getD (s : State) (p i : Nat) (h : i < (positionStatusWords s p).length) :
    (positionStatusEntry s p).getD i 0#32 = (positionStatusWords s p).getD i 0#32 := List.getD_append _ _ _ _ h

/-- The words that a mirror compares are the first of the entry. -/
theorem positionStatusWords_mem_entry (s : State) (p off : Nat) (e : Nat × Word) (h : e ∈ writesAt off (positionStatusWords s p)) :
    e ∈ writesAt off (positionStatusEntry s p) := by
  simp only [writesAt, List.mem_map, List.mem_range] at h ⊢
  obtain ⟨i, hi, rfl⟩ := h
  refine ⟨i, ?_, by rw [positionStatusEntry_getD s p i hi]⟩
  rw [positionStatusWords_length] at hi
  rw [positionStatusEntry_length]
  omega

theorem positionStatus_isMirror {p i : Nat} (hp : p < 32) (hi : i < 64) : IsMirror (positionStatusOffset p + i) := by
  simp only [positionStatusOffset, IsMirror]
  omega

/-- A rejected position commit: the whole status, the event, and at most the same words again (R62, R130). -/
theorem position_statusWrittenFirst {s u : State} {p : Nat} {e : Event} (hp : p < 32) (hhead : s.eu.evtHead < 256)
    (hw : writesOf u = writesOf s ++ writesAt (positionStatusOffset p) (positionStatusEntry u p) ++ writesAt (eventOffset s.eu.evtHead) (e.words s.frame))
    (hother : ∀ q, q ≠ p → positionStatusWords u q = positionStatusWords s q) (hlc : u.lc = s.lc) (hcc : u.cc = s.cc) (hra : u.ra = s.ra) :
    StatusWrittenFirst s (settle s u) (positionStatusOffset p) (positionStatusEntry s p) (positionStatusEntry (settle s u) p) e := by
  have hsettled : positionStatusEntry (settle s u) p = positionStatusEntry u p := by
    rw [positionStatusEntry, positionStatusWords_congr (settle_lc s u) (settle_hc s u) (settle_mx s u), ← positionStatusEntry]
  obtain ⟨hzlc, hzhc, hzmx, hzra, hzpaths, hzw⟩ := beforeMirrors_rest u
  have hz := settle_writes_eq s u
  change _ = _ ++ allMirrorChanges s (beforeMirrors u) at hz
  generalize beforeMirrors u = z at hz hzlc hzhc hzmx hzra hzpaths hzw
  rw [hw] at hzw
  have hpositions : positionStatusWords z = positionStatusWords u := positionStatusWords_congr hzlc hzhc hzmx
  have hlines : lineStatusWords z = lineStatusWords s := lineStatusWords_congr (hzlc.trans hlc) (hzpaths.trans (by rw [hcc]))
  have hrecorders : recorderStatusWords z = recorderStatusWords s := recorderStatusWords_congr (hzra.trans hra)
  have helsewhere : ∀ k, IsMirror k → ¬(positionStatusOffset p ≤ k ∧ k < positionStatusOffset p + 64) → partWrote z k = partWrote s k := fun k hk ho =>
    partWrote_elsewhere hzw (eventWords_length _ _) hhead hk (by rwa [positionStatusEntry_length])
  have hown : ∀ i < (positionStatusWords z p).length, partWrote z (positionStatusOffset p + i) = some ((positionStatusWords z p).getD i 0#32) := by
    intro i hi
    rw [hpositions] at hi ⊢
    rw [← positionStatusEntry_getD u p i hi]
    rw [positionStatusWords_length] at hi
    exact partWrote_entry hzw (eventWords_length _ _) hhead (positionStatus_isMirror hp (by omega)) (by rw [positionStatusEntry_length]; omega)
  have hothers : ∀ q < 32, q ≠ p → changedWords s z (positionStatusOffset q) (positionStatusWords s q) (positionStatusWords z q) = [] := fun q hq hne => by
    rw [hpositions, hother q hne]
    refine changedWords_kept _ _ fun j hj => ?_
    rw [positionStatusWords_length] at hj
    exact helsewhere _ (positionStatus_isMirror hq (by omega)) (by simp only [positionStatusOffset]; omega)
  have hall : allMirrorChanges s z = mirrorChanges 32 positionStatusOffset positionStatusWords listedPositions s z := by
    rw [allMirrorChanges, mirrorChanges_none (offset := lineStatusOffset) fun n hn => ?_,
      mirrorChanges_none (offset := recorderStatusOffset) fun r hr => ?_, List.append_nil, List.nil_append]
    · rw [hrecorders]
      refine changedWords_kept _ _ fun j hj => helsewhere _ ?_ ?_ <;> simp [recorderStatusWords] at hj <;>
        simp only [recorderStatusOffset, positionStatusOffset, IsMirror] <;> omega
    · rw [hlines]
      refine changedWords_kept _ _ fun j hj => helsewhere _ ?_ ?_ <;> simp [lineStatusWords] at hj <;>
        simp only [lineStatusOffset, positionStatusOffset, IsMirror] <;> omega
  refine ⟨allMirrorChanges s z, by rw [hz, hw, hsettled], fun w hwm => ?_, fun hshown => ?_⟩
  · rw [hall] at hwm
    rw [hsettled]
    refine positionStatusWords_mem_entry u p _ w ?_
    rw [← hpositions]
    exact changedWords_mem _ _ _ w (mirrorChanges_one hothers w hwm)
  · rw [hall]
    refine mirrorChanges_none fun q hq => ?_
    by_cases hqp : q = p
    · rw [hqp]
      refine changedWords_written _ _ _ hown fun i hi => ?_
      rw [← positionStatusEntry_getD s p i hi]
      rw [positionStatusWords_length] at hi
      exact hshown i (by rw [positionStatusEntry_length]; omega)
    · exact hothers q hq hqp

end PositionStatus

section PositionRejected

/-- The position whose entry is rejected. -/
def positionRejected (w : State) (p : Nat) : State := modPosition w p fun r => { r with configRejected := true }

theorem commitPosition_none {w : State} {p : Nat}
    (h : parsePosition w.su.positionCount w.su.lineCount w.su.bridgeCount p (writtenCopy w (positionConfigOffset p) 64) = none) :
    commitPosition w p = rejectCommit (positionRejected w p) (writesAt (positionStatusOffset p) (positionStatusEntry (positionRejected w p) p)) (.position p) := by
  unfold commitPosition
  rw [h]
  rfl

/-- What a rejected commit leaves: the flag, the whole status and the event (R62, R130). -/
theorem positionRejected_spec {w : State} {p : Nat} (hp : p < 32) (hpart : w.su.part ≠ .loading) (hu : w.eu.unread ≤ 254) :
    let u := rejectCommit (positionRejected w p) (writesAt (positionStatusOffset p) (positionStatusEntry (positionRejected w p) p)) (.position p)
    Work w u [.events, .hc] ∧ u.position p = { w.position p with configRejected := true } ∧ (∀ q, q ≠ p → u.position q = w.position q) ∧
    ((∀ q, q ≠ p → positionStatusWords u q = positionStatusWords w q) ∧ u.lc = w.lc ∧ u.cc = w.cc ∧ u.ra = w.ra ∧
      writesOf u = writesOf w ++ writesAt (positionStatusOffset p) (positionStatusEntry u p) ++
        writesAt (eventOffset w.eu.evtHead) ((Event.configReject (.position p)).words w.frame)) ∧
    EventAt u w.eu.evtHead (.configReject (.position p)) w.frame := by
  have hrecord : ∀ q, (positionRejected w p).position q = if q = p then { w.position p with configRejected := true } else w.position q := fun q => by
    simp [positionRejected]
  have hwork : Work w (positionRejected w p) [.hc] := work_modPosition w p _
  obtain ⟨hsu, heu, hframe, hmx, hhandsets, hlc, hcc, hra, hbi⟩ : (positionRejected w p).su = w.su ∧ (positionRejected w p).eu = w.eu ∧
      (positionRejected w p).frame = w.frame ∧ (positionRejected w p).mx = w.mx ∧ (positionRejected w p).hc.handsets = w.hc.handsets ∧
      (positionRejected w p).lc = w.lc ∧ (positionRejected w p).cc = w.cc ∧ (positionRejected w p).ra = w.ra ∧
      writesOf (positionRejected w p) = writesOf w := ⟨rfl, rfl, rfl, rfl, rfl, rfl, rfl, rfl, rfl⟩
  generalize positionRejected w p = x at *
  intro u
  have hu' : u = issue (postAll x (writesAt (positionStatusOffset p) (positionStatusEntry x p))) (.configReject (.position p)) :=
    rejectCommit_of_carrying _ _ (by rwa [hsu])
  have hmirror : ∀ e ∈ writesAt (positionStatusOffset p) (positionStatusEntry x p), IsMirror e.1 := fun e he => by
    obtain ⟨hlow, hhigh⟩ := writesAt_offsets _ _ e he
    rw [positionStatusEntry_length] at hhigh
    obtain ⟨i, hi⟩ := Nat.exists_eq_add_of_le hlow
    rw [hi]
    exact positionStatus_isMirror hp (by omega)
  have hulc : u.lc = x.lc := by rw [hu']; simp
  have huhc : u.hc = x.hc := by rw [hu']; simp
  have humx : u.mx = x.mx := by rw [hu']; simp
  have huposition : ∀ q, u.position q = x.position q := State.position_congr huhc
  have hstatus : positionStatusWords u = positionStatusWords x := positionStatusWords_congr hulc huhc humx
  refine ⟨(hwork.mono (by decide)).step (work_rejectCommit (.position p) (by rwa [hsu]) hmirror), ?_, fun q hq => ?_,
    ⟨fun q hq => ?_, hulc.trans hlc, ?_, ?_, ?_⟩, ?_⟩
  · rw [huposition, hrecord, if_pos rfl]
  · rw [huposition, hrecord, if_neg hq]
  · have hposition : x.position q = w.position q := by rw [hrecord, if_neg hq]
    have hhandset : ∀ r, x.handset r = w.handset r := fun r => by simp only [State.handset, hhandsets]
    rw [hstatus]
    simp only [positionStatusWords, hposition, hhandset, State.speaker_congr hmx, State.alertList_congr hlc]
  · rw [hu']
    simpa using hcc
  · rw [hu']
    simpa using hra
  · have hwrites := rejectCommit_writes (s := x) (writesAt (positionStatusOffset p) (positionStatusEntry x p)) (.position p)
    rw [if_pos (by rwa [heu]), heu, hframe, hbi] at hwrites
    rw [positionStatusEntry, hstatus]
    exact hwrites
  · have hevent := issue_eventAt (postAll x (writesAt (positionStatusOffset p) (positionStatusEntry x p))) (.configReject (.position p))
      (by rw [postAll_eu, heu]; exact hu)
    rwa [← hu', postAll_eu, postAll_frame, heu, hframe] at hevent

end PositionRejected

end Sys2Proof.Machine

namespace Sys2Proof.Machine

section PositionCommitted

variable {w s t u x : State} {p : Nat} {cfg : PosConfig} {ps : List Party}

/-- A position with a valid entry applied, before what follows from it. -/
def positionConfigured (w : State) (p : Nat) (cfg : PosConfig) : State := modPosition w p fun r => { r with applied := cfg, configRejected := false }

theorem positionConfigured_position (q : Nat) : (positionConfigured w p cfg).position q =
    if q = p then { w.position p with applied := cfg, configRejected := false } else w.position q := by simp [positionConfigured]

theorem applyPosition_enables (hold : (w.position p).applied.enabled = false) (hnew : cfg.enabled = true) :
    applyPosition w p cfg = enablePosition (positionConfigured w p cfg) p := by
  simp only [applyPosition, positionConfigured, hold, hnew]

theorem applyPosition_disables (hold : (w.position p).applied.enabled = true) (hnew : cfg.enabled = false) :
    applyPosition w p cfg = disablePosition (positionConfigured w p cfg) p := by
  simp only [applyPosition, positionConfigured, hold, hnew]

theorem applyPosition_changes (hold : (w.position p).applied.enabled = true) (hnew : cfg.enabled = true) :
    applyPosition w p cfg = changePosition (positionConfigured w p cfg) p (w.position p).applied cfg := by
  simp only [applyPosition, positionConfigured, hold, hnew]

theorem applyPosition_rests (hold : (w.position p).applied.enabled = false) (hnew : cfg.enabled = false) :
    applyPosition w p cfg = positionConfigured w p cfg := by
  simp only [applyPosition, positionConfigured, hold, hnew]

/-- What every valid commit keeps: applied fields, and the other positions' speakers and alert lists (R62). -/
theorem applyPosition_keeps (w : State) (p : Nat) (cfg : PosConfig) :
    CommitWork w (applyPosition w p cfg) [.events, .alarms, .lc, .cc, .link, .hc, .mx, .ra, .um] ∧
    ConfigKept (positionConfigured w p cfg) (applyPosition w p cfg) ∧
    (∀ q, q ≠ p → (applyPosition w p cfg).speaker q = w.speaker q) ∧ ∀ q, q ≠ p → (applyPosition w p cfg).alertList q = w.alertList q := by
  have hstart : CommitWork w (positionConfigured w p cfg) [.events, .alarms, .lc, .cc, .link, .hc, .mx, .ra, .um] :=
    (work_modPosition w p _).commit.mono (by decide)
  have hspeaker : ∀ q, (positionConfigured w p cfg).speaker q = w.speaker q := fun _ => rfl
  have hlist : ∀ q, (positionConfigured w p cfg).alertList q = w.alertList q := fun _ => rfl
  cases hold : (w.position p).applied.enabled <;> cases hnew : cfg.enabled
  case false.false =>
    rw [applyPosition_rests hold hnew]
    exact ⟨hstart, .refl _, fun q _ => hspeaker q, fun q _ => hlist q⟩
  case false.true =>
    obtain ⟨hwork, -, -, hspeakers, hlists, -⟩ := enablePosition_spec (positionConfigured w p cfg) p
    rw [applyPosition_enables hold hnew]
    exact ⟨hstart.step hwork, configKept_enablePosition p (.refl _), fun q hq => (hspeakers q hq).trans (hspeaker q), fun q hq => (hlists q hq).trans (hlist q)⟩
  case true.false =>
    obtain ⟨hwork, -, -, hspeakers, -, hlists, -⟩ := disablePosition_spec (positionConfigured w p cfg) p
    rw [applyPosition_disables hold hnew]
    exact ⟨hstart.step hwork, configKept_disablePosition p (.refl _), fun q hq => (hspeakers q hq).trans (hspeaker q), fun q hq => (hlists q hq).trans (hlist q)⟩
  case true.true =>
    obtain ⟨hwork, hlists, hspeakers, -⟩ := changePosition_spec (positionConfigured w p cfg) p (w.position p).applied cfg
    rw [applyPosition_changes hold hnew]
    exact ⟨hstart.step hwork, configKept_changePosition p _ _ (.refl _), fun q hq => (hspeakers q hq).trans (hspeaker q), fun q _ => (hlists q).trans (hlist q)⟩

/-- What handsets leave is a matter of the lines, the handsets and the frame alone. -/
theorem HandsetsLeft.of_eq (h : HandsetsLeft x u ps) (hlines : ∀ n, x.line n = s.line n) (hhandsets : ∀ q, x.handset q = s.handset q)
    (hframe : x.frame = s.frame) (hafter : ∀ n, t.line n = u.line n) : HandsetsLeft s t ps := by
  have hstay : ∀ n, participantsWithout x ps n = participantsWithout s ps n := fun n => by simp only [participantsWithout, hlines, hhandsets]
  exact ⟨by simpa only [hafter, hstay] using h.participants, by simpa only [hafter, hstay, hlines, hframe] using h.released⟩

theorem commitPosition_some (h : parsePosition w.su.positionCount w.su.lineCount w.su.bridgeCount p (writtenCopy w (positionConfigOffset p) 64) = some cfg) :
    commitPosition w p = applyPosition w p cfg := by
  unfold commitPosition
  rw [h]

end PositionCommitted

/-- Settles O17: a valid entry by what becomes of its enabled field; an invalid one by its status and the event. -/
theorem positionCommitApplies : Obligations.PositionCommitApplies := by
  unfold Obligations.PositionCommitApplies
  intro p data be s ws hc htaken he hws
  have hcarrying := notLoading_of_copying hc
  have hexec := exec_positionCommit (data := data) p hc htaken
  refine ⟨fun cfg hparse => ?_, fun hparse hu => ?_⟩
  · have hcommit := commitPosition_some (w := merged s (positionConfigOffset p) data be) (p := p) (hws ▸ hparse)
    obtain ⟨hwork, hkept, hspeakers, hlists⟩ := applyPosition_keeps (merged s (positionConfigOffset p) data be) p cfg
    obtain ⟨hwrote, hcopied, hleaves⟩ := wrote_commit hwork he s
    have hheld : (applyPosition (merged s (positionConfigOffset p) data be) p cfg).bi.held = [] := by
      have hbi := hwork.bi
      simp only [Prod.mk.injEq] at hbi
      exact hbi.2.2.2.2.1.trans htaken.none
    rw [hcommit, done_of_nothingHeld _ _ hheld] at hexec
    have henables := applyPosition_enables (w := merged s (positionConfigOffset p) data be) (p := p) (cfg := cfg)
    have hdisables := applyPosition_disables (w := merged s (positionConfigOffset p) data be) (p := p) (cfg := cfg)
    have hchanges := applyPosition_changes (w := merged s (positionConfigOffset p) data be) (p := p) (cfg := cfg)
    have hposition := fun q => positionConfigured_position (w := merged s (positionConfigOffset p) data be) (p := p) (cfg := cfg) q
    have hframe : (positionConfigured (merged s (positionConfigOffset p) data be) p cfg).frame = s.frame := rfl
    have hline : ∀ n, (positionConfigured (merged s (positionConfigOffset p) data be) p cfg).line n = s.line n := fun _ => rfl
    have hhandset : ∀ q, (positionConfigured (merged s (positionConfigOffset p) data be) p cfg).handset q = s.handset q := fun _ => rfl
    have hcall : ∀ c, (positionConfigured (merged s (positionConfigOffset p) data be) p cfg).call c = s.call c := fun _ => rfl
    have hspeaker : (positionConfigured (merged s (positionConfigOffset p) data be) p cfg).speaker p = s.speaker p := rfl
    have halerts : (positionConfigured (merged s (positionConfigOffset p) data be) p cfg).alertList p = s.alertList p := rfl
    have hlines : (positionConfigured (merged s (positionConfigOffset p) data be) p cfg).lc.lines = s.lc.lines := rfl
    simp only [merged_position] at henables hdisables hchanges hposition
    generalize positionConfigured (merged s (positionConfigOffset p) data be) p cfg = x at *
    generalize applyPosition (merged s (positionConfigOffset p) data be) p cfg = u at *
    have hsetPosition := State.position_congr (settle_hc s u)
    have hsetSpeaker := State.speaker_congr (settle_mx s u)
    have hsetLine := State.line_congr (settle_lc s u)
    have hsetList := State.alertList_congr (settle_lc s u)
    have hsetHandset := State.handset_congr (settle_hc s u)
    have hsetCall : ∀ c, (settle s u).call c = u.call c := fun c => by simp only [State.call, settle_hc]
    refine ⟨_, hexec, ?_⟩
    simp only [hsetPosition, hsetSpeaker, hsetList, hsetHandset, hsetCall]
    refine ⟨?_, ?_, fun q hq => ?_, fun hold hnew => ?_, hlists, fun hold hnew => ?_, fun hold hnew => ?_, hspeakers, hwrote, hcopied, hleaves.mono (by decide)⟩
    · rw [(hkept.position p).1, hposition, if_pos rfl]
    · rw [(hkept.position p).2, hposition, if_pos rfl]
    · rw [(hkept.position q).1, hposition, if_neg hq]
    · obtain ⟨-, hptt, hchannels, -, -, hsame, hfilled⟩ := enablePosition_spec x p
      rw [← henables hold hnew] at hptt hchannels hsame hfilled
      rw [hposition, if_pos rfl] at hchannels hfilled
      exact ⟨hptt, hchannels, fun hlist => (hfilled hnew (halerts.trans hlist)).of_eq (settle_lc s u) (settle_frame s u),
        by rw [settle_lc, hsame, hlines]⟩
    · obtain ⟨-, hptt, hsources, -, hlist, -, hcleared, hleft, hcalls⟩ := disablePosition_spec x p
      rw [← hdisables hold hnew] at hptt hsources hlist hcleared hleft hcalls
      simp only [hcall] at hcalls
      exact ⟨hptt, hsources, hlist, hcleared, hleft.of_eq hline hhandset hframe hsetLine, hcalls⟩
    · obtain ⟨-, -, -, hgone, hleft, hstay, hchannels, hptt⟩ := changePosition_spec x p (s.position p).applied cfg
      rw [← hchanges hold hnew] at hgone hleft hstay hchannels hptt
      rw [hspeaker] at hchannels hptt
      simp only [leavesMask_iff, hcall, hhandset, ne_eq] at hgone hstay
      refine ⟨fun h hh hin hout => hgone h hh ⟨hin, hout⟩, hleft.of_eq hline hhandset hframe hsetLine, hstay, fun i hi => ?_, ?_⟩
      · rw [hchannels]
        simp only [mem_changedChannels, hi, true_and, ne_eq, ite_not]
      · rw [hptt]
        congr 1
        funext i
        simp only [mem_changedChannels, not_and, not_not, imp_iff_not_or, Nat.not_lt]
  · have hcommit := commitPosition_none (w := merged s (positionConfigOffset p) data be) (p := p) (hws ▸ hparse)
    obtain ⟨hwork, hrecord, hothers, ⟨hstatus, hlc, hcc, hra, hwrites⟩, hevent⟩ :=
      positionRejected_spec (w := merged s (positionConfigOffset p) data be) p.isLt hcarrying hu
    rw [← hcommit] at hwork hrecord hothers hstatus hlc hcc hra hwrites hevent
    rw [done_merged hwork htaken.none] at hexec
    obtain ⟨hwrote, hcopied, hleaves⟩ := wrote_settle hwork he s
    have hposition := State.position_congr (settle_hc s (commitPosition (merged s (positionConfigOffset p) data be) p))
    exact ⟨_, hexec, (hposition p).trans hrecord, fun q hq => (hposition q).trans (hothers q hq), hevent.settle he s,
      position_statusWrittenFirst p.isLt he hwrites hstatus hlc hcc hra, hwrote, hcopied, hleaves.mono (by decide)⟩

end Sys2Proof.Machine

namespace Sys2Proof.Machine

/-! ## Work on lines and circuits alone: what it leaves, whatever the event ring's head (R33, R34) -/

section LinkWork

variable {s t u : State}

theorem CcOnly.lc (h : CcOnly s t) : t.lc = s.lc := h.rest.1

theorem CcOnly.parts (h : CcOnly s t) : t.eu = s.eu ∧ t.hc = s.hc ∧ t.su = s.su ∧ t.frame = s.frame := by
  obtain ⟨x, rfl⟩ := h
  exact ⟨rfl, rfl, rfl, rfl⟩

theorem CallsOnly.frame (h : CallsOnly s t) : t.frame = s.frame := by
  obtain ⟨l, x, rfl⟩ := h
  rfl

theorem CcOnly.leaves (h : CcOnly s t) : Leaves s t [.cc, .link] := by
  obtain ⟨x, rfl⟩ := h
  refine ⟨rfl, fun b hb => ?_⟩
  cases b <;> simp at hb <;> simp [Same]
  case words => exact fun _ _ => rfl

theorem CallsOnly.leaves (h : CallsOnly s t) : Leaves s t [.lc, .cc, .link] := by
  obtain ⟨l, x, rfl⟩ := h
  refine ⟨rfl, fun b hb => ?_⟩
  cases b <;> simp at hb <;> simp [Same]
  case words => exact fun _ _ => rfl

/-- A command whose work the processor's held accesses do not see, with none held: its next state and what it leaves. -/
theorem Leaves.done {xs : List Block} (h : Leaves s u xs) (hbus : u.bi.held = s.bi.held) (hheld : s.bi.held = []) (b : State) :
    Machine.done b u = .next (settle b u) ∧ Leaves s (settle b u) xs :=
  ⟨done_of_nothingHeld b u (hbus.trans hheld), by simpa using h.trans (leaves_settle b u)⟩

theorem CcOnly.done (h : CcOnly s u) (hheld : s.bi.held = []) (b : State) :
    Machine.done b u = .next (settle b u) ∧ Leaves s (settle b u) [.cc, .link] :=
  h.leaves.done (by rw [h.rest.2.1]) hheld b

theorem CallsOnly.done (h : CallsOnly s u) (hheld : s.bi.held = []) (b : State) :
    Machine.done b u = .next (settle b u) ∧ Leaves s (settle b u) [.lc, .cc, .link] :=
  h.leaves.done (by rw [h.rest.1]) hheld b

/-- What a request leaves: what its own effects leave, but the ring, the engine and the event ring (R151). -/
theorem Leaves.requestEnd {xs : List Block} (h : Leaves s u xs) (he : u.eu.evtHead < 256) (b : State) (ws : List Word) (r : Result) :
    Leaves s (requestEnd b u ws r) (xs ++ [.ring, .take, .events]) := by
  have hmirrors : Leaves s (postMirrors b u) xs := by simpa using h.trans (leaves_postMirrors u b)
  exact leaves_completed hmirrors (by simpa using he) b ws r _

end LinkWork

/-! ## A line whose circuit is driven: ringing on and off (R33, R37, R50; O39) -/

section Driven

/-- One line's record is a given one and one circuit is wanted in a given state; every other line and circuit is as it was. -/
structure Driven (s u : State) (n c : Nat) (l : LineRec) (d : LinkState) : Prop where
  calls   : CallsOnly s u
  line    : ∀ m, u.line m = if m = n then l else s.line m
  circuit : ∀ e, u.circuit e = if e = c then { s.circuit c with desired := d } else s.circuit e

variable {s u : State} {n c : Nat} {l : LineRec} {d : LinkState}

theorem Driven.refl (s : State) (n c : Nat) : Driven s s n c (s.line n) (s.circuit c).desired where
  calls := .refl s
  line m := by split <;> simp [*]
  circuit e := by split <;> simp [*]

theorem Driven.modLine (h : Driven s u n c l d) (f : LineRec → LineRec) : Driven s (modLine u n f) n c (f l) d where
  calls := h.calls.trans (callsOnly_modLine u n f)
  line m := by
    have hn : u.line n = l := by rw [h.line, if_pos rfl]
    by_cases hm : m = n <;> simp [hm, hn, h.line]
  circuit e := by simpa using h.circuit e

/-- The line's circuit is wanted in another state (R33). -/
theorem Driven.wantActive (h : Driven s u n c l d) (hactive : l.active = some c) (d' : LinkState) :
    Driven s (wantActive u n d') n c l d' := by
  have hn : (u.line n).active = some c := by rw [h.line, if_pos rfl, hactive]
  have hwant : Machine.wantActive u n d' = setDesired u c d' := by simp [Machine.wantActive, hn]
  rw [hwant]
  exact {
    calls := h.calls.trans (ccOnly_setDesired u c d').calls
    line := fun m => by rw [setDesired_line, h.line]
    circuit := fun e => by
      rw [setDesired_circuit, h.circuit c, h.circuit e]
      split <;> simp }

theorem Driven.startSignal (h : Driven s u n c l d) (p : SignalPurpose) (k : Nat) :
    Driven s (startSignal u n p k) n c { l with signalTimer := some (p, after s k) } d := by
  have hafter : after u k = after s k := by rw [after, after, h.calls.frame]
  rw [← hafter]
  exact h.modLine _

theorem Driven.next (h : Driven s u n c l d) (hheld : s.bi.held = []) :
    ∃ t, done s u = .next t ∧ t.line n = l ∧ t.circuit c = { s.circuit c with desired := d } ∧ (∀ m, m ≠ n → t.line m = s.line m) ∧
      (∀ e, e ≠ c → t.circuit e = s.circuit e) ∧ Leaves s t [.lc, .cc, .link] := by
  obtain ⟨hdone, hleaves⟩ := h.calls.done hheld s
  refine ⟨_, hdone, ?_, ?_, fun m hm => ?_, fun e he => ?_, hleaves⟩
  · rw [settle_line, h.line, if_pos rfl]
  · rw [settle_circuit, h.circuit, if_pos rfl]
  · rw [settle_line, h.line, if_neg hm]
  · rw [settle_circuit, h.circuit, if_neg he]

theorem cadence_drives (s : State) (n c : Nat) (hactive : (s.line n).active = some c) (want : LinkState) (next : SignalPurpose) (k : Nat) :
    Driven s (cadence s n want next k) n c { s.line n with signalTimer := some (next, after s k) } want :=
  ((Driven.refl s n c).wantActive hactive want).startSignal next k

theorem burstExpires_drives (s : State) (n c : Nat) (hactive : (s.line n).active = some c) :
    Driven s (burstExpires s n) n c { s.line n with signalTimer := none, ringBurst := false } .seized :=
  (((Driven.refl s n c).wantActive hactive .seized).modLine _).modLine _

/-- The burst of a SIGNAL request (R50). -/
theorem startBurst_drives (s : State) (n c : Nat) (hactive : (s.line n).active = some c) :
    Driven s (startBurst s n) n c { s.line n with ringBurst := true, signalTimer := some (.burst, after s 8000) } .seizedRinging :=
  (((Driven.refl s n c).modLine fun l => { l with ringBurst := true }).wantActive hactive .seizedRinging).startSignal .burst 8000

end Driven

/-- Settles O39: each expiry drives the line's circuit, and only that line and circuit. -/
theorem signalExpiriesDriveRinging : Obligations.SignalExpiriesDriveRinging := by
  intro n c s hheld hactive
  refine ⟨fun hdue => ?_, fun hdue => ?_, fun hdue => ?_⟩
  · have hexec : exec (.cadenceOn n) s = done s (cadence s n .seized .cadenceOff 32000) := by
      simp [exec, execCadenceOn, hdue, Config.cadenceOffFrames]
    rw [hexec]
    exact (cadence_drives s n c hactive _ _ _).next hheld
  · have hexec : exec (.cadenceOff n) s = done s (cadence s n .seizedRinging .cadenceOn 16000) := by
      simp [exec, execCadenceOff, hdue, Config.cadenceOnFrames]
    rw [hexec]
    exact (cadence_drives s n c hactive _ _ _).next hheld
  · have hexec : exec (.burst n) s = done s (burstExpires s n) := by simp [exec, execBurst, hdue]
    rw [hexec]
    exact (burstExpires_drives s n c hactive).next hheld

end Sys2Proof.Machine

namespace Sys2Proof.Machine

/-! ## Masks of the lines that name a circuit (R29, R45, R46) -/

section NamingMasks

variable (s : State) (c : Nat)

theorem setMaskBit_setMaskBit (m : BitVec 4) (i : Nat) (b : Bool) : setMaskBit (setMaskBit m i b) i b = setMaskBit m i b := by
  refine BitVec.eq_of_getLsbD_eq fun j hj => ?_
  simp only [setMaskBit_getLsbD, hj, decide_true, Bool.true_and]
  split <;> rfl

theorem setMaskBit_same (m : BitVec 4) {i : Nat} (b : Bool) (h : i < 4) : (setMaskBit m i b).getLsbD i = b := by
  rw [setMaskBit_getLsbD, if_pos rfl, decide_eq_true h, Bool.true_and]

/-- A change of the masks of some lines, each at the position that names the circuit, if it has one. -/
theorem foldNaming_path (g : Nat → PathRec → PathRec) (hg : ∀ i p, g i (g i p) = g i p) (l : List Nat) (t : State) (m : Nat) :
    (l.foldl (fun st n => match positionIn (s.line n).eff.path c with
      | some i => modPath st n (g i)
      | none => st) t).path m =
    if m ∈ l then (positionIn (s.line m).eff.path c).elim (t.path m) fun i => g i (t.path m) else t.path m := by
  induction l generalizing t with
  | nil => simp
  | cons n l ih =>
    rw [List.foldl_cons, ih]
    by_cases hm : m = n
    · subst hm
      cases positionIn (s.line m).eff.path c <;> simp [hg]
    · cases positionIn (s.line n).eff.path c <;> simp [hm]

/-- Every line whose group names the circuit has its masks changed: a line that the table does not hold has no group. -/
theorem forNaming_path (g : Nat → PathRec → PathRec) (hg : ∀ i p, g i (g i p) = g i p) (m : Nat) :
    (forNaming s c fun st n i => modPath st n (g i)).path m =
      (positionIn (s.line m).eff.path c).elim (s.path m) fun i => g i (s.path m) := by
  have hfold := foldNaming_path s c g hg (Table.mergeKeys [] (Table.keys s.lc.lines)) s m
  refine Eq.trans hfold ?_
  by_cases hm : m ∈ Table.mergeKeys [] (Table.keys s.lc.lines)
  · rw [if_pos hm]
  · have hcold : s.line m = LineRec.cold := by
      by_contra hne
      exact hm ((mem_mergeKeys _ _ _).mpr (.inr (Table.mem_keys_of_get_ne hne)))
    rw [if_neg hm, hcold]
    rfl

theorem setAvailable_path (b : Bool) (m : Nat) : (setAvailable s c b).path m =
    (positionIn (s.line m).eff.path c).elim (s.path m) fun i =>
      { s.path m with available := setMaskBit (s.path m).available i (b && (s.path m).installed.getLsbD i) } :=
  forNaming_path s c (fun i p => { p with available := setMaskBit p.available i (b && p.installed.getLsbD i) })
    (fun i p => by simp [setMaskBit_setMaskBit]) m

theorem setOperational_path (m : Nat) : (setOperational s c).path m =
    (positionIn (s.line m).eff.path c).elim (s.path m) fun i =>
      { s.path m with operational := setMaskBit (s.path m).operational i ((s.path m).installed.getLsbD i) } :=
  forNaming_path s c (fun i p => { p with operational := setMaskBit p.operational i (p.installed.getLsbD i) })
    (fun i p => by simp [setMaskBit_setMaskBit]) m

/-- Only path masks differ. -/
def PathsOnly (s t : State) : Prop := ∃ p, t = { s with cc := { s.cc with paths := p } }

theorem pathsOnly_setAvailable (b : Bool) : PathsOnly s (setAvailable s c b) := setAvailable_other s c b

theorem pathsOnly_setOperational : PathsOnly s (setOperational s c) := by
  refine forNaming_induction s c _ (PathsOnly s) ⟨s.cc.paths, rfl⟩ fun t n i _ h => ?_
  obtain ⟨p, rfl⟩ := h
  exact ⟨_, rfl⟩

theorem PathsOnly.rest {s t : State} (h : PathsOnly s t) : CcOnly s t ∧ (∀ e, t.circuit e = s.circuit e) ∧
    t.cc.pendingList = s.cc.pendingList ∧ ∀ m, t.line m = s.line m := by
  obtain ⟨p, rfl⟩ := h
  exact ⟨⟨_, rfl⟩, fun _ => rfl, rfl, fun _ => rfl⟩

/-- A circuit made unavailable is so at every position that names it, and nothing else of the masks changes (R29, R45). -/
theorem setAvailable_false_path (m : Nat) :
    (setAvailable s c false).path m = { s.path m with available := ((setAvailable s c false).path m).available } ∧
    ∀ i, positionIn (s.line m).eff.path c = some i → ((setAvailable s c false).path m).available.getLsbD i = false := by
  rw [setAvailable_path]
  cases positionIn (s.line m).eff.path c with
  | none => exact ⟨rfl, fun i hi => by simp at hi⟩
  | some i =>
    refine ⟨rfl, fun j hj => ?_⟩
    obtain rfl := Option.some.inj hj
    simp

end NamingMasks

/-! ## Circuits that return to use (R28, R29, R46; O36) -/

section Returning

variable {s v : State} {c : Nat}

/-- A circuit that no NAILED line waits for brings none back (R46). -/
theorem bringBackAll_none (hv : CcOnly s v) (h : linkActive s = false ∨ lostNailed s c = []) : bringBackAll v c = v := by
  obtain ⟨x, rfl⟩ := hv
  rcases h with h | h
  · have hactive : linkActive { s with cc := x } = false := h
    simp [bringBackAll, hactive]
  · have hlost : lostNailed { s with cc := x } c = [] := h
    simp [bringBackAll, hlost]

/-- The circuit is free again and its positions available, before NAILED lines are brought back (R46). -/
def backInUse (s : State) (c : Nat) : State := setAvailable (setOperational (enterIdle s c) c) c true

theorem backInUse_rest (s : State) (c : Nat) : CcOnly s (backInUse s c) ∧
    ∀ e, (backInUse s c).circuit e =
      if e = c then { s.circuit c with state := if isNamed s c then .idle else .uninstalled } else s.circuit e := by
  obtain ⟨hcc, hcircuit, -⟩ := (pathsOnly_setOperational (enterIdle s c) c).rest
  obtain ⟨hcc', hcircuit', -⟩ := (pathsOnly_setAvailable (setOperational (enterIdle s c) c) c true).rest
  exact ⟨(ccOnly_enterIdle s c).trans (hcc.trans hcc'), fun e => by rw [backInUse, hcircuit', hcircuit, enterIdle_circuit]⟩

theorem backInUse_path (s : State) (c n i : Nat) (hi : positionIn (s.line n).eff.path c = some i) (hlt : i < 4) :
    ((backInUse s c).path n).available.getLsbD i = (s.path n).installed.getLsbD i ∧
    ((backInUse s c).path n).operational.getLsbD i = (s.path n).installed.getLsbD i := by
  obtain ⟨-, -, -, hline⟩ := (pathsOnly_setOperational (enterIdle s c) c).rest
  rw [backInUse, setAvailable_path, hline, enterIdle_line, hi]
  simp [setOperational_path, hi, setMaskBit_same _ _ hlt, -setMaskBit_getLsbD]

/-- The circuit that its RESET_DONE frees, before NAILED lines are brought back (R46). -/
def resetFreed (s : State) (c : Nat) : State :=
  setAvailable (enterIdle (relist (modCircuit s c fun r => { r with desired := .idle, lastSent := .idle }) c) c) c true

theorem resetFreed_rest (s : State) (c : Nat) : CcOnly s (resetFreed s c) ∧
    (∀ e, (resetFreed s c).circuit e =
      if e = c then { s.circuit c with desired := .idle, lastSent := .idle, state := if isNamed s c then .idle else .uninstalled }
      else s.circuit e) ∧
    ∀ n i, i < 4 → positionIn (s.line n).eff.path c = some i →
      ((resetFreed s c).path n).available.getLsbD i = (s.path n).installed.getLsbD i := by
  let w := modCircuit s c fun r => { r with desired := .idle, lastSent := .idle }
  obtain ⟨l, hl⟩ := relist_eq w c
  have hu : resetFreed s c = setAvailable (enterIdle (w.setPendingList l) c) c true := by rw [← hl]; rfl
  obtain ⟨hcc, hcircuit, -⟩ := (pathsOnly_setAvailable (enterIdle (w.setPendingList l) c) c true).rest
  have hnamed : isNamed (w.setPendingList l) c = isNamed s c := rfl
  rw [hu]
  refine ⟨CcOnly.trans ⟨_, rfl⟩ hcc, fun e => ?_, fun n i hlt hi => ?_⟩
  · rw [hcircuit, enterIdle_circuit, hnamed]
    by_cases he : e = c <;> simp [w, he]
  · rw [setAvailable_path, show ((enterIdle (w.setPendingList l) c).line n) = s.line n from rfl, hi]
    simp [w, setMaskBit_same _ _ hlt, -setMaskBit_getLsbD]

end Returning

/-- Settles O36: the circuit is back in use, and no NAILED line waits for it. -/
theorem circuitReturnsToUse : Obligations.CircuitReturnsToUse := by
  intro c s hheld hwaiting
  refine ⟨fun hdown => ?_, fun hresetting hsent => ?_⟩
  · obtain ⟨hcc, hcircuit⟩ := backInUse_rest s c
    have hexec : exec (.circuitUp c) s = done s (backInUse s c) := by
      have hback : circuitUpOn s c = bringBackAll (backInUse s c) c := by simp [circuitUpOn, hdown, backInUse]
      rw [bringBackAll_none hcc hwaiting] at hback
      simp [exec, execCircuitUp, hback]
    obtain ⟨hdone, hleaves⟩ := hcc.done hheld s
    refine ⟨_, hexec.trans hdone, ?_, fun n i hlt hi => ?_, fun d hd => ?_, hleaves⟩
    · rw [settle_circuit, hcircuit, if_pos rfl]
    · rw [settle_path]
      exact backInUse_path s c n i hi hlt
    · rw [settle_circuit, hcircuit, if_neg hd]
  · obtain ⟨hcc, hcircuit, hpath⟩ := resetFreed_rest s c
    have hexec : exec (.resetDone c) s = done s (resetFreed s c) := by
      have hback : resetDoneOn s c = bringBackAll (resetFreed s c) c := by simp [resetDoneOn, hresetting, hsent, resetFreed]
      rw [bringBackAll_none hcc hwaiting] at hback
      simp [exec, execResetDone, hback]
    obtain ⟨hdone, hleaves⟩ := hcc.done hheld s
    refine ⟨_, hexec.trans hdone, ?_, fun n i hlt hi => ?_, fun d hd => ?_, hleaves⟩
    · rw [settle_circuit, hcircuit, if_pos rfl]
    · rw [settle_path]
      exact hpath n i hlt hi
    · rw [settle_circuit, hcircuit, if_neg hd]

end Sys2Proof.Machine

namespace Sys2Proof.Machine

/-! ## CIRCUIT_DOWN (R29, R45; O35) -/

section Downed

variable (s : State) (c : Nat)

/-- The record of a circuit that is out of use (R45). -/
def CircuitRec.downed (r : CircuitRec) : CircuitRec :=
  { r with state := .down, owner := none, desired := .idle, lastSent := .idle, farHeld := false }

/-- The circuit is out of use and its positions unavailable, before its owner learns of it (R45). -/
def takenOut (s : State) (c : Nat) : State := setAvailable (circuitDowned s c) c false

theorem takeDown_takenOut : takeDown s c = ownerLoses (takenOut s c) c (s.circuit c).owner .far := rfl

theorem circuitDowned_rest : CcOnly s (circuitDowned s c) ∧
    (∀ e, (circuitDowned s c).circuit e = if e = c then (s.circuit c).downed else s.circuit e) ∧
    (∀ m, (circuitDowned s c).path m = s.path m) ∧ c ∉ (circuitDowned s c).cc.pendingList := by
  let w := modCircuit s c fun r => { r with state := .down, owner := none, desired := .idle, lastSent := .idle, farHeld := false }
  obtain ⟨x, hx⟩ := markWentDown_rest (w.setPendingList (w.cc.pendingList.filter (· ≠ c))) c
  have hv : circuitDowned s c = (w.setPendingList (w.cc.pendingList.filter (· ≠ c))).setSending x := hx
  rw [hv]
  exact ⟨⟨_, rfl⟩, fun e => by by_cases he : e = c <;> simp [w, he, CircuitRec.downed], fun m => by simp [w], by simp⟩

theorem takenOut_rest : CcOnly s (takenOut s c) ∧ (∀ e, (takenOut s c).circuit e = if e = c then (s.circuit c).downed else s.circuit e) ∧
    c ∉ (takenOut s c).cc.pendingList ∧ (∀ m, (takenOut s c).line m = s.line m) := by
  obtain ⟨hcc, hcircuit, -, hpending⟩ := circuitDowned_rest s c
  obtain ⟨hcc', hcircuit', hpending', hline'⟩ := (pathsOnly_setAvailable (circuitDowned s c) c false).rest
  exact ⟨hcc.trans hcc', fun e => (hcircuit' e).trans (hcircuit e), by rwa [takenOut, hpending'],
    fun m => (hline' m).trans (State.line_congr hcc.rest.1 m)⟩

theorem takenOut_path (m : Nat) : (takenOut s c).path m = { s.path m with available := ((takenOut s c).path m).available } ∧
    ∀ i, positionIn (s.line m).eff.path c = some i → ((takenOut s c).path m).available.getLsbD i = false := by
  obtain ⟨hcc, -, hpath, -⟩ := circuitDowned_rest s c
  have := setAvailable_false_path (circuitDowned s c) c m
  rw [hpath, State.line_congr hcc.rest.1] at this
  exact this

/-- The end of a command puts no circuit on the pending list (R34). -/
theorem settle_pendingList_subset (b : State) : (settle b s).cc.pendingList ⊆ s.cc.pendingList := by
  have hcc : (settle b s).cc = (startSending (lookAgain s)).cc := by simp [settle]
  rw [hcc, ← lookAgain_cc s]
  generalize lookAgain s = v
  unfold startSending
  split
  · next x rest _ hlist =>
    rw [hlist]
    dsimp only
    split <;> exact List.subset_cons_self x rest
  · exact List.Subset.refl _

variable {s c}

/-- CIRCUIT_DOWN takes out every circuit that is not out already, named or, while the link is not active, not (R40, R45). -/
theorem circuitDown_exec {c : Fin 256} (hup : (s.circuit c).state ≠ .down)
    (hunnamed : (s.circuit c).state = .uninstalled → linkActive s = false) : exec (.circuitDown c) s = done s (takeDown s c) := by
  have htaken : circuitDownOn s c = takeDown s c := by
    unfold circuitDownOn
    split
    · contradiction
    · next h => simp [hunnamed h]
    · rfl
  simp [exec, execCircuitDown, htaken]

/-- A line in RINGING_IN whose circuit is gone: its ring ends (R48). -/
theorem ownerLoses_ringing {v : State} {n : Nat} (h : (v.line n).state = .ringingIn) (cause : StateCause) :
    ownerLoses v c (some n) cause = ringEnds (clearActive v n) n .lost cause := by
  have hstate : ((clearActive v n).line n).state = .ringingIn := by simp [clearActive, h]
  rw [ownerLoses_eq, circuitFailed]
  simp only [hstate]

end Downed

/-- Settles O35: a circuit without owner is only taken out; a line that it was ringing is IDLE. -/
theorem circuitDownTakesItOut : Obligations.CircuitDownTakesItOut := by
  intro c s hheld hhead hup hunnamed
  have hexec := circuitDown_exec hup hunnamed
  obtain ⟨hcc, hcircuit, hpending, hline⟩ := takenOut_rest s c
  obtain ⟨-, -, heu, -, hframe, -⟩ := hcc.rest
  refine ⟨fun howner => ?_, fun n howner hringing => ?_⟩
  · have htaken : takeDown s c = takenOut s c := by
      rw [takeDown_takenOut, howner]
      rfl
    rw [htaken] at hexec
    obtain ⟨hdone, hleaves⟩ := hcc.done hheld s
    refine ⟨_, hexec.trans hdone, ?_, fun hm => hpending (settle_pendingList_subset _ s hm), fun n i _ hi => ?_, fun n => ?_,
      fun d hd => ?_, hleaves⟩
    · rw [settle_circuit, hcircuit, if_pos rfl]
      rfl
    · rw [settle_path]
      exact (takenOut_path s c n).2 i hi
    · rw [settle_path]
      exact (takenOut_path s c n).1
    · rw [settle_circuit, hcircuit, if_neg hd]
  · let v := clearActive (takenOut s c) n
    have htaken : takeDown s c = ringEnds v n .lost .far := by
      rw [takeDown_takenOut, howner, ownerLoses_ringing (by rw [hline, hringing])]
    rw [htaken] at hexec
    have hvline : ∀ m, v.line m = if m = n then { s.line n with active := none } else s.line m := fun m => by
      by_cases hm : m = n <;> simp [v, clearActive, hm, hline]
    have hvringing : (v.line n).state = .ringingIn := by rw [hvline, if_pos rfl, hringing]
    have hwork : Work v (ringEnds v n .lost .far) [.events, .lc, .cc, .um] := work_ringEnds v n _ _
    have hleaves : Leaves s (ringEnds v n .lost .far) [.events, .lc, .cc, .link, .um, .meter] :=
      ((hcc.leaves.trans (callsOnly_modLine (takenOut s c) n _).leaves).trans
        (hwork.leaves (by simpa [v, clearActive, heu] using hhead))).mono (by decide)
    have hbus : (ringEnds v n .lost .far).bi.held = s.bi.held := hwork.call.held.trans (by simp [v, clearActive, hcc.rest.2.1])
    obtain ⟨hdone, hleaves⟩ := hleaves.done hbus hheld s
    have hdown : (ringEnds v n .lost .far).circuit c = (s.circuit c).downed := by
      have hv : v.circuit c = (s.circuit c).downed := by simpa [v, clearActive] using hcircuit c
      obtain ⟨b, hb | hb⟩ := ringEnds_circuit v n .lost .far c
      · rw [hb, hv]
      · rw [hb, hv, CircuitRec.renamed_of_busy _ _ (by simp [CircuitRec.downed]) (by simp [CircuitRec.downed])]
    refine ⟨_, hexec.trans hdone, ?_, ?_, fun hm => ?_, ?_, fun p => ?_, fun m hm => ?_, hleaves⟩
    · rw [settle_circuit, hdown]
      rfl
    · rw [settle_circuit, hdown]
      rfl
    · have := settle_pendingList_subset _ s hm
      rw [ringEnds_pendingList] at this
      exact hpending this
    · rw [settle_line, ringEnds_line v n _ _ n hvringing, if_pos rfl, hvline, if_pos rfl]
      simp [idleAfter, v, clearActive, hframe]
    · rw [settle_alertList]
      obtain ⟨-, -, -, halerts⟩ := ringEnds_rest v n .lost .far
      exact halerts p
    · rw [settle_line, ringEnds_line v n _ _ m hvringing, if_neg hm, hvline, if_neg hm]

/-! ## SIGNAL and CIRCUIT_RESET (R29, R50, R51; O52) -/

section SignalAndReset

variable {s : State} {ws : List Word}

theorem ownSignal_burst {n : Nat} (hn : param ws 1 = n) (hcount : n < s.su.lineCount) (hmay : maySignal (s.line n) = true)
    (hburst : (s.line n).ringBurst = false) : ownSignal s ws = (startBurst s n, .ok) := by
  simp [ownSignal, hn, Nat.not_le.mpr hcount, hmay, hburst]

theorem ownSignal_refused {n : Nat} (hn : param ws 1 = n)
    (h : s.su.lineCount ≤ n ∨ maySignal (s.line n) = false ∨ (s.line n).ringBurst = true) :
    ownSignal s ws = (s, if s.su.lineCount ≤ n ∨ maySignal (s.line n) = false then .badParam else .noChange) := by
  unfold ownSignal
  dsimp only
  rw [hn]
  by_cases hcount : s.su.lineCount ≤ n
  · simp [hcount]
  · by_cases hmay : maySignal (s.line n) = false
    · simp [hmay]
    · have hburst : (s.line n).ringBurst = true := (h.resolve_left hcount).resolve_left hmay
      simp [hcount, hmay, hburst]

theorem ownCircuitReset_resets {c : Nat} (hc : param ws 1 = c) (hlt : c < 256) (huninstalled : (s.circuit c).state ≠ .uninstalled)
    (hresetting : (s.circuit c).state ≠ .resetting) : ownCircuitReset s ws = (resetCircuit s c, .ok) := by
  unfold ownCircuitReset
  dsimp only
  rw [hc, if_neg (by omega)]
  split
  · contradiction
  · contradiction
  · rfl

theorem ownCircuitReset_refused {c : Nat} (hc : param ws 1 = c)
    (h : 255 < c ∨ (s.circuit c).state = .uninstalled ∨ (s.circuit c).state = .resetting) :
    ownCircuitReset s ws = (s, if 255 < c ∨ (s.circuit c).state = .uninstalled then .badParam else .noChange) := by
  unfold ownCircuitReset
  dsimp only
  rw [hc]
  by_cases hlt : 255 < c
  · simp [hlt]
  · rcases h.resolve_left hlt with hstate | hstate <;> simp [hlt, hstate]

/-- The record of a circuit that is to be reset (R51). -/
def CircuitRec.toReset (r : CircuitRec) : CircuitRec := { r with owner := none, state := .resetting, desired := .reset, farHeld := false }

/-- A reset of a circuit without owner: its record, its positions no longer available, and nothing else (R29, R51). -/
theorem resetCircuit_unowned {c : Nat} (h : (s.circuit c).owner = none) : CcOnly s (resetCircuit s c) ∧
    (∀ e, (resetCircuit s c).circuit e = if e = c then (s.circuit c).toReset else s.circuit e) ∧
    ∀ m i, positionIn (s.line m).eff.path c = some i → ((resetCircuit s c).path m).available.getLsbD i = false := by
  let w := modCircuit s c CircuitRec.toReset
  obtain ⟨l, hl⟩ := relist_eq w c
  have hu : resetCircuit s c = setAvailable (w.setPendingList l) c false := by
    rw [← hl]
    unfold resetCircuit
    rw [h]
    rfl
  obtain ⟨hcc, hcircuit, -⟩ := (pathsOnly_setAvailable (w.setPendingList l) c false).rest
  rw [hu]
  refine ⟨CcOnly.trans ⟨_, rfl⟩ hcc, fun e => ?_, fun m i hi => (setAvailable_false_path (w.setPendingList l) c m).2 i hi⟩
  rw [hcircuit]
  by_cases he : e = c <;> simp [w, he]

end SignalAndReset

/-- Settles O52: the two requests' effects and refusals, then the completion of a request. -/
theorem signalAndCircuitReset : Obligations.SignalAndCircuitReset := by
  intro s ws n c
  refine ⟨fun hr hn hcount hmay hburst hactive => ?_, fun hr hn hrefused => ?_, fun hr hc hlt howner huninstalled hresetting => ?_,
    fun hr hc hrefused => ?_⟩
  · have hdriven := startBurst_drives s n c hactive
    have hwork : CallWork s (startBurst s n) := callWork_startBurst n (.refl s)
    have heu : (startBurst s n).eu = s.eu := hdriven.calls.rest.2.1
    refine ⟨_, request_next ws .ok hr .nothing ownSignal rfl (ownSignal_burst hn hcount hmay hburst) hwork, ?_, ?_, fun m hm => ?_,
      fun d hd => ?_, hwork.completed ws .ok (heu ▸ hr.unread) hr.head s,
      (hdriven.calls.leaves.requestEnd (heu ▸ hr.head) s ws .ok).mono (by decide)⟩
    · rw [requestEnd_line, hdriven.line, if_pos rfl]
      rfl
    · rw [requestEnd_circuit, hdriven.circuit, if_pos rfl]
    · rw [requestEnd_line, hdriven.line, if_neg hm]
    · rw [requestEnd_circuit, hdriven.circuit, if_neg hd]
  · exact ⟨_, request_unchanged ws _ hr .nothing ownSignal rfl (ownSignal_refused hn hrefused)⟩
  · obtain ⟨hcc, hcircuit, hpath⟩ := resetCircuit_unowned howner
    have hwork : CallWork s (resetCircuit s c) := callWork_resetCircuit c (.refl s)
    obtain ⟨heu, -⟩ := hcc.parts
    refine ⟨_, request_next ws .ok hr .nothing ownCircuitReset rfl (ownCircuitReset_resets hc hlt huninstalled hresetting) hwork, ?_,
      fun m i _ hi => ?_, fun d hd => ?_, hwork.completed ws .ok (heu ▸ hr.unread) hr.head s,
      (hcc.leaves.requestEnd (heu ▸ hr.head) s ws .ok).mono (by decide)⟩
    · rw [requestEnd_circuit, hcircuit, if_pos rfl]
      rfl
    · rw [requestEnd_path]
      exact hpath m i hi
    · rw [requestEnd_circuit, hcircuit, if_neg hd]
  · exact ⟨_, request_unchanged ws _ hr .nothing ownCircuitReset rfl (ownCircuitReset_refused hc hrefused)⟩

end Sys2Proof.Machine

namespace Sys2Proof.Machine

/-! ## Faults that a command raises: logged, in LOCKDOWN, counted (R165, R166, R167) -/

section Faults

/-- A word that the event's entry does not hold reads as before (R155, R156). -/
theorem issue_latestWord (s : State) (e : Event) (off : Nat) (h : off < eventOffset s.eu.evtHead ∨ eventOffset s.eu.evtHead + 8 ≤ off) :
    latestWord (issue s e) off = latestWord s off := by
  unfold issue
  dsimp only
  split
  · rw [latestWord_postAll]
    · rfl
    · intro x hx heq
      obtain ⟨hle, hlt⟩ := writesAt_offsets _ _ x hx
      rw [eventWords_length] at hlt
      omega
  · rfl

/-- The fault log is an OWNED zone (R128, R163). -/
theorem faultOffset_owned (index off : Nat) (hl : faultOffset index ≤ off) (hu : off < faultOffset index + 16) :
    regionOf off = .owned := by
  simp only [faultOffset] at hl hu
  unfold regionOf
  repeat rw [if_neg (by omega)]
  rw [if_pos (by omega)]

theorem faultWords_length (f : FaultReport) (now : Frame) (d : Bool) : (f.words now d).length = 16 := by simp [FaultReport.words]

/-- The record of a fault is written and the log's head moves on; FAULT_LOGGED is still to come (R165). -/
def faultRecorded (s : State) (f : FaultReport) (d : Bool) : State :=
  let s' := postAll s (writesAt (faultOffset s.eu.fltHead) (f.words s.frame d))
  { s' with eu := { s'.eu with fltHead := (s.eu.fltHead + 1) % 32, fault := s'.eu.fault.occur } }

theorem logFault_eq (s : State) (f : FaultReport) (d : Bool) :
    logFault s f d = issue (faultRecorded s f d) (.faultLogged s.eu.fltHead f.code d) := rfl

theorem faultRecorded_latestWord (s : State) (f : FaultReport) (d : Bool) (off : Nat) : latestWord (faultRecorded s f d) off =
    latestWord (postAll s (writesAt (faultOffset s.eu.fltHead) (f.words s.frame d))) off := rfl

theorem leaves_faultRecorded (s : State) (f : FaultReport) (d : Bool) : Leaves s (faultRecorded s f d) [.alarms] := by
  refine ⟨rfl, fun b hb => ?_⟩
  cases b <;> simp at hb <;> simp only [Same]
  case words =>
    intro off ho
    rw [faultRecorded_latestWord, latestWord_postAll]
    intro x hx heq
    obtain ⟨hle, hlt⟩ := writesAt_offsets _ _ x hx
    rw [faultWords_length] at hlt
    exact ho (heq ▸ faultOffset_owned _ x.1 hle hlt)
  all_goals simp [faultRecorded]

/-- A fault with room in the log, at the end of its command: the record, its event, and what the command leaves (R165). -/
theorem logFault_logged (s : State) (f : FaultReport) (d : Bool) (hhead : s.eu.evtHead < 256) (hroom : s.eu.unread ≤ 254) (b : State) :
    Logged s (settle b (logFault s f d)) f d ∧ Leaves s (logFault s f d) [.events, .alarms] := by
  let w := faultRecorded s f d
  have hwhead : w.eu.evtHead = s.eu.evtHead := by simp [w, faultRecorded]
  have hwroom : w.eu.unread ≤ 254 := by simpa [w, faultRecorded, EU.unread] using hroom
  have hu : logFault s f d = issue w (.faultLogged s.eu.fltHead f.code d) := logFault_eq s f d
  have hevent := issue_eventAt w (.faultLogged s.eu.fltHead f.code d) hwroom
  have hevtHead := issue_evtHead w (.faultLogged s.eu.fltHead f.code d) hwroom
  have hframe : w.frame = s.frame := by simp [w, faultRecorded]
  rw [hwhead, hframe, ← hu] at hevent
  rw [hwhead, ← hu] at hevtHead
  refine ⟨⟨?_, ?_, fun i hi => ?_, ?_, hevent.settle hhead b⟩, ?_⟩
  · simp [hu, w, faultRecorded]
  · simp [hu, w, faultRecorded]
  · have hmirror : ¬IsMirror (faultOffset s.eu.fltHead + i) := by
      simp only [IsMirror, faultOffset]
      omega
    have helsewhere : eventOffset w.eu.evtHead + 8 ≤ faultOffset s.eu.fltHead + i := by
      simp only [hwhead, eventOffset, faultOffset]
      omega
    rw [settle_latestWord b _ _ hmirror, hu, issue_latestWord w _ _ (.inr helsewhere), faultRecorded_latestWord, latestWord_eq, postAll_writes,
      youngest_append, youngest_writesAt _ _ i (by rwa [faultWords_length])]
    rfl
  · simp [hevtHead]
  · rw [hu]
    exact ((leaves_faultRecorded s f d).trans ((work_issue w _).leaves (hwhead ▸ hhead))).mono (by decide)

/-- Entry to LOCKDOWN, PART_STATE still to come (R166, R167). -/
def lockdownEntered (s : State) (code : FaultCode) : State :=
  { s with eu := { s.eu with cause := some code, unlogged := 1 }
           su := { s.su with part := .lockdown, load := none }
           re := { s.re with take := .idle } }

theorem enterLockdown_eq (s : State) (code : FaultCode) :
    enterLockdown s code = issue (lockdownEntered s code) (.partState .lockdown s.su.part .doubleFault) := rfl

theorem leaves_lockdownEntered (s : State) (code : FaultCode) : Leaves s (lockdownEntered s code) [.take, .alarms, .su] := by
  refine ⟨rfl, fun b hb => ?_⟩
  cases b <;> simp at hb <;> simp only [Same]
  case words => exact fun _ _ => rfl
  all_goals simp [lockdownEntered]

theorem raiseFault_lockdown (s : State) (f : FaultReport) (h : s.su.part = .lockdown) :
    raiseFault s f = { s with eu := { s.eu with unlogged := min (s.eu.unlogged + 1) 65535 } } := by simp [raiseFault, h]

theorem raiseFault_room (s : State) (f : FaultReport) (h : s.su.part ≠ .lockdown) (hroom : s.eu.unreadFaults ≤ 15) :
    raiseFault s f = logFault s f (decide (s.eu.unreadFaults = 15)) := by
  rw [raiseFault, if_neg h]
  rcases Nat.lt_or_eq_of_le hroom with hlt | heq
  · rw [if_pos hlt, decide_eq_false (by omega)]
  · rw [if_neg (by omega), if_pos heq, decide_eq_true heq]

theorem raiseFault_full (s : State) (f : FaultReport) (h : s.su.part ≠ .lockdown) (hfull : s.eu.unreadFaults = 16) :
    raiseFault s f = enterLockdown s f.code := by
  rw [raiseFault, if_neg h, if_neg (by omega), if_neg (by omega)]

/-- A fault that a command raises and that is its only effect, by the part state and the room in the log (R165 to R167). -/
theorem raiseFault_done (s : State) (f : FaultReport) (hheld : s.bi.held = []) (hhead : s.eu.evtHead < 256) (hroom : s.eu.unread ≤ 254) :
    (s.su.part ≠ .lockdown → s.eu.unreadFaults ≤ 15 →
      ∃ t, done s (raiseFault s f) = .next t ∧ Logged s t f (decide (s.eu.unreadFaults = 15)) ∧ Leaves s t [.events, .alarms]) ∧
    (s.su.part ≠ .lockdown → s.eu.unreadFaults = 16 →
      ∃ t, done s (raiseFault s f) = .next t ∧ t.su = { s.su with part := .lockdown, load := none } ∧ t.eu.cause = some f.code ∧
        t.eu.unlogged = 1 ∧ t.eu.fltHead = s.eu.fltHead ∧ t.eu.fault = s.eu.fault ∧ t.re.take = .idle ∧
        EventAt t s.eu.evtHead (.partState .lockdown s.su.part .doubleFault) s.frame ∧ Leaves s t [.take, .events, .alarms, .su]) ∧
    (s.su.part = .lockdown →
      ∃ t, done s (raiseFault s f) = .next t ∧ t.eu = { s.eu with unlogged := min (s.eu.unlogged + 1) 65535, attention := t.eu.attention } ∧
        Leaves s t [.alarms]) := by
  have hbus : (raiseFault s f).bi.held = s.bi.held := raiseFault_bi_held s f
  refine ⟨fun hpart hfaults => ?_, fun hpart hfaults => ?_, fun hpart => ?_⟩
  · obtain ⟨hlogged, hleaves⟩ := logFault_logged s f (decide (s.eu.unreadFaults = 15)) hhead hroom s
    rw [raiseFault_room s f hpart hfaults] at hbus ⊢
    obtain ⟨hdone, hleaves⟩ := hleaves.done hbus hheld s
    exact ⟨_, hdone, hlogged, hleaves⟩
  · rw [raiseFault_full s f hpart hfaults] at hbus ⊢
    let w := lockdownEntered s f.code
    have hu : enterLockdown s f.code = issue w (.partState .lockdown s.su.part .doubleFault) := enterLockdown_eq s f.code
    have hleaves : Leaves s (enterLockdown s f.code) ([.take, .alarms, .su] ++ [.events]) := by
      rw [hu]
      exact (leaves_lockdownEntered s f.code).trans ((work_issue w _).leaves hhead)
    obtain ⟨hdone, hleaves⟩ := hleaves.done hbus hheld s
    have hevent : EventAt (enterLockdown s f.code) s.eu.evtHead (.partState .lockdown s.su.part .doubleFault) s.frame := by
      rw [hu]
      exact issue_eventAt w _ hroom
    have htake : (enterLockdown s f.code).re.take = .idle := by simp [hu, w, lockdownEntered]
    refine ⟨_, hdone, ?_, ?_, ?_, ?_, ?_, ?_, hevent.settle hhead s, hleaves.mono (by decide)⟩
    · simp [hu, w, lockdownEntered]
    · simp [hu, w, lockdownEntered]
    · simp [hu, w, lockdownEntered]
    · simp
    · simp
    · rw [settle_take s _ (by simp [htake]), htake]
  · have hleaves : Leaves s (raiseFault s f) [.alarms] := by
      rw [raiseFault_lockdown s f hpart]
      refine ⟨rfl, fun b hb => ?_⟩
      cases b <;> simp at hb <;> simp only [Same]
      case words => exact fun _ _ => rfl
      all_goals simp
    obtain ⟨hdone, hleaves⟩ := hleaves.done hbus hheld s
    exact ⟨_, hdone, by rw [settle_eu, raiseFault_lockdown s f hpart], hleaves⟩

end Faults

/-! ## Messages that are faults, and messages that are ignored (R40, R42 to R47; O44) -/

section LinkFaults

variable {s : State} {c : Fin 256} {i : Instr}

/-- A message for a circuit in UNINSTALLED raises SIGNAL_UNKNOWN and does nothing else (R40, R47). -/
theorem unknown_exec (hactive : linkActive s = true) (hstate : (s.circuit c).state = .uninstalled)
    (hi : i ∈ [Instr.seizeAck c, .ringDetect c, .farAnswer c, .farClear c, .circuitDown c, .circuitUp c, .resetDone c]) :
    exec i s = done s (signalUnknown s c) := by
  simp only [List.mem_cons, List.not_mem_nil, or_false] at hi
  rcases hi with rfl | rfl | rfl | rfl | rfl | rfl | rfl
  · simp [exec, execSeizeAck, whenLinkActive, hactive, seizeAckOn, hstate]
  · simp [exec, execRingDetect, whenLinkActive, hactive, ringDetectOn, hstate]
  · simp [exec, execFarAnswer, whenLinkActive, hactive, farAnswerOn, hstate]
  · simp [exec, execFarClear, whenLinkActive, hactive, farClearOn, hstate]
  · simp [exec, execCircuitDown, circuitDownOn, hactive, hstate]
  · simp [exec, execCircuitUp, circuitUpOn, hactive, hstate]
  · simp [exec, execResetDone, resetDoneOn, hactive, hstate]

/-- What answers to a seizure is a fault where no SEIZE has been sent (R43, R44). -/
theorem answer_wrong (hactive : linkActive s = true) (hi : i ∈ [Instr.seizeAck c, .farAnswer c, .farClear c])
    (hstate : (s.circuit c).state = .idle ∨ (s.circuit c).state = .down ∨ (s.circuit c).state = .resetting ∨
      ((s.circuit c).state = .seizing ∧ seizeSent (s.circuit c) = false)) : exec i s = done s (signalState s c) := by
  have hseize : seizeAckOn s c = signalState s c := by
    rcases hstate with h | h | h | ⟨h, hsent⟩
    · simp [seizeAckOn, h]
    · simp [seizeAckOn, h]
    · simp [seizeAckOn, h]
    · cases howner : ownerLine s c <;> simp [seizeAckOn, h, hsent, howner]
  have hanswer : farAnswerOn s c = signalState s c := by
    rcases hstate with h | h | h | ⟨h, hsent⟩
    · simp [farAnswerOn, h]
    · simp [farAnswerOn, h]
    · simp [farAnswerOn, h]
    · cases howner : ownerLine s c <;> simp [farAnswerOn, h, hsent, howner]
  have hclear : farClearOn s c = signalState s c := by
    rcases hstate with h | h | h | ⟨h, hsent⟩
    · simp [farClearOn, h]
    · simp [farClearOn, h]
    · simp [farClearOn, h]
    · cases howner : ownerLine s c <;> simp [farClearOn, h, hsent, howner]
  simp only [List.mem_cons, List.not_mem_nil, or_false] at hi
  rcases hi with rfl | rfl | rfl
  · simp [exec, execSeizeAck, whenLinkActive, hactive, hseize]
  · simp [exec, execFarAnswer, whenLinkActive, hactive, hanswer]
  · simp [exec, execFarClear, whenLinkActive, hactive, hclear]

/-- A message that its circuit's state does not allow raises SIGNAL_STATE and does nothing else (R42 to R44, R46, R47). -/
theorem wrong_exec (hactive : linkActive s = true) (h : wrongState s c i) : exec i s = done s (signalState s c) := by
  rcases h with ⟨hi, hstate⟩ | ⟨rfl, hstate⟩ | ⟨rfl, hstate, n, howner, hringing⟩ | ⟨rfl, hinstalled, hreset⟩
  · exact answer_wrong hactive hi hstate
  · have hring : ringDetectOn s c = signalState s c := by rcases hstate with h | h <;> simp [ringDetectOn, h]
    simp [exec, execRingDetect, whenLinkActive, hactive, hring]
  · simp [exec, execFarAnswer, whenLinkActive, hactive, farAnswerOn, hstate, ownerLine, howner, hringing]
  · have hdone : resetDoneOn s c = signalState s c := by
      unfold resetDoneOn
      dsimp only
      rw [if_neg hreset, if_neg (by simp [hactive]), if_neg hinstalled]
    simp [exec, execResetDone, hdone]

/-- A message that the link handles in full and that changes nothing, by its circuit's state and its owner's (R42 to R44). -/
theorem ignored_active (hactive : linkActive s = true)
    (h : (i ∈ [Instr.seizeAck c, .ringDetect c, .farAnswer c, .farClear c] ∧ (s.circuit c).state = .releasing) ∨
      (i = .seizeAck c ∧ (s.circuit c).state = .inUse) ∨
      (∃ n, (s.circuit c).owner = some n ∧ (s.circuit c).state = .inUse ∧
        ((i = .farAnswer c ∧ (s.line n).state ≠ .ringingIn ∧ ¬((s.line n).state = .calling ∧ (s.line n).eff.kind = .autoRingdown)) ∨
         (i = .ringDetect c ∧ (s.line n).state ≠ .calling)))) : exec i s = done s s := by
  rcases h with ⟨hi, hstate⟩ | ⟨rfl, hstate⟩ | ⟨n, howner, hstate, ⟨rfl, hringing, hcalling⟩ | ⟨rfl, hcalling⟩⟩
  · simp only [List.mem_cons, List.not_mem_nil, or_false] at hi
    rcases hi with rfl | rfl | rfl | rfl
    · simp [exec, execSeizeAck, whenLinkActive, hactive, seizeAckOn, hstate]
    · simp [exec, execRingDetect, whenLinkActive, hactive, ringDetectOn, hstate]
    · simp [exec, execFarAnswer, whenLinkActive, hactive, farAnswerOn, hstate]
    · simp [exec, execFarClear, whenLinkActive, hactive, farClearOn, hstate]
  · simp [exec, execSeizeAck, whenLinkActive, hactive, seizeAckOn, hstate]
  · have hanswer : farAnswerOn s c = s := by simp only [farAnswerOn, hstate, ownerLine, howner, Option.map_some, if_neg hringing, if_neg hcalling]
    simp [exec, execFarAnswer, whenLinkActive, hactive, hanswer]
  · simp [exec, execRingDetect, whenLinkActive, hactive, ringDetectOn, hstate, ownerLine, howner, hcalling]

/-- In WAITING, LOADING and a restart drain, messages but those that change a circuit's use are discarded (R40, R177). -/
theorem ignored_inactive (hactive : linkActive s = false)
    (h : i ∈ [Instr.seizeAck c, .ringDetect c, .farAnswer c, .farClear c] ∨ (i = .circuitUp c ∧ (s.circuit c).state = .uninstalled) ∨
      (i = .resetDone c ∧ ¬((s.circuit c).state = .resetting ∧ (s.circuit c).lastSent = .reset))) : exec i s = done s s := by
  rcases h with hi | ⟨rfl, hstate⟩ | ⟨rfl, hreset⟩
  · simp only [List.mem_cons, List.not_mem_nil, or_false] at hi
    rcases hi with rfl | rfl | rfl | rfl
    · simp [exec, execSeizeAck, whenLinkActive, hactive]
    · simp [exec, execRingDetect, whenLinkActive, hactive]
    · simp [exec, execFarAnswer, whenLinkActive, hactive]
    · simp [exec, execFarClear, whenLinkActive, hactive]
  · simp [exec, execCircuitUp, circuitUpOn, hstate, hactive]
  · have hdone : resetDoneOn s c = s := by
      unfold resetDoneOn
      dsimp only
      rw [if_neg hreset, if_pos hactive]
    simp [exec, execResetDone, hdone]

theorem ignored_exec (h : ignoredMessage s c i) : exec i s = done s s := by
  rcases h with ⟨hactive, h⟩ | ⟨hactive, h⟩ | ⟨rfl, hdown⟩
  · exact ignored_active hactive h
  · exact ignored_inactive hactive h
  · simp [exec, execCircuitDown, circuitDownOn, hdown]

end LinkFaults

/-- Settles O44: such a message is its fault and nothing else, and an ignored one nothing at all. -/
theorem linkMessagesFaultOrAreIgnored : Obligations.LinkMessagesFaultOrAreIgnored := by
  intro c i s hheld
  refine ⟨fun code hwrong hactive hhead hroom => ?_, fun hignored => ?_⟩
  · have hexec : exec i s = done s (raiseFault s { code := code, ext := true, table := false, subject := c }) := by
      rcases hwrong with ⟨rfl, hstate, hi⟩ | ⟨rfl, hwrong⟩
      · exact unknown_exec hactive hstate hi
      · exact wrong_exec hactive hwrong
    rw [hexec]
    exact raiseFault_done s _ hheld hhead hroom
  · rw [ignored_exec hignored]
    exact ⟨_, (Leaves.refl s).done rfl hheld s⟩

end Sys2Proof.Machine

namespace Sys2Proof.Machine

/-! ## The end of a transmission (R33, R34, R35, R36; O38) -/

section SendEnds

theorem endOfSend_exec (m : LinkMsg) (s : State) : exec (endOfSend m) s = done s (sendEnds s m) := by
  cases m <;> rfl

/-- After a command the transmitter is as its start leaves it, whatever else follows (R34). -/
theorem settle_cc (b u : State) : (settle b u).cc = (startSending u).cc := by
  have hstart : (startSending (lookAgain u)).cc = (startSending u).cc := by
    unfold startSending
    simp only [lookAgain_cc, State.circuit]
    split
    · split <;> simp [State.setPendingList, State.setSending]
    · simp
  simpa [settle] using hstart

/-- Nothing is due and nothing is sent (R34). -/
theorem startSending_nothing {u : State} (hlist : u.cc.pendingList = []) (hsend : u.cc.sending = none) :
    (startSending u).cc.sending = none := by rw [startSending_of_idle u (.inl hlist), hsend]

/-- A free transmitter sends what the one pending circuit is due (R33, R34). -/
theorem startSending_one {u : State} {c : Nat} {m : LinkMsg} (hlist : u.cc.pendingList = [c]) (hsend : u.cc.sending = none)
    (hm : messageFor (u.circuit c).lastSent (u.circuit c).desired = some m) :
    (startSending u).cc.sending = some { circuit := c, msg := m, wentDown := false } := by
  simp [startSending, hlist, hsend, hm]

theorem messageFor_self (l : LinkState) : messageFor l l = none := by cases l <;> rfl

theorem sent_eq_idle {m : LinkMsg} : m.sent = .idle ↔ m = .release := by cases m <;> simp [LinkMsg.sent]

variable (s : State) (x : Sending)

/-- The record of a circuit on which a message has been sent (R33; log 37). -/
def CircuitRec.sentOn (r : CircuitRec) (m : LinkMsg) : CircuitRec := { r with lastSent := m.sent, farHeld := false }

/-- The transmitter is free, and the circuit's last-sent state and its place in the pending list follow the message (R33, R34). -/
def messageSent : State := relist (modCircuit (s.setSending none) x.circuit fun r => r.sentOn x.msg) x.circuit

/-- The acknowledgement wait begins after a SEIZE (R36). -/
def ackWaitBegun (v : State) : State := if x.msg = .seize then startAckWait v x.circuit else v

theorem sendEnds_eq (hsend : s.cc.sending = some x) (hup : x.wentDown = false) :
    sendEnds s x.msg = finishRelease (ackWaitBegun x (messageSent s x)) x.circuit := by
  simp [sendEnds, hsend, hup, ackWaitBegun, messageSent, CircuitRec.sentOn]

theorem messageSent_rest : CcOnly s (messageSent s x) ∧ (messageSent s x).cc.sending = none ∧
    (∀ e, (messageSent s x).circuit e = if e = x.circuit then (s.circuit e).sentOn x.msg else s.circuit e) ∧
    (s.cc.pendingList = [] →
      (messageSent s x).cc.pendingList = if (s.circuit x.circuit).desired = x.msg.sent then [] else [x.circuit]) := by
  let w := modCircuit (s.setSending none) x.circuit fun r => r.sentOn x.msg
  have hw : CcOnly s w := ⟨_, rfl⟩
  refine ⟨hw.trans (ccOnly_relist w _), ?_, fun e => ?_, fun hlist => ?_⟩
  · obtain ⟨l, hl⟩ := relist_eq w x.circuit
    rw [messageSent, hl]
    rfl
  · rw [messageSent, relist_circuit]
    by_cases he : e = x.circuit <;> simp [he]
  · have hwlist : w.cc.pendingList = [] := hlist
    have hfree : inTransmission w x.circuit = false := rfl
    have hrecord : w.circuit x.circuit = (s.circuit x.circuit).sentOn x.msg := by simp [w]
    show (relist w x.circuit).cc.pendingList = _
    unfold relist
    simp only [hfree, hrecord, hwlist, Bool.false_eq_true, if_false]
    split <;> simp_all [CircuitRec.sentOn]

variable {s x}

theorem ackWaitBegun_rest (v : State) : CallsOnly v (ackWaitBegun x v) ∧ (ackWaitBegun x v).cc = v.cc ∧
    ∀ n, (ackWaitBegun x v).line n =
      if x.msg = .seize ∧ (v.circuit x.circuit).state = .seizing ∧ (v.circuit x.circuit).owner = some n then
        { v.line n with stateTimer := some (.ackWait, v.frame + 2000#48) } else v.line n := by
  unfold ackWaitBegun
  by_cases hm : x.msg = .seize
  · rw [if_pos hm]
    unfold startAckWait
    split
    · next k hstate howner =>
      refine ⟨callsOnly_modLine v k _, rfl, fun n => ?_⟩
      by_cases hn : n = k
      · subst hn
        simp [startState, hm, hstate, howner, after, Config.ackWaitFrames]
      · simp [startState, hm, hstate, howner, hn, Ne.symm hn]
    · next hne =>
      refine ⟨.refl v, rfl, fun n => (if_neg ?_).symm⟩
      rintro ⟨-, hstate, howner⟩
      exact hne n hstate howner
  · rw [if_neg hm]
    exact ⟨.refl v, rfl, fun n => (if_neg fun h => hm h.1).symm⟩

/-- What is left of a release ends with its last send (R35). -/
theorem finishRelease_rest (v : State) (c : Nat) : CcOnly v (finishRelease v c) ∧ (finishRelease v c).cc.sending = v.cc.sending ∧
    (finishRelease v c).cc.pendingList = v.cc.pendingList ∧
    ∀ e, (finishRelease v c).circuit e =
      if e = c ∧ (v.circuit c).state = .releasing ∧ (v.circuit c).owner = none ∧ quiet v c = true then
        { v.circuit e with state := if isNamed v c then .idle else .uninstalled } else v.circuit e := by
  refine ⟨ccOnly_finishRelease v c, ?_, ?_, fun e => ?_⟩
  · rcases finishRelease_eq v c with h | h <;> rw [h]
    rfl
  · rcases finishRelease_eq v c with h | h <;> rw [h]
    rfl
  · unfold finishRelease
    dsimp only
    by_cases hc : (v.circuit c).state = .releasing ∧ (v.circuit c).owner = none ∧ quiet v c = true
    · rw [if_pos hc, enterIdle_circuit]
      by_cases he : e = c
      · subst he
        simp [hc]
      · simp [he]
    · rw [if_neg hc, if_neg fun h => hc h.2]

/-- What the end of a send leaves behind, before the next one starts (R33 to R36). -/
theorem sendEnds_rest (hsend : s.cc.sending = some x) (hup : x.wentDown = false) :
    let u := sendEnds s x.msg
    CallsOnly s u ∧ u.cc.sending = none ∧
    (∀ n, u.line n = if x.msg = .seize ∧ (s.circuit x.circuit).state = .seizing ∧ (s.circuit x.circuit).owner = some n then
      { s.line n with stateTimer := some (.ackWait, s.frame + 2000#48) } else s.line n) ∧
    (u.circuit x.circuit = { (s.circuit x.circuit).sentOn x.msg with
      state := if (s.circuit x.circuit).state = .releasing ∧ (s.circuit x.circuit).owner = none ∧ x.msg = .release then
        (if isNamed s x.circuit then .idle else .uninstalled) else (s.circuit x.circuit).state }) ∧
    (∀ e, e ≠ x.circuit → u.circuit e = s.circuit e) ∧
    (s.cc.pendingList = [] → u.cc.pendingList = if (s.circuit x.circuit).desired = x.msg.sent then [] else [x.circuit]) := by
  intro u
  let v := messageSent s x
  let w := ackWaitBegun x v
  obtain ⟨hv, hvsend, hvcircuit, hvlist⟩ := messageSent_rest s x
  obtain ⟨hw, hwcc, hwline⟩ := ackWaitBegun_rest (x := x) v
  obtain ⟨hu, husend, hulist, hucircuit⟩ := finishRelease_rest w x.circuit
  have hueq : u = finishRelease w x.circuit := sendEnds_eq s x hsend hup
  have hvx : v.circuit x.circuit = (s.circuit x.circuit).sentOn x.msg := by rw [hvcircuit, if_pos rfl]
  have hwcircuit : ∀ e, w.circuit e = v.circuit e := State.circuit_congr hwcc
  have hquiet : quiet w x.circuit = decide (x.msg = .release) := by
    have hfree : inTransmission w x.circuit = false := by
      unfold inTransmission
      rw [hwcc, hvsend]
    rw [quiet, hfree, hwcircuit, hvx]
    simp [CircuitRec.sentOn, sent_eq_idle]
  obtain ⟨-, -, hsu, hframe⟩ := hv.parts
  have hnamed : x.msg = .release → isNamed w x.circuit = isNamed s x.circuit := by
    intro hm
    have hwv : w = v := if_neg (by simp [hm])
    rw [hwv]
    exact isNamed_congr (by rw [hv.lc]) (by rw [hsu]) _
  rw [hueq]
  refine ⟨(hv.calls.trans hw).trans hu.calls, by rw [husend, hwcc, hvsend], fun n => ?_, ?_, fun e he => ?_, fun hlist => ?_⟩
  · rw [State.line_congr hu.lc, hwline, hvx, State.line_congr hv.lc, hframe]
    rfl
  · rw [hucircuit, hquiet, hwcircuit, hvx]
    by_cases hend : (s.circuit x.circuit).state = .releasing ∧ (s.circuit x.circuit).owner = none ∧ x.msg = .release
    · obtain ⟨hstate, howner, hm⟩ := hend
      simp [hstate, howner, hm, hnamed hm, CircuitRec.sentOn]
    · rw [if_neg (by simpa [CircuitRec.sentOn] using hend), if_neg hend]
      rfl
  · rw [hucircuit, if_neg fun h => he h.1, hwcircuit, hvcircuit, if_neg he]
  · rw [hulist, hwcc]
    exact hvlist hlist

/-- The end of a send whose circuit went down meanwhile and is still out of use: the transmitter is free, no circuit changes (R34, R45). -/
theorem sendEnds_wentDown (hsend : s.cc.sending = some x) (hdown : x.wentDown = true) (hstate : (s.circuit x.circuit).state = .down) :
    ∃ l, sendEnds s x.msg = (s.setSending none).setPendingList l := by
  obtain ⟨l, hl⟩ := relist_eq (s.setSending none) x.circuit
  refine ⟨l, ?_⟩
  have hrelease : finishRelease ((s.setSending none).setPendingList l) x.circuit = (s.setSending none).setPendingList l := by
    simp [finishRelease, hstate]
  simp [sendEnds, hsend, hdown, hl, hrelease]

end SendEnds

/-- Settles O38: the message's own effects, then the transmitter's next start. -/
theorem endOfSendMovesLastSent : Obligations.EndOfSendMovesLastSent := by
  intro x s hsend hheld
  rw [endOfSend_exec]
  refine ⟨fun hup => ?_, fun hdown hstate => ?_⟩
  · obtain ⟨hcalls, hfree, hline, hcircuit, hothers, hlist⟩ := sendEnds_rest hsend hup
    obtain ⟨hdone, hleaves⟩ := hcalls.done hheld s
    refine ⟨_, hdone, ?_, ?_, ?_, ?_, ?_, fun n => ?_, fun hempty hreached => ?_, fun m hempty hm => ?_, fun d hd => ?_, hleaves⟩
    · rw [settle_circuit, hcircuit]
      rfl
    · rw [settle_circuit, hcircuit]
      rfl
    · rw [settle_circuit, hcircuit]
      rfl
    · rw [settle_circuit, hcircuit]
      rfl
    · rw [settle_circuit, hcircuit]
    · rw [settle_line, hline]
    · rw [settle_cc]
      exact startSending_nothing (by rw [hlist hempty, if_pos hreached]) hfree
    · have hdue : (s.circuit x.circuit).desired ≠ x.msg.sent := by
        intro heq
        rw [heq, messageFor_self] at hm
        cases hm
      rw [settle_cc]
      exact startSending_one (by rw [hlist hempty, if_neg hdue]) hfree (by rw [hcircuit]; exact hm)
    · rw [settle_circuit, hothers d hd]
  · obtain ⟨l, hl⟩ := sendEnds_wentDown hsend hdown hstate
    have hcc : CcOnly s (sendEnds s x.msg) := ⟨_, hl⟩
    obtain ⟨hdone, hleaves⟩ := hcc.done hheld s
    refine ⟨_, hdone, fun d => ?_, hleaves⟩
    rw [settle_circuit, hl]
    rfl

end Sys2Proof.Machine

namespace Sys2Proof.Machine

/-! ## A failover completed (R42, R43, R48, R118; O33) -/

section FailoverTaken

variable {s : State} {n : Nat}

/-- The line's record when its failover has been taken (R48). -/
def LineRec.switched (l : LineRec) : LineRec := { l with stateTimer := none, pathSwitching := false, switchFrom := none }

/-- The circuit in use and the line's record as it will be, PATH_SWITCH still to come (R48). -/
def switchTaken (s : State) (n c : Nat) : State :=
  modLine (stopState (putInUse s c) n) n fun l => { l with pathSwitching := false, switchFrom := none }

theorem failoverTaken_eq (s : State) (n c : Nat) : failoverTaken s n c =
    switchSegment (issue (switchTaken s n c) (.pathSwitch n ((s.line n).switchFrom.getD c) c (s.path n).lastUsed)) n := rfl

theorem switchTaken_line (s : State) (n c m : Nat) : (switchTaken s n c).line m = if m = n then (s.line n).switched else s.line m := by
  by_cases hm : m = n <;> simp [switchTaken, stopState, putInUse, hm, LineRec.switched]

theorem switchTaken_circuit (s : State) (n c e : Nat) : (switchTaken s n c).circuit e =
    if e = c then { s.circuit c with state := .inUse } else s.circuit e := by simp [switchTaken, stopState, putInUse]

theorem work_switchTaken (s : State) (n c : Nat) : Work s (switchTaken s n c) [.lc, .cc] :=
  (((work_modCircuit s c _).mono (by decide)).step (work_stopState _ n)).step (work_modLine _ n _)

theorem work_failoverTaken (s : State) (n c : Nat) : Work s (failoverTaken s n c) [.events, .lc, .cc] :=
  (((work_switchTaken s n c).mono (by decide)).step (work_issue _ _)).step (work_modContext _ n _)

/-- The segment of the call that was open closes, and one opens at the new circuit's position (R116, R117). -/
theorem failoverTaken_context (s : State) (n c : Nat) : (failoverTaken s n c).context n = (s.context n).map fun x =>
    { x.closeSegment s.frame with switches := x.switches + 1, segment := some (s.frame, (s.path n).lastUsed) } := by
  have hw : (switchTaken s n c).um = s.um ∧ (switchTaken s n c).frame = s.frame ∧ (switchTaken s n c).path n = s.path n := ⟨rfl, rfl, rfl⟩
  obtain ⟨hum, hframe, hpath⟩ := hw
  rw [failoverTaken_eq, switchSegment, modContext_context, if_pos rfl, issue_context, State.context_congr hum]
  simp [hframe, hpath]

/-- Each message that completes a failover, once its circuit is seized (R42, R43). -/
theorem failoverTaken_exec {c : Fin 256} {i : Instr} (hactive : linkActive s = true) (howner : (s.circuit c).owner = some n)
    (hcall : (s.line n).state = .connected ∨ (s.line n).state = .held)
    (hi : ((i = Instr.seizeAck c ∨ i = Instr.farAnswer c) ∧ seizeSent (s.circuit c) = true) ∨ i = Instr.ringDetect c)
    (hstate : (s.circuit c).state = .seizing) (hswitching : (s.line n).pathSwitching = true) :
    exec i s = done s (failoverTaken s n c) := by
  have hown : ownerLine s c = some (n, s.line n) := by simp [ownerLine, howner]
  have hcalling : (s.line n).state ≠ .calling := by rcases hcall with h | h <;> simp [h]
  rcases hi with ⟨rfl | rfl, hsent⟩ | rfl
  · simp [exec, execSeizeAck, whenLinkActive, hactive, seizeAckOn, hstate, hown, hsent, hcalling, hswitching]
  · simp [exec, execFarAnswer, whenLinkActive, hactive, farAnswerOn, hstate, hown, hsent, hcalling, hswitching]
  · simp [exec, execRingDetect, whenLinkActive, hactive, ringDetectOn, hstate, hown, hcalling, hswitching]

/-- What a completed failover leaves at the end of its command (R48, R118). -/
theorem failoverTaken_done (s : State) (n c : Nat) (hheld : s.bi.held = []) (hhead : s.eu.evtHead < 256) (hroom : s.eu.unread ≤ 254) :
    ∃ t, done s (failoverTaken s n c) = .next t ∧ t.circuit c = { s.circuit c with state := .inUse } ∧
      t.line n = (s.line n).switched ∧
      (∀ x, s.context n = some x → ∃ y, t.context n = some y ∧ y.switches = x.switches + 1 ∧
        y.segment = some (s.frame, (s.path n).lastUsed)) ∧
      EventAt t s.eu.evtHead (.pathSwitch n ((s.line n).switchFrom.getD c) c (s.path n).lastUsed) s.frame ∧
      (∀ m, m ≠ n → t.line m = s.line m) ∧ (∀ d, d ≠ c → t.circuit d = s.circuit d) ∧ Leaves s t [.events, .lc, .cc] := by
  obtain ⟨hdone, hleaves⟩ := (work_failoverTaken s n c).done hheld hhead s
  have hline : ∀ m, (failoverTaken s n c).line m = if m = n then (s.line n).switched else s.line m := fun m => by
    rw [failoverTaken_eq, switchSegment, modContext_line, issue_line, switchTaken_line]
  have hcircuit : ∀ e, (failoverTaken s n c).circuit e = if e = c then { s.circuit c with state := .inUse } else s.circuit e := fun e => by
    rw [failoverTaken_eq, switchSegment, modContext_circuit, issue_circuit, switchTaken_circuit]
  have hevent : EventAt (failoverTaken s n c) s.eu.evtHead (.pathSwitch n ((s.line n).switchFrom.getD c) c (s.path n).lastUsed) s.frame := by
    have hissued := issue_eventAt (switchTaken s n c) (.pathSwitch n ((s.line n).switchFrom.getD c) c (s.path n).lastUsed) hroom
    rw [failoverTaken_eq, switchSegment]
    exact hissued.congr (modContext_bi _ _ _) (modContext_mem _ _ _)
  refine ⟨_, hdone, ?_, ?_, fun x hx => ?_, hevent.settle hhead s, fun m hm => ?_, fun d hd => ?_, hleaves⟩
  · rw [settle_circuit, hcircuit, if_pos rfl]
  · rw [settle_line, hline, if_pos rfl]
  · obtain ⟨o, k, hk⟩ := settle_context (failoverTaken s n c) s n
    exact ⟨_, by rw [hk, failoverTaken_context, hx]; rfl, rfl, rfl⟩
  · rw [settle_line, hline, if_neg hm]
  · rw [settle_circuit, hcircuit, if_neg hd]

end FailoverTaken

/-! ## A circuit given up by a line in a call, and the next one (R30, R31, R39, R44, R48; O33, O40) -/

section NextCircuit

/-- A line's record once it has lost its circuit, in CALLING and, for a failover, in CONNECTED and HELD (R48; log 14). -/
def lineAfterLoss (l : LineRec) (c : Nat) : LineRec :=
  if l.state = .calling then { l with signalTimer := none, stateTimer := none, active := none }
  else { l with
    signalTimer := none, stateTimer := none, active := none, ringBurst := false, pathSwitching := true
    switchFrom := some (l.switchFrom.getD c) }

/-- The position that a line whose circuit failed takes next: a retry's in CALLING, else a failover's (R30, R31, R48). -/
def nextPosition (s : State) (n c : Nat) : Option Nat :=
  if (s.line n).state = .calling then newPosition s n else failoverPosition s n (pathPositionOf s n c)

theorem lineAfterLoss_keeps (l : LineRec) (c : Nat) : (lineAfterLoss l c).eff = l.eff ∧ (lineAfterLoss l c).state = l.state ∧
    (lineAfterLoss l c).active = none ∧ (lineAfterLoss l c).participants = l.participants := by
  unfold lineAfterLoss
  split <;> exact ⟨rfl, rfl, rfl, rfl⟩

theorem idleAfter_lineAfterLoss (l : LineRec) (c : Nat) (now : Frame) : idleAfter (lineAfterLoss l c) now = idleAfter l now := by
  unfold lineAfterLoss
  split <;> rfl

theorem clearingAfter_lineAfterLoss (l : LineRec) (c : Nat) (guard now : Frame) :
    clearingAfter (lineAfterLoss l c) guard now = { clearingAfter l guard now with active := none } := by
  unfold lineAfterLoss
  split <;> rfl

/-- A line's choice of a position rests on its group, its masks, and the states of circuits. -/
theorem Readied.selectable_eq {v x : State} {n : Nat} {l : LineRec} (hx : Readied v x n l) (hl : l.eff = (v.line n).eff) (j : Nat) :
    Machine.selectable x n j = Machine.selectable v n j := by
  have heff : (x.line n).eff = (v.line n).eff := by rw [hx.line, if_pos rfl, hl]
  unfold Machine.selectable
  dsimp only
  rw [heff, State.path_congr hx.cc]
  simp only [State.circuit_congr hx.cc]

/-- A line in a call that loses its circuit takes the next position, or its path is lost (R48, R49). -/
theorem ownerLoses_next (v : State) (c n : Nat) (cause : StateCause)
    (hs : (v.line n).state = .calling ∨ (v.line n).state = .connected ∨ (v.line n).state = .held) :
    ∃ x, Readied v x n (lineAfterLoss (v.line n) c) ∧
      ownerLoses v c (some n) cause = (nextPosition v n c).elim (pathLost x n c) (seizeAt x n) := by
  have hstate : ((clearActive v n).line n).state = (v.line n).state := by simp [clearActive]
  have hstopped := ((readied_clearActive v n).modLine fun l => { l with signalTimer := none }).modLine fun l => { l with stateTimer := none }
  have hloss := (lineAfterLoss_keeps (v.line n) c).1
  rw [ownerLoses_eq, circuitFailed, nextPosition]
  rcases hs with hs | hs
  · have hx : Readied v (stopTimers (clearActive v n) n) n (lineAfterLoss (v.line n) c) := by
      rw [lineAfterLoss, if_pos hs]
      exact hstopped
    have hnew : newPosition (stopTimers (clearActive v n) n) n = newPosition v n := firstSelectable_congr (hx.selectable_eq hloss) _
    refine ⟨_, hx, ?_⟩
    simp only [hstate, hs, hnew, if_true]
    cases newPosition v n <;> rfl
  · have hne : (v.line n).state ≠ .calling := by rcases hs with h | h <;> simp [h]
    have hx : Readied v (modLine (stopTimers (clearActive v n) n) n fun l =>
        { l with ringBurst := false, pathSwitching := true, switchFrom := some (l.switchFrom.getD c) }) n (lineAfterLoss (v.line n) c) := by
      rw [lineAfterLoss, if_neg hne]
      exact hstopped.modLine _
    have hfailover : failoverPosition (modLine (stopTimers (clearActive v n) n) n fun l =>
        { l with ringBurst := false, pathSwitching := true, switchFrom := some (l.switchFrom.getD c) }) n (pathPositionOf v n c) =
          failoverPosition v n (pathPositionOf v n c) := firstSelectable_congr (hx.selectable_eq hloss) _
    refine ⟨_, hx, ?_⟩
    rw [if_neg hne]
    have hboth : circuitFailed.failover n c (pathPositionOf v n c) (clearActive v n) = (failoverPosition v n (pathPositionOf v n c)).elim
        (pathLost (modLine (stopTimers (clearActive v n) n) n fun l =>
          { l with ringBurst := false, pathSwitching := true, switchFrom := some (l.switchFrom.getD c) }) n c)
        (seizeAt (modLine (stopTimers (clearActive v n) n) n fun l =>
          { l with ringBurst := false, pathSwitching := true, switchFrom := some (l.switchFrom.getD c) }) n) := by
      unfold circuitFailed.failover
      dsimp only
      rw [hfailover]
      cases failoverPosition v n (pathPositionOf v n c) <;> rfl
    rcases hs with hs | hs <;> simp only [hstate, hs] <;> exact hboth

/-- The line seizes the circuit at the position that it takes next (R30, R31). -/
theorem Readied.seizes {v x : State} {n j d : Nat} {l : LineRec} (hx : Readied v x n l) (hl : l.eff = (v.line n).eff)
    (hd : (v.line n).eff.path[j]? = some d) :
    let u := seizeAt x n j
    Work v u [.lc, .cc, .link] ∧ (∀ m, u.line m = if m = n then { l with active := some d } else v.line m) ∧
    (∀ e, u.circuit e = if e = d then { v.circuit d with owner := some n, state := .seizing, desired := .seized } else v.circuit e) ∧
    u.path n = { v.path n with lastUsed := j } := by
  intro u
  have hxn : x.line n = l := by simp [hx.line]
  have hpath : (x.line n).eff.path[j]? = some d := by rw [hxn, hl, hd]
  refine ⟨(hx.work.mono (by decide)).step (work_seizeAt x n j), fun m => ?_, fun e => ?_, ?_⟩
  · rw [seizeAt_line x n j d hpath, hxn, hx.line]
    by_cases hm : m = n <;> simp [hm]
  · rw [seizeAt_circuit x n j d hpath, State.circuit_congr hx.cc, State.circuit_congr hx.cc]
  · rw [seizeAt_path x n j d hpath, if_pos rfl, State.path_congr hx.cc]

/-- A line has given its circuit up: the circuit is free of it, the line's record is a given one, and what the line may select at the other
positions of its group is what it might select before (R30, R35). -/
structure LineGaveUp (s v : State) (n c : Nat) (l : LineRec) : Prop where
  work       : Work s v [.lc, .cc, .link]
  eff        : l.eff = (s.line n).eff
  state      : l.state = (s.line n).state
  line       : ∀ m, v.line m = if m = n then l else s.line m
  freed      : GivenUp (s.circuit c) (v.circuit c)
  others     : ∀ e, e ≠ c → v.circuit e = s.circuit e
  selectable : ∀ k < 4, k ≠ pathPositionOf s n c → Machine.selectable v n k = Machine.selectable s n k
  eu         : v.eu = s.eu
  hc         : v.hc = s.hc
  um         : v.um = s.um

theorem positionIn_lt {path : List Nat} {c i : Nat} (h : positionIn path c = some i) : i < 4 := by
  unfold positionIn at h
  obtain ⟨hi, -⟩ := List.findIdx?_eq_some_iff_getElem.mp h
  rw [List.length_take] at hi
  omega

theorem pathPositionOf_lt (s : State) (n c : Nat) : pathPositionOf s n c < 4 := by
  unfold pathPositionOf
  cases h : positionIn (s.line n).eff.path c with
  | none => simp
  | some i => exact positionIn_lt h

/-- A failover never takes the failed position, nor one beyond the group (R31). -/
theorem mem_failoverPositions {p k : Nat} (hk : k ∈ [(p + 1) % 4, (p + 2) % 4, (p + 3) % 4]) : k < 4 ∧ k ≠ p := by
  simp only [List.mem_cons, List.not_mem_nil, or_false] at hk
  omega

/-- A first choice stays the first choice where one other position, and no more, is lost. -/
theorem firstSelectable_without {s v : State} {n p j : Nat} {is : List Nat} (hj : j ≠ p)
    (hlost : ∀ k ∈ is, k = p → selectable v n k = false) (hkept : ∀ k ∈ is, k ≠ p → selectable v n k = selectable s n k)
    (h : firstSelectable s n is = some j) : firstSelectable v n is = some j := by
  induction is with
  | nil => exact h
  | cons k is ih =>
    have ih' := ih (fun k' hk' => hlost k' (List.mem_cons_of_mem _ hk')) (fun k' hk' => hkept k' (List.mem_cons_of_mem _ hk'))
    unfold firstSelectable at h ih' ⊢
    by_cases hkp : k = p
    · have hv := hlost k List.mem_cons_self hkp
      rw [List.find?_cons] at h ⊢
      rw [hv]
      split at h
      · exact absurd ((Option.some.inj h).symm.trans hkp) hj
      · exact ih' h
    · have hv := hkept k List.mem_cons_self hkp
      rw [List.find?_cons] at h ⊢
      rw [hv]
      split at h
      · exact h
      · exact ih' h

namespace LineGaveUp

variable {s v : State} {n c : Nat} {l : LineRec} {cause : StateCause}

theorem lineRecord (h : LineGaveUp s v n c l) : v.line n = l := by rw [h.line, if_pos rfl]

theorem pathPosition (h : LineGaveUp s v n c l) : pathPositionOf v n c = pathPositionOf s n c := by
  simp [pathPositionOf, h.lineRecord, h.eff]

/-- In CONNECTED and HELD the next position is the one that a failover took before the circuit was given up (R31). -/
theorem nextPosition_failover (h : LineGaveUp s v n c l) (hs : (s.line n).state = .connected ∨ (s.line n).state = .held) {j : Nat}
    (hj : failoverPosition s n (pathPositionOf s n c) = some j) : nextPosition v n c = some j := by
  have hne : (v.line n).state ≠ .calling := by
    rw [h.lineRecord, h.state]
    rcases hs with hs | hs <;> simp [hs]
  have hmem := fun k hk => mem_failoverPositions (p := pathPositionOf s n c) (k := k) hk
  rw [nextPosition, if_neg hne, h.pathPosition]
  exact firstSelectable_without (hmem j (firstSelectable_some hj).1).2 (fun k hk hkp => absurd hkp (hmem k hk).2)
    (fun k hk hkp => h.selectable k (hmem k hk).1 hkp) hj

/-- In CALLING it is the one that a retry took before, if that was not the lost one (R30, R39). -/
theorem nextPosition_retry (h : LineGaveUp s v n c l) (hs : (s.line n).state = .calling)
    (hlost : Machine.selectable v n (pathPositionOf s n c) = false) {j : Nat} (hj : newPosition s n = some j)
    (hne : j ≠ pathPositionOf s n c) : nextPosition v n c = some j := by
  have hcalling : (v.line n).state = .calling := by rw [h.lineRecord, h.state, hs]
  have hmem : ∀ k ∈ [0, 1, 2, 3], k < 4 := by simp
  rw [nextPosition, if_pos hcalling]
  exact firstSelectable_without hne (fun k _ hkp => hkp ▸ hlost) (fun k hk hkp => h.selectable k (hmem k hk) hkp) hj

/-- The line has taken its next position: its record, the circuit there, the circuit it gave up, and all else (R30, R31, R48). -/
theorem seizesNext (h : LineGaveUp s v n c l)
    (hs : (s.line n).state = .calling ∨ (s.line n).state = .connected ∨ (s.line n).state = .held) {j d : Nat}
    (hnext : nextPosition v n c = some j) (hd : (s.line n).eff.path[j]? = some d) (hdc : d ≠ c) :
    let u := ownerLoses v c (some n) cause
    Work s u [.lc, .cc, .link] ∧ (∀ m, u.line m = if m = n then { lineAfterLoss l c with active := some d } else s.line m) ∧
    u.circuit d = { s.circuit d with owner := some n, state := .seizing, desired := .seized } ∧ GivenUp (s.circuit c) (u.circuit c) ∧
    (∀ e, e ≠ c → e ≠ d → u.circuit e = s.circuit e) ∧ u.path n = { v.path n with lastUsed := j } := by
  intro u
  rw [← h.state, ← h.lineRecord] at hs
  rw [← h.eff, ← h.lineRecord] at hd
  obtain ⟨x, hx, hu⟩ := ownerLoses_next v c n cause hs
  rw [hnext] at hu
  have hueq : u = seizeAt x n j := hu
  obtain ⟨hwork, hline, hcircuit, hpath⟩ := hx.seizes (lineAfterLoss_keeps (v.line n) c).1 hd
  rw [hueq]
  refine ⟨h.work.trans hwork, fun m => ?_, ?_, ?_, fun e hec hed => ?_, hpath⟩
  · rw [hline, h.lineRecord]
    by_cases hm : m = n <;> simp [hm, h.line]
  · rw [hcircuit, if_pos rfl, h.others d hdc]
  · rw [hcircuit, if_neg hdc.symm]
    exact h.freed
  · rw [hcircuit, if_neg hed, h.others e hec]

end LineGaveUp

/-- A position of a line whose circuit is another one is as selectable as before a circuit was released (R29, R30). -/
theorem selectable_of_other {s v : State} {n c k : Nat} (heff : (v.line n).eff = (s.line n).eff)
    (hmasks : (v.path n).installed = (s.path n).installed ∧ (v.path n).available = (s.path n).available ∧
      (v.path n).operational.getLsbD k = (s.path n).operational.getLsbD k)
    (hcircuit : ∀ e, e ≠ c → v.circuit e = s.circuit e) (hother : (s.line n).eff.path[k]? ≠ some c) :
    selectable v n k = selectable s n k := by
  obtain ⟨hinstalled, havailable, hoperational⟩ := hmasks
  unfold selectable
  dsimp only
  rw [heff, hinstalled, havailable, hoperational]
  cases hd : (s.line n).eff.path[k]? with
  | none => rfl
  | some d =>
    have hdc : d ≠ c := fun h => hother (by rw [hd, h])
    simp only [hcircuit d hdc]

theorem releaseCircuit_path (s : State) (c : Nat) (b : Bool) (o : Option Nat) (m : Nat) : (releaseCircuit s c b o).path m = s.path m := by
  obtain ⟨l, hl⟩ := relist_eq (s.setCircuit c ((s.circuit c).releasing b o)) c
  rw [releaseCircuit_eq, hl]
  rcases finishRelease_eq ((s.setCircuit c ((s.circuit c).releasing b o)).setPendingList l) c with h | h <;> rw [h] <;> rfl

/-- The circuit of a failed call, released without owner (R35). -/
theorem releaseCircuit_givenUp (s : State) (c : Nat) (b : Bool) : GivenUp (s.circuit c) ((releaseCircuit s c b none).circuit c) := by
  obtain ⟨st, -, hc⟩ := releaseCircuit_circuit_unowned s c b
  rw [hc]
  exact ⟨rfl, rfl, rfl⟩

/-- A far clear of a NAILED line's circuit releases it (R44). -/
theorem lineGaveUp_farClear (s : State) (n c : Nat)
    (hother : ∀ k < 4, k ≠ pathPositionOf s n c → (s.line n).eff.path[k]? ≠ some c) :
    LineGaveUp s (releaseCircuit s c true none) n c (s.line n) where
  work := (work_releaseCircuit s c true none).mono (by decide)
  eff := rfl
  state := rfl
  line m := by
    rw [releaseCircuit_line]
    split <;> simp [*]
  freed := releaseCircuit_givenUp s c true
  others e he := releaseCircuit_circuit_ne s c true none e he
  selectable k hk hne := selectable_of_other (by rw [releaseCircuit_line]) (by simp [releaseCircuit_path])
    (fun e he => releaseCircuit_circuit_ne s c true none e he) (hother k hk hne)
  eu := (ccOnly_releaseCircuit s c true none).parts.1
  hc := (ccOnly_releaseCircuit s c true none).parts.2.1
  um := releaseCircuit_um s c true none

end NextCircuit

/-- Settles O33: the failover begun from the circuit that was given up; then the failover completed. -/
theorem failoverMovesTheCall : Obligations.FailoverMovesTheCall := by
  intro c n s hactive hheld hhead hroom howner hcall
  refine ⟨fun hstate hkind _ j d hj hd hother => ?_, fun i hi hstate hswitching => ?_⟩
  · have hgave := lineGaveUp_farClear s n c hother
    obtain ⟨hjlt, hjne⟩ := mem_failoverPositions (firstSelectable_some hj).1
    have hdc : d ≠ c := fun h => hother j hjlt hjne (by rw [hd, h])
    obtain ⟨hwork, hline, hseized, hfreed, hrest, hpath⟩ := hgave.seizesNext (cause := .far) (.inr hcall)
      (hgave.nextPosition_failover hcall hj) hd hdc
    have hclear : clearCall s n c (s.line n) = ownerLoses (releaseCircuit s c true none) c (some n) .far := by
      rcases hcall with h | h <;> simp [clearCall, h, hkind, LineState.inCall]
    have hexec := farClear_exec hactive howner hstate
    rw [hclear] at hexec
    obtain ⟨hdone, hleaves⟩ := hwork.done hheld hhead s
    have hne : (s.line n).state ≠ .calling := by rcases hcall with h | h <;> simp [h]
    refine ⟨_, hexec.trans hdone, ?_, ?_, ?_, ?_, ?_, ?_, fun e hec hed => ?_, fun m hm => ?_, hleaves⟩
    · rw [settle_path, hpath]
    · rw [settle_line, hline, if_pos rfl, lineAfterLoss, if_neg hne]
    · rw [settle_circuit, hseized]
    · rw [settle_circuit, hfreed.owner]
    · rw [settle_circuit, hfreed.desired]
    · rw [settle_circuit, hfreed.farHeld]
    · rw [settle_circuit, hrest e hec hed]
    · rw [settle_line, hline, if_neg hm]
  · rw [failoverTaken_exec hactive howner hcall hi hstate hswitching]
    exact failoverTaken_done s n c hheld hhead hroom

end Sys2Proof.Machine

namespace Sys2Proof.Machine

/-! ## A call whose path is lost, and the expiry of ACK_WAIT (R30, R31, R39, R48, R49; O40) -/

section PathLost

/-- A line's record when its path is lost: OUT_OF_SERVICE, IDLE or CLEARING by its kind and state (R49). -/
def lostLine (l : LineRec) (now : Frame) : LineRec :=
  if l.eff.kind = .nailed then { idleAfter l now with participants := [], state := .outOfService .noPath }
  else if l.state = .calling then { idleAfter l now with participants := [] }
  else clearingAfter l (now + 8000#48) now

/-- LINE_LOST is reported of a call that was connected (R49). -/
def lossReported (x : State) (n c : Nat) : State := if (x.line n).state = .calling then x else issue x (.lineLost n c)

/-- The handsets are dropped, and then the line comes to rest or is CLEARING (R49). -/
theorem pathLost_eq (x : State) (n c : Nat)
    (hs : (x.line n).state = .calling ∨ (x.line n).state = .connected ∨ (x.line n).state = .held) :
    pathLost x n c =
      if (x.line n).eff.kind = .nailed ∨ (x.line n).state = .calling then
        changeState (callEnd (dropAllComplete (lossReported x n c) n) n .lost) n
          (if (x.line n).eff.kind = .nailed then .outOfService .noPath else .idle) .noPath
      else enterClearing (dropAllComplete (lossReported x n c) n) n .lost .noPath false := by
  unfold pathLost lossReported
  dsimp only
  by_cases hk : (x.line n).eff.kind = .nailed
  · rcases hs with h | h | h <;> simp only [h, hk] <;> rfl
  · rcases hs with h | h | h <;> simp only [h, hk] <;> rfl

/-- The loss of a line's path, from a state in which the line has no circuit any more (R49). -/
structure CallLost (x u : State) (n c : Nat) : Prop where
  work    : Work x u [.events, .alarms, .lc, .cc, .link, .hc, .ra, .um]
  line    : ∀ m, u.line m = if m = n then lostLine (x.line n) x.frame else x.line m
  owner   : ∀ e, (u.circuit e).owner = (x.circuit e).owner
  dropped : ∀ e ∈ (x.line n).participants, CurEntry.line n ∉ (u.handset e.party).current ∧ n ∉ (u.handset e.party).hold
  only    : OnlyHandsets x u ((x.line n).participants.map (·.party))
  context : u.context n = none
  updates : u.um.updates = updatesAfter x n id
  event   : (x.line n).state ≠ .calling → x.eu.evtHead < 256 → x.eu.evtRead < 256 → x.eu.unread ≤ 254 →
    UnreadEvent u x.eu.evtHead (.lineLost n c) x.frame

/-- Reporting the loss of a line's call leaves everything but the event queue, and the event, once reported, stays unread (R49). -/
structure LossReported (x y : State) (n c : Nat) : Prop where
  work  : Work x y [.events]
  lc    : y.lc = x.lc
  cc    : y.cc = x.cc
  hc    : y.hc = x.hc
  um    : y.um = x.um
  event : ∀ u, EventsKept y u → (x.line n).state ≠ .calling → x.eu.evtHead < 256 → x.eu.evtRead < 256 → x.eu.unread ≤ 254 →
    UnreadEvent u x.eu.evtHead (.lineLost n c) x.frame

theorem lossReported_reported (x : State) (n c : Nat) : LossReported x (lossReported x n c) n c := by
  unfold lossReported
  by_cases hs : (x.line n).state = .calling
  · rw [if_pos hs]
    exact ⟨.refl x _, rfl, rfl, rfl, rfl, fun _ _ hne => absurd hs hne⟩
  · rw [if_neg hs]
    exact ⟨work_issue x _, by simp, by simp, by simp, by simp,
      fun _ hk _ hhead hread hroom => hk _ _ _ (issue_unreadEvent x _ hhead hread hroom)⟩

section

variable {x y v : State} {n c : Nat}

theorem LossReported.updatesAfter (h : LossReported x y n c) : Machine.updatesAfter y n id = Machine.updatesAfter x n id :=
  updatesAfter_congr n id (State.context_congr h.um n) (by rw [h.um]) h.work.call.frame

/-- A line that was CALLING, or is NAILED, comes to rest, its circuit already given up (R49). -/
theorem LossReported.rests (h : LossReported x y n c) (hdrop : Dropped y v n id) (hactive : (x.line n).active = none)
    (hs : (x.line n).state = .calling ∨ (x.line n).state = .connected ∨ (x.line n).state = .held) {new : LineState}
    (hnew : (x.line n).eff.kind = .nailed ∧ new = .outOfService .noPath ∨
      (x.line n).eff.kind ≠ .nailed ∧ (x.line n).state = .calling ∧ new = .idle) :
    CallLost x (changeState (callEnd v n .lost) n new .noPath) n c := by
  have hy : ∀ m, y.line m = x.line m := State.line_congr h.lc
  have hchange : (y.line n).state ≠ new ∧ (y.line n).state ≠ .clearing := by
    rw [hy]
    rcases hnew with ⟨-, rfl⟩ | ⟨-, -, rfl⟩ <;> rcases hs with hs | hs | hs <;> simp [hs]
  have hrest : new.atRest = true ∧ new.keepsSetter = false := by
    rcases hnew with ⟨-, rfl⟩ | ⟨-, -, rfl⟩ <;> exact ⟨rfl, rfl⟩
  have hlost : { idleAfter (x.line n) x.frame with participants := [], state := new, active := none } = lostLine (x.line n) x.frame := by
    rcases hnew with ⟨hk, rfl⟩ | ⟨hk, hcalling, rfl⟩
    · rw [lostLine, if_pos hk]
      rfl
    · rw [lostLine, if_neg hk, if_pos hcalling]
      rfl
  obtain ⟨hwork, hlines, hcircuits, hdropped, honly, hcontext, hupdates⟩ := hdrop.ended .lost new .noPath hchange.1 hchange.2 hrest.1 hrest.2
  rw [hy] at hdropped honly
  exact {
    work := (h.work.mono (by decide)).step hwork
    line := fun m => by rw [hlines, hy, hy, h.work.call.frame, hactive, hlost]
    owner := fun e => by
      rw [← State.circuit_congr h.cc e]
      obtain ⟨b, hb | hb⟩ := hcircuits e <;> rw [hb]
      exact CircuitRec.renamed_owner _ b
    dropped := hdropped
    only := honly.of_eq h.hc
    context := hcontext
    updates := hupdates.trans h.updatesAfter
    event := h.event _ hwork.events }

/-- Any other line is CLEARING (R49). -/
theorem LossReported.clears (h : LossReported x y n c) (hdrop : Dropped y v n id) (hactive : (x.line n).active = none)
    (hs : (x.line n).state = .connected ∨ (x.line n).state = .held) (hkind : (x.line n).eff.kind ≠ .nailed) :
    CallLost x (enterClearing v n .lost .noPath false) n c := by
  have hy : ∀ m, y.line m = x.line m := State.line_congr h.lc
  have hstate : (x.line n).state ≠ .calling ∧ (y.line n).state ≠ .clearing := by
    rw [hy]
    rcases hs with hs | hs <;> simp [hs]
  obtain ⟨hwork, hlines, -, hdropped, honly, hcontext, hupdates, -⟩ := hdrop.clearing .lost .noPath false hstate.2
  rw [hy] at hdropped honly
  exact {
    work := (h.work.mono (by decide)).step hwork
    line := fun m => by rw [hlines, hy, hy, h.work.call.frame, lostLine, if_neg hkind, if_neg hstate.1]
    owner := fun e => by
      have hkept : circuitKept v n false = v := by simp [circuitKept, hdrop.line, hy, hactive]
      rw [enterClearing_circuit, hkept, State.circuit_congr hdrop.cc, State.circuit_congr h.cc]
    dropped := hdropped
    only := honly.of_eq h.hc
    context := hcontext
    updates := hupdates.trans h.updatesAfter
    event := h.event _ hwork.events }

end

theorem pathLost_callLost (x : State) (n c : Nat) (hactive : (x.line n).active = none)
    (hs : (x.line n).state = .calling ∨ (x.line n).state = .connected ∨ (x.line n).state = .held) :
    CallLost x (pathLost x n c) n c := by
  have hreported := lossReported_reported x n c
  have hdrop := dropped_dropAllComplete (lossReported x n c) n
  rw [pathLost_eq x n c hs]
  by_cases hkind : (x.line n).eff.kind = .nailed
  · rw [if_pos (.inl hkind), if_pos hkind]
    exact hreported.rests hdrop hactive hs (.inl ⟨hkind, rfl⟩)
  by_cases hcalling : (x.line n).state = .calling
  · rw [if_pos (.inr hcalling), if_neg hkind]
    exact hreported.rests hdrop hactive hs (.inr ⟨hkind, hcalling, rfl⟩)
  · rw [if_neg (not_or.mpr ⟨hkind, hcalling⟩)]
    exact hreported.clears hdrop hactive (hs.resolve_left hcalling) hkind

/-- A line that gave its circuit up and has no next position has lost its path (R49). -/
theorem LineGaveUp.losesPath {s v : State} {n c : Nat} {l : LineRec} {cause : StateCause} (h : LineGaveUp s v n c l)
    (hs : (s.line n).state = .calling ∨ (s.line n).state = .connected ∨ (s.line n).state = .held)
    (hnone : ∀ k < 4, Machine.selectable v n k = false) :
    ∃ x, Readied v x n (lineAfterLoss l c) ∧ CallLost x (ownerLoses v c (some n) cause) n c := by
  rw [← h.state, ← h.lineRecord] at hs
  obtain ⟨x, hx, hu⟩ := ownerLoses_next v c n cause hs
  have hnext : nextPosition v n c = none := by
    unfold nextPosition
    split
    · exact firstSelectable_none fun k hk => hnone k (by simp at hk; omega)
    · exact firstSelectable_none fun k hk => hnone k (mem_failoverPositions hk).1
  rw [hnext] at hu
  have hueq : ownerLoses v c (some n) cause = pathLost x n c := hu
  have hxn : x.line n = lineAfterLoss (v.line n) c := by rw [hx.line, if_pos rfl]
  obtain ⟨-, hstate, hactive, -⟩ := lineAfterLoss_keeps (v.line n) c
  rw [hueq, ← h.lineRecord]
  exact ⟨x, hx, pathLost_callLost x n c (by rw [hxn, hactive]) (by rwa [hxn, hstate])⟩

end PathLost

section AckWait

variable (s : State) (n c : Nat)

/-- The circuit that did not answer is marked failed for the line and released, before its owner learns of it (R39). -/
def ackFailed : State :=
  releaseCircuit (modPath (stopState s n) n fun p => { p with operational := setMaskBit p.operational (pathPositionOf s n c) false }) c false none

theorem ackFailed_line (m : Nat) : (ackFailed s n c).line m = if m = n then { s.line n with stateTimer := none } else s.line m := by
  by_cases hm : m = n <;> simp [ackFailed, stopState, hm]

theorem ackFailed_path : (ackFailed s n c).path n =
    { s.path n with operational := setMaskBit (s.path n).operational (pathPositionOf s n c) false } := by
  simp [ackFailed, releaseCircuit_path, stopState]

/-- The failed position can be selected no more (R29, R39). -/
theorem ackFailed_unselectable : selectable (ackFailed s n c) n (pathPositionOf s n c) = false := by
  have hfailed := setMaskBit_same (s.path n).operational false (pathPositionOf_lt s n c)
  simp [selectable, ackFailed_path, hfailed, -setMaskBit_getLsbD]

theorem lineGaveUp_ackWait (hother : ∀ k < 4, k ≠ pathPositionOf s n c → (s.line n).eff.path[k]? ≠ some c) :
    LineGaveUp s (ackFailed s n c) n c { s.line n with stateTimer := none } := by
  let w := modPath (stopState s n) n fun p => { p with operational := setMaskBit p.operational (pathPositionOf s n c) false }
  have hw : Work s w [.lc, .cc, .link] := ((work_stopState s n).mono (by decide)).step (work_modPath _ n _)
  have hwcircuit : ∀ e, w.circuit e = s.circuit e := fun e => by simp [w, stopState]
  have hcircuit : ∀ e, e ≠ c → (ackFailed s n c).circuit e = s.circuit e := fun e he =>
    (releaseCircuit_circuit_ne w c false none e he).trans (hwcircuit e)
  obtain ⟨heu, hhc, -⟩ := (ccOnly_releaseCircuit w c false none).parts
  exact {
    work := hw.step (work_releaseCircuit w c false none)
    eff := rfl
    state := rfl
    line := ackFailed_line s n c
    freed := by
      have := releaseCircuit_givenUp w c false
      rwa [hwcircuit] at this
    others := hcircuit
    selectable := fun k hk hne => selectable_of_other (by rw [ackFailed_line, if_pos rfl]; rfl)
      ⟨by rw [ackFailed_path], by rw [ackFailed_path], by rw [ackFailed_path, setMaskBit_getLsbD_ne _ _ hne]⟩ hcircuit (hother k hk hne)
    eu := heu
    hc := hhc
    um := releaseCircuit_um w c false none }

variable {s n c}

theorem ackWait_exec {n : Fin 256} (hdue : stateDue s n .ackWait = true) (hactive : (s.line n).active = some c) :
    exec (.ackWait n) s = done s (ownerLoses (ackFailed s n c) c (some n.val) .timer) := by
  have hexpires : ackWaitExpires s n = ownerLoses (ackFailed s n c) c (some n.val) .timer := by
    unfold ackWaitExpires
    rw [hactive]
    rfl
  simp [exec, execAckWait, hdue, hexpires]

/-- The line's record when its last circuit did not answer, from its record before (R49). -/
theorem lostLine_ackWait (l : LineRec) (c : Nat) (now : Frame) : lostLine (lineAfterLoss { l with stateTimer := none } c) now =
    if l.eff.kind = .nailed then { idleAfter l now with participants := [], state := .outOfService .noPath }
    else if l.state = .calling then { idleAfter l now with participants := [] }
    else { clearingAfter l (now + 8000#48) now with active := none } := by
  obtain ⟨heff, hstate, -⟩ := lineAfterLoss_keeps { l with stateTimer := none } c
  rw [lostLine, heff, hstate, idleAfter_lineAfterLoss, clearingAfter_lineAfterLoss]
  rfl

end AckWait

/-- Settles O40: the circuit is given up with its position failed; then the next position is seized, or the path is lost. -/
theorem ackWaitRetriesOrLosesThePath : Obligations.AckWaitRetriesOrLosesThePath := by
  intro n c s hheld hhead hread hdue hactive hother
  have hexec := ackWait_exec hdue hactive
  have hgave := lineGaveUp_ackWait s n c hother
  refine ⟨fun j d _ hd hnext => ?_, fun hnone hs => ?_⟩
  · have hcall : (s.line n).state = .calling ∨ (s.line n).state = .connected ∨ (s.line n).state = .held := hnext.imp And.left And.left
    have hchosen : nextPosition (ackFailed s n c) n c = some j ∧ j < 4 ∧ j ≠ pathPositionOf s n c := by
      rcases hnext with ⟨hcalling, hj, hne⟩ | ⟨hconnected, hj⟩
      · have hlt : j < 4 := by
          have := (firstSelectable_some hj).1
          simp at this
          omega
        exact ⟨hgave.nextPosition_retry hcalling (ackFailed_unselectable s n c) hj hne, hlt, hne⟩
      · exact ⟨hgave.nextPosition_failover hconnected hj, mem_failoverPositions (firstSelectable_some hj).1⟩
    obtain ⟨hposition, hlt, hne⟩ := hchosen
    have hdc : d ≠ c := fun h => hother j hlt hne (by rw [hd, h])
    obtain ⟨hwork, hline, hseized, hfreed, hrest, hpath⟩ := hgave.seizesNext (cause := .timer) hcall hposition hd hdc
    obtain ⟨hdone, hleaves⟩ := hwork.done hheld hhead s
    refine ⟨_, hexec.trans hdone, ?_, ?_, ?_, ?_, ?_, ?_, fun e hec hed => ?_, fun m hm => ?_, hleaves⟩
    · rw [settle_path, hpath, ackFailed_path]
      exact setMaskBit_same _ _ (pathPositionOf_lt s n c)
    · rw [settle_path, hpath]
    · rw [settle_line, hline, if_pos rfl]
      unfold lineAfterLoss
      by_cases hcalling : (s.line n).state = .calling <;> simp [hcalling]
    · rw [settle_circuit, hseized]
    · rw [settle_circuit, hfreed.owner]
    · rw [settle_circuit, hfreed.desired]
    · rw [settle_circuit, hrest e hec hed]
    · rw [settle_line, hline, if_neg hm]
  · have hnone' : ∀ k < 4, selectable (ackFailed s n c) n k = false := by
      intro k hk
      by_cases hkp : k = pathPositionOf s n c
      · rw [hkp, ackFailed_unselectable]
      · rw [hgave.selectable k hk hkp, hnone k hk]
    obtain ⟨x, hx, hlost⟩ := hgave.losesPath (cause := .timer) hs hnone'
    obtain ⟨-, hstate, -, hparts⟩ := lineAfterLoss_keeps { s.line n with stateTimer := none } c
    have hxn : x.line n = lineAfterLoss { s.line n with stateTimer := none } c := by rw [hx.line, if_pos rfl]
    have hframe : x.frame = s.frame := hx.work.call.frame.trans hgave.work.call.frame
    have heu : x.eu = s.eu := hx.eu.trans hgave.eu
    have hum : x.um = s.um := hx.um.trans hgave.um
    have hwork : Work s (ownerLoses (ackFailed s n c) c (some n.val) .timer) [.events, .alarms, .lc, .cc, .link, .hc, .ra, .um] :=
      ((hgave.work.mono (by decide)).step hx.work).step hlost.work
    obtain ⟨hdone, hleaves⟩ := hwork.done hheld hhead s
    have hdropped := hlost.dropped
    have honly := hlost.only
    rw [hxn, hparts] at hdropped honly
    refine ⟨_, hexec.trans hdone, fun e he => ?_, (honly.of_eq (hx.hc.trans hgave.hc)).congr (settle_hc s _), ?_,
      settle_context_none _ s n hlost.context, hwork.call.updatesAre (hlost.updates.trans ?_) s, fun hcalling hroom => ?_, ?_, fun m hm => ?_,
      hleaves.mono (by decide)⟩
    · rw [settle_handset]
      exact hdropped e he
    · rw [settle_circuit, hlost.owner, State.circuit_congr hx.cc, hgave.freed.owner]
    · exact updatesAfter_congr n id (State.context_congr hum n) (by rw [hum]) hframe
    · have hevent := hlost.event (by rwa [hxn, hstate]) (heu ▸ hhead) (heu ▸ hread) (heu ▸ hroom)
      rw [heu, hframe] at hevent
      exact hevent.settle s
    · rw [settle_line, hlost.line, if_pos rfl, hxn, hframe]
      exact lostLine_ackWait (s.line n) c s.frame
    · rw [settle_line, hlost.line, if_neg hm, hx.line, if_neg hm, ackFailed_line, if_neg hm]

end Sys2Proof.Machine

namespace Sys2Proof.Machine

/-! ## The timer of an intercom call (R66, R71, R72; O43) -/

section IntercomTimer

variable {s : State}

/-- The expiry of a timer that is due ends its call (R71). -/
theorem intercomTimer_exec {c : Fin 16} (hdue : callDue s c = true) :
    exec (.intercomTimer c) s = done s (complete s (endIntercom s c .noAnswer)) := by
  have hexec : exec (.intercomTimer c) s = execIntercomTimer c s := rfl
  rw [hexec, execIntercomTimer, if_pos hdue]

theorem work_endedCall (c : Nat) (why : IcmEnd) : Work s (complete s (endIntercom s c why)) [.events, .alarms, .hc, .ra] :=
  ((work_endIntercom s c why).mono (by decide)).step (work_complete _ s)

end IntercomTimer

/-- Settles O43: the call ends as R72 says, and completion leaves its handsets, its record and the reach sets. -/
theorem intercomTimerEndsTheCall : Obligations.IntercomTimerEndsTheCall := by
  unfold Obligations.IntercomTimerEndsTheCall
  intro c s hheld hhead hdue
  obtain ⟨-, -, hrecord, hothers, hhandsets, hreach⟩ := endIntercom_spec s c .noAnswer
  obtain ⟨hdone, hleaves⟩ := (work_endedCall (s := s) c .noAnswer).done hheld hhead s
  refine ⟨_, (intercomTimer_exec hdue).trans hdone, ?_, fun d hd => ?_, fun p hp => ?_, fun p hp => ?_, fun q hq => ?_, hleaves⟩
  · rw [settle_call, complete_call, hrecord]
  · rw [settle_call, complete_call, hothers d hd]
  · rw [settle_handset, complete_handset, hhandsets, if_pos ⟨p, (IcmRec.mem_parties _ p).mpr hp, rfl⟩]
    rfl
  · rw [settle_handset, complete_handset, hhandsets, if_neg]
    rintro ⟨r, hr, heq⟩
    exact hp r ((IcmRec.mem_parties _ r).mp hr) heq
  · rw [settle_position, complete_reach, hreach q hq]

end Sys2Proof.Machine

namespace Sys2Proof.Machine

/-! ## Intercom calls made and answered (R53, R66 to R70; O58) -/

section EnteringCalls

variable {s : State} {p : Party} {c : Nat}

/-- A handset enters a call: its current lines are pushed, the call's record is set and becomes its one current entry, and the event is
reported (R53, R68, R70). -/
def enterCall (s : State) (p : Party) (c : Nat) (r : IcmRec) (e : Event) : State :=
  complete s (recomputeReach (issue (setCurrent ((pushCurrent s p).setCall c r) p (.intercom c)) e))

/-- What the entry of a call does to the call records, the handsets and the lines that the handset leaves. -/
structure CallEntered (s t : State) (p : Party) (c : Nat) (r : IcmRec) (ns : List Nat) : Prop where
  work     : Work s t [.events, .alarms, .lc, .hc, .ra]
  call     : t.call c = r
  calls    : ∀ d, d ≠ c → t.call d = s.call d
  handset  : t.handset p = { current := [.intercom c], hold := (s.handset p).hold ++ ns }
  handsets : ∀ q : Party, q.place ≠ p.place → t.handset q = s.handset q
  pushed   : ∀ m ∈ ns, (s.line m).Pushed (t.line m) p
  lines    : ∀ m, m ∉ ns → t.line m = s.line m
  reach    : ∀ q < 32, (t.position q).reach = reachOf (s.setCall c r) q

theorem enterCall_spec (r : IcmRec) (e : Event) (ns : List Nat) (hcurrent : (s.handset p).current = ns.map .line) :
    CallEntered s (enterCall s p c r e) p c r ns := by
  have hpush := work_pushCurrent_lines s ns hcurrent
  obtain ⟨-, honly, hhold, hcalls, hpositions, hother, hpushed⟩ := pushLines_spec (s := s) (p := p) ns
  rw [← pushCurrent_lines s p ns hcurrent] at honly hhold hcalls hpositions hother hpushed
  unfold enterCall
  generalize pushCurrent s p = v at hpush honly hhold hcalls hpositions hother hpushed
  let w := issue (setCurrent (v.setCall c r) p (.intercom c)) e
  obtain ⟨ps, hps⟩ := recomputeReach_rest w
  have hwhc : w.hc = (setCurrent (v.setCall c r) p (.intercom c)).hc := issue_hc ..
  have hwlc : w.lc = v.lc := by simp [w, setCurrent]
  have hline : ∀ m, (recomputeReach w).line m = v.line m := fun m => by rw [hps]; exact State.line_congr hwlc m
  have hhandset : ∀ q, (recomputeReach w).handset q = (setCurrent v p (.intercom c)).handset q := fun q => by
    rw [hps]
    exact State.handset_congr hwhc q
  have hcall : ∀ d, (recomputeReach w).call d = if d = c then r else s.call d := fun d => by
    have hkept : v.call d = s.call d := congrArg (Table.get IcmRec.cold · d) hcalls
    rw [← hkept, ← State.setCall_call, hps]
    exact State.call_congr hwhc d
  have hwcalls : w.hc.calls = (s.setCall c r).hc.calls := by
    rw [hwhc]
    exact congrArg (Table.put IcmRec.cold · c r) hcalls
  have hwapplied : ∀ q, (w.position q).applied = ((s.setCall c r).position q).applied := fun q => by
    have hposition : w.position q = s.position q :=
      (State.position_congr hwhc q).trans (congrArg (Table.get PosRec.cold · q) hpositions)
    rw [hposition]
    rfl
  exact {
    work := (((((hpush.mono (by decide)).step (work_setCall _ c r)).step (work_modHandset _ p _)).step
      (work_issue _ e)).step (work_recomputeReach _)).step (work_complete _ s)
    call := by rw [complete_call, hcall, if_pos rfl]
    calls := fun d hd => by rw [complete_call, hcall, if_neg hd]
    handset := by
      rw [complete_handset, hhandset, setCurrent_handset]
      simp only [hhold]
    handsets := fun q hq => by
      rw [complete_handset, hhandset, (onlyHandsets_setCurrent v p _).handsets q (by simpa using hq), honly.handsets q (by simpa using hq)]
    pushed := fun m hm => by
      rw [complete_line, hline]
      exact hpushed m hm
    lines := fun m hm => by rw [complete_line, hline, hother m hm]
    reach := fun q hq => by rw [complete_reach, recomputeReach_reach w q hq, reachOf_congr hwcalls hwapplied] }

/-- With no line to push, the call's event is the first that is reported. -/
theorem enterCall_event (r : IcmRec) (e : Event) (hcurrent : (s.handset p).current = []) (he : s.eu.evtHead < 256) (hr : s.eu.evtRead < 256)
    (hu : s.eu.unread ≤ 254) : UnreadEvent (enterCall s p c r e) s.eu.evtHead e s.frame := by
  let v := setCurrent (s.setCall c r) p (.intercom c)
  have hpush : pushCurrent s p = s := by rw [pushCurrent, hcurrent]; rfl
  have henter : enterCall s p c r e = complete s (recomputeReach (issue v e)) := by rw [enterCall, hpush]
  have hafter : Work (issue v e) (complete s (recomputeReach (issue v e))) [.events, .alarms, .hc, .ra] :=
    ((work_recomputeReach (issue v e)).mono (by decide)).step (work_complete _ s)
  rw [henter]
  exact hafter.events _ _ _ (issue_unreadEvent v e he hr hu)

/-- The lines that a call entered by request has pushed. -/
theorem CallEntered.linesPushed {u : State} {r : IcmRec} {ns : List Nat} (h : CallEntered s u p c r ns) (ws : List Word) (res : Result) :
    LinesPushed s (requestEnd s u ws res) p ns where
  mode m hm := by rw [requestEnd_line, (h.pushed m hm).mode]
  held m hm hs hk := by
    rw [requestEnd_line]
    exact (h.pushed m hm).held (.inl ⟨hs, hk⟩)

/-- The positions that a call entered reaches (R69). -/
theorem CallEntered.reaches_iff {u : State} {r : IcmRec} {ns : List Nat} (h : CallEntered s u p c r ns) (hc : c < 16) {q : Nat} (hq : q < 32) :
    (u.position q).reach.getLsbD c = reaches (s.setCall c r) c q := by
  rw [h.reach q hq, reachOf_getLsbD]
  simp [hc]

end EnteringCalls

section PlacingCalls

variable {s : State} {p : Party} {c : Nat}

theorem freeCall_lt (h : freeCall s = some c) : c < 16 := List.mem_range.mp (List.mem_of_find?_eq_some h)

theorem freeCall_congr {t : State} (h : t.hc.calls = s.hc.calls) : freeCall t = freeCall s := by
  unfold freeCall State.call
  rw [h]

/-- The record of a call as it is placed (R68). -/
def placedCall (s : State) (p : Party) (t : IcmTarget) : IcmRec :=
  { state := t.ringState, caller := some p, target := some t, answerer := none, start := s.frame, timer := some (after s Config.intercomFrames) }

theorem placeCall_eq (t : IcmTarget) (ns : List Nat) (hcurrent : (s.handset p).current = ns.map .line) (hfree : freeCall s = some c) :
    placeCall s p t = enterCall s p c (placedCall s p t) (.icmAlert c p t s.frame) := by
  obtain ⟨-, -, -, hcalls, -⟩ := pushLines_spec (s := s) (p := p) ns
  rw [← pushCurrent_lines s p ns hcurrent] at hcalls
  simp only [placeCall, (freeCall_congr hcalls).trans hfree]
  rfl

/-- The record of a call as a handset answers it (R70). -/
def answeredCall (s : State) (p : Party) (c : Nat) : IcmRec := { s.call c with state := .talking, answerer := some p, timer := none }

theorem answerCall_eq (ns : List Nat) (hcurrent : (s.handset p).current = ns.map .line) :
    answerCall s p c = enterCall s p c (answeredCall s p c) (.icmAnswered c (s.call c).caller p) := by
  obtain ⟨-, -, -, hcalls, -⟩ := pushLines_spec (s := s) (p := p) ns
  rw [← pushCurrent_lines s p ns hcurrent] at hcalls
  have hcall : (pushCurrent s p).call c = s.call c := congrArg (Table.get IcmRec.cold · c) hcalls
  simp only [answerCall, hcall]
  rfl

/-- A handset whose current set is lines has room for them on its stack (R53). -/
theorem hasRoom_lines {ns : List Nat} (hcurrent : (s.handset p).current = ns.map .line) (h : ns.length + (s.handset p).hold.length ≤ 4) :
    hasRoom s p = true := by
  simpa [hasRoom, hcurrent, currentLines_map] using h

theorem not_hasRoom (h : stackFull s p) : hasRoom s p = false := by simpa [hasRoom, stackFull] using h

/-- The target that the parameters name (R67). -/
theorem icmTarget_known {kind index : Nat} (h : (kind = 0 ∧ index < 32) ∨ (kind = 1 ∧ index < 16)) :
    icmTarget kind index = some (if kind = 0 then .position index else .group index) := by
  rcases h with ⟨rfl, h⟩ | ⟨rfl, h⟩ <;> simp [icmTarget, h]

theorem icmTarget_unknown {kind index : Nat} (h : ¬((kind = 0 ∧ index < 32) ∨ (kind = 1 ∧ index < 16))) : icmTarget kind index = none := by
  rw [not_or] at h
  rw [icmTarget, if_neg h.1, if_neg h.2]

/-- A target other than the caller's own position is on exactly if the call would reach a position (R67, R69). -/
theorem targetOn_iff {kind index caller : Nat} (hknown : (kind = 0 ∧ index < 32) ∨ (kind = 1 ∧ index < 16))
    (hown : ¬(kind = 0 ∧ index = caller)) :
    targetOn s caller (if kind = 0 then .position index else .group index) = true ↔ ∃ q, wouldReach s caller kind index q := by
  rcases hknown with ⟨rfl, hindex⟩ | ⟨rfl, hindex⟩
  · have hne : index ≠ caller := fun h => hown ⟨rfl, h⟩
    simp only [if_true, targetOn]
    refine ⟨fun h => ⟨index, hindex, hne, h, .inl ⟨rfl, rfl⟩⟩, ?_⟩
    rintro ⟨q, -, -, h, ⟨-, rfl⟩ | ⟨h01, -⟩⟩
    · exact h
    · cases h01
  · simp only [targetOn, wouldReach, Nat.one_ne_zero, if_false, List.any_eq_true, List.mem_range, Bool.and_eq_true, decide_eq_true_eq,
      false_and, false_or, true_and, hindex, and_assoc]

theorem wouldReach_known {kind index caller q : Nat} (h : wouldReach s caller kind index q) :
    ((kind = 0 ∧ index < 32) ∨ (kind = 1 ∧ index < 16)) ∧ ¬(kind = 0 ∧ index = caller) := by
  obtain ⟨hq, hne, -, ⟨rfl, rfl⟩ | ⟨rfl, hindex, -⟩⟩ := h
  · exact ⟨.inl ⟨rfl, hq⟩, fun h => hne h.2⟩
  · exact ⟨.inr ⟨rfl, hindex⟩, by simp⟩

/-- A call as it is placed reaches the positions that it would reach (R69). -/
theorem reaches_placedCall {kind index q q' : Nat} (h : wouldReach s p.pos kind index q') (hq : q < 32) :
    reaches (s.setCall c (placedCall s p (if kind = 0 then .position index else .group index))) c q = true ↔
      wouldReach s p.pos kind index q := by
  have hpos : ∀ r, (s.setCall c r).position q = s.position q := fun _ => rfl
  obtain ⟨hq', hne', hon', hkind⟩ := h
  rcases hkind with ⟨rfl, rfl⟩ | ⟨rfl, hindex, -⟩
  · simp only [reaches, State.setCall_call, if_true, placedCall, IcmTarget.ringState, decide_eq_true_eq]
    refine ⟨fun h => ?_, ?_⟩
    · subst h
      exact ⟨hq', hne', hon', .inl ⟨rfl, rfl⟩⟩
    · rintro ⟨-, -, -, ⟨-, h⟩ | ⟨h, -⟩⟩
      · exact h.symm
      · cases h
  · simp only [reaches, State.setCall_call, if_true, placedCall, IcmTarget.ringState, Nat.one_ne_zero, if_false, hpos, wouldReach, hq, hindex,
      Option.map_some, Bool.and_eq_true, decide_eq_true_eq, false_and, false_or, true_and, ne_eq, Option.some.injEq]
    tauto

end PlacingCalls

end Sys2Proof.Machine

namespace Sys2Proof.Machine

section CallRequests

variable {s : State} {ws : List Word} {p : Party} {c : Nat}

theorem target_ne_own {kind index own : Nat} (h : ¬(kind = 0 ∧ index = own)) :
    (if kind = 0 then IcmTarget.position index else .group index) ≠ .position own := by
  intro htarget
  split at htarget
  · next h0 => exact h ⟨h0, by simpa using htarget⟩
  · cases htarget

/-- INTERCOM_CALL whose checks pass (R67). -/
theorem ownIntercomCall_placed {kind index q : Nat} (hparty : requestParty ws = p) (hkind : param ws 1 = kind) (hindex : param ws 2 = index)
    (hreach : wouldReach s p.pos kind index q) (hfree : freeCall s = some c) (hpart : s.su.part = .running) (hroom : hasRoom s p = true) :
    ownIntercomCall s ws = (placeCall s p (if kind = 0 then .position index else .group index), .ok) := by
  obtain ⟨hknown, hown⟩ := wouldReach_known hreach
  have hon := (targetOn_iff hknown hown).mpr ⟨q, hreach⟩
  have hother := target_ne_own hown
  simp only [ownIntercomCall, hparty, hkind, hindex, icmTarget_known hknown, hon, hother, hfree, hpart, hroom, Bool.true_eq_false, if_false,
    reduceCtorEq]

/-- INTERCOM_CALL is refused by its first failing check (R67). -/
theorem ownIntercomCall_refused {kind index : Nat} {r : Result} (hp : FromHandset s ws p) (hkind : param ws 1 = kind) (hindex : param ws 2 = index)
    (h : callRefused s p kind index r) : ownIntercomCall s ws = (s, r) := by
  have hparty := hp.party
  rcases h with ⟨rfl, hunknown⟩ | ⟨rfl, hknown, hown, hnone⟩ | ⟨rfl, hknown, rfl, rfl⟩ | ⟨⟨q, hreach⟩, h⟩
  · simp only [ownIntercomCall, hkind, hindex, icmTarget_unknown hunknown]
  · have hoff : targetOn s p.pos (if kind = 0 then .position index else .group index) = false := by
      rw [Bool.eq_false_iff, ne_eq, targetOn_iff hknown hown]
      exact fun ⟨q, hq⟩ => hnone q hq
    simp only [ownIntercomCall, hparty, hkind, hindex, icmTarget_known hknown, hoff, if_true]
  · have hon : targetOn s p.pos (.position p.pos) = true := hp.enabled
    simp only [ownIntercomCall, hparty, hkind, hindex, icmTarget_known hknown, hon, Bool.true_eq_false, if_false, if_true]
  · obtain ⟨hknown, hown⟩ := wouldReach_known hreach
    have hon := (targetOn_iff hknown hown).mpr ⟨q, hreach⟩
    have hother := target_ne_own hown
    have hfree : freeCall s = none ↔ ¬∃ c < 16, (s.call c).state = .free := by simp [freeCall]
    rcases h with ⟨rfl, hbusy⟩ | ⟨rfl, hsome, hpart⟩ | ⟨rfl, hsome, hpart, hfull⟩
    · simp only [ownIntercomCall, hparty, hkind, hindex, icmTarget_known hknown, hon, hother, hfree.mpr hbusy, Bool.true_eq_false, if_false, if_true]
    · have hne : freeCall s ≠ none := fun h => hfree.mp h hsome
      simp only [ownIntercomCall, hparty, hkind, hindex, icmTarget_known hknown, hon, hother, hne, hpart, Bool.true_eq_false, if_false, if_true]
    · have hne : freeCall s ≠ none := fun h => hfree.mp h hsome
      simp only [ownIntercomCall, hparty, hkind, hindex, icmTarget_known hknown, hon, hother, hne, hpart, not_hasRoom hfull, Bool.true_eq_false,
        if_false, if_true]

/-- INTERCOM_ANSWER is refused by its first failing check (R70). -/
theorem ownIntercomAnswer_refused {r : Result} (hparty : requestParty ws = p) (hc : param ws 1 = c) (h : answerRefused s p c (wordOf ws 2) r) :
    ownIntercomAnswer s ws = (s, r) := by
  rcases h with ⟨rfl, hlarge⟩ | ⟨rfl, hsmall, hnot⟩ | ⟨rfl, hsmall, ⟨hreach, hstart⟩, hfull⟩
  · simp only [ownIntercomAnswer, hc, hlarge, if_true]
  · have hcheck : (s.position p.pos).reach.getLsbD c = false ∨ frameLow (s.call c).start ≠ wordOf ws 2 := by
      rw [← Bool.not_eq_true]
      exact not_and_or.mp hnot
    simp only [ownIntercomAnswer, hparty, hc, Nat.not_lt.mpr hsmall, hcheck, if_false, if_true]
  · simp only [ownIntercomAnswer, hparty, hc, Nat.not_lt.mpr hsmall, hreach, hstart, not_hasRoom hfull, Bool.true_eq_false, ne_eq,
      not_true_eq_false, or_self, if_false, if_true]

end CallRequests

/-- Settles O58: each request enters its call (R68, R70), or is refused with no effect (R67, R70). -/
theorem intercomCallsAreMadeAndAnswered : Obligations.IntercomCallsAreMadeAndAnswered := by
  unfold Obligations.IntercomCallsAreMadeAndAnswered
  intro s ws p c hp
  refine ⟨fun ns hcurrent hroom => ⟨fun hready ⟨q, hreach⟩ hfree hpart => ?_, fun hready hc hlt hreach hstart => ?_⟩,
    fun r hready hrefused => ?_, fun r hready hc hrefused => ?_⟩
  · let target := if param ws 1 = 0 then IcmTarget.position (param ws 2) else .group (param ws 2)
    have hown := ownIntercomCall_placed hp.party rfl rfl hreach hfree hpart (hasRoom_lines hcurrent hroom)
    rw [placeCall_eq target ns hcurrent hfree] at hown
    have henter := enterCall_spec (c := c) (placedCall s p target) (.icmAlert c p target s.frame) ns hcurrent
    have hring : target.ringState = if param ws 1 = 0 then .alerting else .paging := by
      simp only [target]
      split <;> rfl
    refine ⟨_, target, request_next ws _ hready .handset ownIntercomCall (commonRefusal_handset hp) hown henter.work.call, rfl, ?_,
      fun d hd => by rw [requestEnd_call, henter.calls d hd], by rw [requestEnd_handset, henter.handset], henter.linesPushed ws _,
      fun r hr => by rw [requestEnd_handset, henter.handsets r hr], fun q' hq' => ?_, fun hns hu => ?_,
      fun m hm => by rw [requestEnd_line, henter.lines m hm], henter.work.call.finished ws _ hready.head s,
      (henter.work.requestEnd ws _ hready.head s).mono (by decide)⟩
    · rw [requestEnd_call, henter.call, placedCall, hring]
      rfl
    · rw [requestEnd_position, henter.reaches_iff (freeCall_lt hfree) hq']
      exact reaches_placedCall hreach hq'
    · subst hns
      exact (enterCall_event _ _ hcurrent hready.head hready.read hready.unread).requestEnd ws _ s
  · have hown : ownIntercomAnswer s ws = (answerCall s p c, .ok) := by
      simp only [ownIntercomAnswer, hp.party, hc, Nat.not_lt.mpr (Nat.le_of_lt_succ hlt), hreach, hstart, hasRoom_lines hcurrent hroom,
        Bool.true_eq_false, ne_eq, not_true_eq_false, or_self, if_false]
    rw [answerCall_eq ns hcurrent] at hown
    have henter := enterCall_spec (c := c) (answeredCall s p c) (.icmAnswered c (s.call c).caller p) ns hcurrent
    refine ⟨_, request_next ws _ hready .handset ownIntercomAnswer (commonRefusal_handset hp) hown henter.work.call,
      by rw [requestEnd_call, henter.call]; rfl, fun d hd => by rw [requestEnd_call, henter.calls d hd],
      by rw [requestEnd_handset, henter.handset], henter.linesPushed ws _, fun r hr => by rw [requestEnd_handset, henter.handsets r hr],
      fun q hq => ?_, fun hns hu => ?_, fun m hm => by rw [requestEnd_line, henter.lines m hm], henter.work.call.finished ws _ hready.head s,
      (henter.work.requestEnd ws _ hready.head s).mono (by decide)⟩
    · rw [requestEnd_position, henter.reaches_iff hlt hq]
      simp [reaches, answeredCall]
    · subst hns
      exact (enterCall_event _ _ hcurrent hready.head hready.read hready.unread).requestEnd ws _ s
  · exact ⟨_, request_unchanged ws _ hready .handset ownIntercomCall (commonRefusal_handset hp) (ownIntercomCall_refused hp rfl rfl hrefused)⟩
  · exact ⟨_, request_unchanged ws _ hready .handset ownIntercomAnswer (commonRefusal_handset hp)
      (ownIntercomAnswer_refused hp.party hc hrefused)⟩

end Sys2Proof.Machine

namespace Sys2Proof.Machine

/-! ## HOLD (R53, R58; O57) -/

section Holding

variable {s : State} {p : Party}

/-- The pushed lines leave the current set (R53). -/
theorem pushLines_current (ns : List Nat) :
    ((pushLines s p ns).handset p).current = (s.handset p).current.filter fun e => decide (∀ n ∈ ns, e ≠ .line n) := by
  induction ns generalizing s with
  | nil => simp [pushLines]
  | cons a ns ih =>
    let x := modHandset s p fun h => { h with current := h.current.filter (· ≠ .line a), hold := h.hold ++ [a] }
    have hstep : pushLines s p (a :: ns) = pushLines (setMode x a p .hold) p ns := rfl
    have hfirst : ((setMode x a p .hold).handset p).current = (s.handset p).current.filter (· ≠ .line a) := by
      rw [State.handset_congr (setMode_hc x a p .hold)]
      simp [x]
    rw [hstep, ih, hfirst, List.filter_filter]
    refine List.filter_congr fun e _ => ?_
    simp [Bool.and_comm]

/-- Pushing the lines of a current set empties it (R53). -/
theorem pushCurrent_empties (ns : List Nat) (hcurrent : (s.handset p).current = ns.map .line) :
    (pushCurrent s p).handset p = { current := [], hold := (s.handset p).hold ++ ns } := by
  obtain ⟨-, -, hhold, -⟩ := pushLines_spec (s := s) (p := p) ns
  have hnone : ((pushLines s p ns).handset p).current = [] := by
    rw [pushLines_current, hcurrent, List.filter_eq_nil_iff]
    intro e he
    obtain ⟨n, hn, rfl⟩ := List.mem_map.mp he
    simpa using hn
  rw [pushCurrent_lines s p ns hcurrent, ← hnone, ← hhold]

theorem requestHandset_lt (ws : List Word) : requestHandset ws < 2 := Nat.mod_lt _ (by decide)

theorem FromHandset.hs_lt {ws : List Word} (h : FromHandset s ws p) : p.hs < 2 := h.party ▸ requestHandset_lt ws

/-- A handset whose current set has changed has its port recomputed (R55). -/
theorem handsetPort_mem_changedPorts {b : State} (hhs : p.hs < 2) (h : (b.handset p).current ≠ (s.handset p).current) :
    handsetPort p ∈ changedPorts b s := by
  have hlisted : p.place ∈ Table.keys b.hc.handsets ∨ p.place ∈ Table.keys s.hc.handsets := by
    by_contra hnot
    rw [not_or] at hnot
    refine h ?_
    have hb : b.handset p = HandsetRec.cold := Table.get_eq_default_of_notMem _ _ _ hnot.1
    have hs : s.handset p = HandsetRec.cold := Table.get_eq_default_of_notMem _ _ _ hnot.2
    rw [hb, hs]
  simp only [changedPorts, List.mem_map, List.mem_filter, decide_eq_true_eq]
  refine ⟨p.place, ⟨?_, h⟩, ?_⟩
  · exact (mem_mergeKeys _ _ _).mpr hlisted
  · simp only [Party.place, handsetPort]
    omega

/-- After completion the port of a handset whose current set has changed has its level (R55, R99). -/
theorem complete_portLevel {b : State} (hhs : p.hs < 2) (h : (b.handset p).current ≠ (s.handset p).current) :
    ((complete b s).port (handsetPort p)).level = portLevel s (handsetPort p) := by
  have hmem := handsetPort_mem_changedPorts hhs h
  have hdims : ∀ (ps : List Nat) (u : State), (ps.foldl refreshDim u).port (handsetPort p) = u.port (handsetPort p) := fun ps =>
    foldl_keeps (fun u => u.port (handsetPort p)) refreshDim (fun _ _ => rfl) ps
  show ((completePorts b s).port (handsetPort p)).level = _
  unfold completePorts
  split
  · next hnone => simp [hnone] at hmem
  · rw [hdims, recomputePorts_level s _ _ hmem]

/-- The port of a handset without a current entry has no level (R99). -/
theorem portLevel_of_empty (hhs : p.hs < 2) (h : (s.handset p).current = []) : portLevel s (handsetPort p) = .none := by
  have hmod : handsetPort p % 4 = p.hs := by simp only [handsetPort]; omega
  have hdiv : handsetPort p / 4 = p.pos := by simp only [handsetPort]; omega
  have hparty : portHandset (handsetPort p) = p := by simp only [portHandset, hmod, hdiv]
  rw [portLevel, hmod, if_pos hhs, handsetLevel, hparty, if_pos h]

/-- What HOLD does with the lines of a current set (R58). -/
structure LinesHeld (s t : State) (p : Party) (ns : List Nat) : Prop where
  work    : Work s t [.events, .alarms, .lc, .hc, .ra]
  handset : t.handset p = { current := [], hold := (s.handset p).hold ++ ns }
  beside  : OnlyHandsets s t [p]
  pushed  : ∀ n ∈ ns, (s.line n).Pushed (t.line n) p
  lines   : ∀ n, n ∉ ns → t.line n = s.line n
  level   : (t.port (handsetPort p)).level = .none

theorem linesHeld_complete (ns : List Nat) (hns : ns ≠ []) (hhs : p.hs < 2) (hcurrent : (s.handset p).current = ns.map .line) :
    LinesHeld s (complete s (pushCurrent s p)) p ns := by
  have hrecord := pushCurrent_empties ns hcurrent
  have hwork := work_pushCurrent_lines s ns hcurrent
  obtain ⟨-, honly, -, -, -, hother, hpushed⟩ := pushLines_spec (s := s) (p := p) ns
  rw [← pushCurrent_lines s p ns hcurrent] at honly hother hpushed
  generalize pushCurrent s p = v at hrecord hwork honly hother hpushed
  have hempty : (v.handset p).current = [] := by rw [hrecord]
  exact {
    work := (hwork.mono (by decide)).step (work_complete v s)
    handset := by rw [complete_handset, hrecord]
    beside := honly.complete
    pushed := fun n hn => by
      rw [complete_line]
      exact hpushed n hn
    lines := fun n hn => by rw [complete_line, hother n hn]
    level := by
      rw [complete_portLevel hhs, portLevel_of_empty hhs hempty]
      rw [hempty, hcurrent]
      simpa using hns }

theorem requestEnd_port (b u : State) (ws : List Word) (r : Result) (q : Nat) : (requestEnd b u ws r).port q = u.port q := by
  rw [requestEnd, settle_port, completeRequest_port, State.port_congr (postMirrors_ra ..)]

theorem hasIntercom_lines (ns : List Nat) : hasIntercom (ns.map .line) = false := by simp [hasIntercom]

/-- HOLD is refused by its first failing check (R58). -/
theorem ownHold_refused {ws : List Word} (hparty : requestParty ws = p)
    (h : (s.handset p).current = [] ∨ hasIntercom (s.handset p).current = true ∨
      4 < (currentLines (s.handset p).current).length + (s.handset p).hold.length) :
    ownHold s ws = (s, if (s.handset p).current = [] then .noCurrent
      else if hasIntercom (s.handset p).current = true then .notHoldable else .stackFull) := by
  simp only [ownHold, hparty]
  by_cases hempty : (s.handset p).current = []
  · simp only [hempty, if_true]
  · by_cases hicm : hasIntercom (s.handset p).current = true
    · simp only [hempty, hicm, if_false, if_true]
    · have hfull : hasRoom s p = false := not_hasRoom ((h.resolve_left hempty).resolve_left hicm)
      simp only [hempty, hicm, hfull, Bool.false_eq_true, if_false, if_true]

end Holding

end Sys2Proof.Machine

namespace Sys2Proof.Machine

/-! ## RETRIEVE, SELECT of a held line, and JOIN (R20, R59 to R61; O57) -/

section TakingBack

variable {s v x : State} {p : Party} {n : Nat}

/-- A line that every participant holds is CONNECTED again when one of them is active (R8). -/
theorem setMode_connects (hs : (v.line n).state = .held) (hp : { party := p, mode := .hold } ∈ (v.line n).participants) :
    ((setMode v n p .active).line n).state = .connected := by
  have hany : ((v.line n).withMode p .active).participants.any (fun e => decide (e.mode = .active)) = true :=
    List.any_eq_true.mpr ⟨{ party := p, mode := .active }, List.mem_map.mpr ⟨_, hp, by simp⟩, by simp⟩
  have hheld : ((v.line n).withMode p .active).state = .held := hs
  rw [setMode_line, if_pos rfl, LineRec.moded, if_neg (by simp [hheld]), if_pos ⟨hheld, hany⟩]
  rfl

/-- A handset's line is active again, and the change of the handset is completed (R60, R61). -/
def takeBack (s v : State) (p : Party) (n : Nat) : State := complete s (setMode v n p .active)

theorem work_takeBack (s v : State) (p : Party) (n : Nat) : Work v (takeBack s v p n) [.events, .alarms, .lc, .hc, .ra] :=
  ((work_setMode_lc v n p .active).mono (by decide)).step (work_complete _ s)

@[simp] theorem takeBack_handset (q : Party) : (takeBack s v p n).handset q = v.handset q := by
  rw [takeBack, complete_handset, State.handset_congr (setMode_hc v n p .active)]

@[simp] theorem takeBack_call (y : Nat) : (takeBack s v p n).call y = v.call y := by
  rw [takeBack, complete_call, State.call_congr (setMode_hc v n p .active)]

@[simp] theorem takeBack_reach (q : Nat) : ((takeBack s v p n).position q).reach = (v.position q).reach := by
  rw [takeBack, complete_reach, State.position_congr (setMode_hc v n p .active)]

theorem takeBack_line {m : Nat} (hm : m ≠ n) : (takeBack s v p n).line m = v.line m := by
  rw [takeBack, complete_line, setMode_line, if_neg hm]

theorem takeBack_connects (hline : v.line n = s.line n) (hs : (s.line n).state = .held)
    (hp : { party := p, mode := .hold } ∈ (s.line n).participants) : ((takeBack s v p n).line n).state = .connected := by
  rw [takeBack, complete_line]
  exact setMode_connects (hline ▸ hs) (hline ▸ hp)

theorem OnlyHandsets.takeBack (h : OnlyHandsets s v [p]) : OnlyHandsets s (takeBack s v p n) [p] := (h.congr (setMode_hc v n p .active)).complete

/-- The handset has the channel that the line needs, and the line is off its stack (R60). -/
def unstacked (s : State) (p : Party) (n : Nat) : State :=
  modHandset (provideChannel s p n) p fun h => { h with hold := h.hold.filter (· ≠ n) }

theorem setCurrent_line (x : State) (p : Party) (e : CurEntry) (m : Nat) : (setCurrent x p e).line m = x.line m := rfl

theorem retrieveEffects_eq (s : State) (p : Party) (n : Nat) :
    retrieveEffects s p n = takeBack s (setCurrent (pushCurrent (unstacked s p n) p) p (.line n)) p n := rfl

theorem unstacked_handset : (unstacked s p n).handset p = { current := (s.handset p).current, hold := (s.handset p).hold.filter (· ≠ n) } := by
  simp [unstacked]

theorem unstacked_line (m : Nat) : (unstacked s p n).line m = s.line m := by simp [unstacked]

theorem onlyHandsets_unstacked : OnlyHandsets s (unstacked s p n) [p] :=
  ((OnlyHandsets.refl s [p]).congr (provideChannel_hc s p n)).trans (onlyHandsets_modHandset _ p _)

theorem work_unstacked (s : State) (p : Party) (n : Nat) : Work s (unstacked s p n) [.events, .alarms, .hc, .ra] :=
  ((work_provideChannel s p n).mono (by decide)).step (work_modHandset _ p _)

/-- What a line taken back by a handset from lines does (R60). -/
theorem retrieveEffects_lines (ns : List Nat) (hcurrent : (s.handset p).current = ns.map .line) (hn : n ∉ ns) :
    Work s (retrieveEffects s p n) [.events, .alarms, .lc, .hc, .ra] ∧ OnlyHandsets s (retrieveEffects s p n) [p] ∧
    (retrieveEffects s p n).handset p = { current := [.line n], hold := (s.handset p).hold.filter (· ≠ n) ++ ns } ∧
    ((s.line n).state = .held → { party := p, mode := .hold } ∈ (s.line n).participants →
      ((retrieveEffects s p n).line n).state = .connected) ∧
    ∀ m, m ≠ n → m ∉ ns → (retrieveEffects s p n).line m = s.line m := by
  have hx := unstacked_handset (s := s) (p := p) (n := n)
  have hwork := work_unstacked s p n
  have hline := unstacked_line (s := s) (p := p) (n := n)
  have hbeside := onlyHandsets_unstacked (s := s) (p := p) (n := n)
  rw [retrieveEffects_eq]
  generalize unstacked s p n = x at hx hwork hline hbeside
  have hcurrent' : (x.handset p).current = ns.map .line := by rw [hx, hcurrent]
  have hpush := work_pushCurrent_lines x ns hcurrent'
  obtain ⟨-, honly, hhold, -, -, hother, -⟩ := pushLines_spec (s := x) (p := p) ns
  rw [← pushCurrent_lines x p ns hcurrent'] at honly hhold hother
  generalize pushCurrent x p = y at hpush honly hhold hother
  have hv : ∀ m, m ∉ ns → (setCurrent y p (.line n)).line m = s.line m := fun m hm => (hother m hm).trans (hline m)
  refine ⟨?_, ((hbeside.trans honly).trans (onlyHandsets_setCurrent y p _)).takeBack, ?_, takeBack_connects (hv n hn),
    fun m hm hns => (takeBack_line hm).trans (hv m hns)⟩
  · exact (((hwork.mono (by decide)).step hpush).step (work_modHandset y p _)).step (work_takeBack s _ p n)
  · rw [takeBack_handset, setCurrent_handset]
    simp only [hhold, hx]

/-- A call left, seen from a state with the same calls and the same handsets elsewhere. -/
theorem CallLeft.from {t : State} {c : Nat} (h : CallLeft x t c p) (hbeside : OnlyHandsets s x [p]) : CallLeft s t c p := by
  have hcall : ∀ y, x.call y = s.call y := fun y => congrArg (Table.get IcmRec.cold · y) hbeside.calls
  have hhandset : ∀ q : Party, q.place ≠ p.place → x.handset q = s.handset q := fun q hq => hbeside.handsets q (by simpa using hq)
  exact {
    record := h.record
    calls := fun y hy => (h.calls y hy).trans (hcall y)
    parties := fun q hq hparty => by
      rw [h.parties q hq (by rwa [hcall]), hhandset q hq]
    handsets := fun q hq hparty => by
      rw [h.handsets q hq (by rwa [hcall]), hhandset q hq]
    reach := h.reach }

theorem CallLeft.requestEnd {u : State} {c : Nat} (h : CallLeft s u c p) (b : State) (ws : List Word) (r : Result) :
    CallLeft s (requestEnd b u ws r) c p where
  record := by rw [requestEnd_call, h.record]
  calls y hy := by rw [requestEnd_call, h.calls y hy]
  parties q hq hparty := by rw [requestEnd_handset, h.parties q hq hparty]
  handsets q hq hparty := by rw [requestEnd_handset, h.handsets q hq hparty]
  reach q hq := by rw [requestEnd_position, h.reach q hq]

/-- What a line taken back by a handset from an intercom call does (R60, R72). -/
theorem retrieveEffects_intercom {c : Nat} (hcurrent : (s.handset p).current = [.intercom c]) :
    Work s (retrieveEffects s p n) [.events, .alarms, .lc, .hc, .ra] ∧ CallLeft s (retrieveEffects s p n) c p ∧
    (retrieveEffects s p n).handset p = { current := [.line n], hold := (s.handset p).hold.filter (· ≠ n) } ∧
    ((s.line n).state = .held → { party := p, mode := .hold } ∈ (s.line n).participants →
      ((retrieveEffects s p n).line n).state = .connected) ∧
    (∀ m, m ≠ n → (retrieveEffects s p n).line m = s.line m) ∧
    EventsKept (endIntercom (unstacked s p n) c (.left p)) (retrieveEffects s p n) := by
  have hx := unstacked_handset (s := s) (p := p) (n := n)
  have hwork := work_unstacked s p n
  have hline := unstacked_line (s := s) (p := p) (n := n)
  have hbeside := onlyHandsets_unstacked (s := s) (p := p) (n := n)
  rw [retrieveEffects_eq]
  generalize unstacked s p n = x at hx hwork hline hbeside
  have hpush : pushCurrent x p = endIntercom x c (.left p) := by
    simp only [pushCurrent, hx, hcurrent, List.foldl_cons, List.foldl_nil, pushEntry]
  obtain ⟨-, hlc, -, -, hparty, -⟩ := endIntercom_spec x c (.left p)
  have hhold : ((endIntercom x c (.left p)).handset p).hold = (s.handset p).hold.filter (· ≠ n) := by
    rw [hparty]
    split <;> simp [HandsetRec.hungUp, hx]
  have hv : ∀ m, (setCurrent (endIntercom x c (.left p)) p (.line n)).line m = s.line m := fun m => by
    rw [setCurrent_line, State.line_congr hlc m, hline]
  have hafter : Work (endIntercom x c (.left p)) (takeBack s (setCurrent (endIntercom x c (.left p)) p (.line n)) p n)
      [.events, .alarms, .lc, .hc, .ra] := ((work_modHandset _ p _).mono (by decide)).step (work_takeBack s _ p n)
  have hleft : CallLeft x (takeBack s (setCurrent (endIntercom x c (.left p)) p (.line n)) p n) c p := callLeft_of
    (fun y => by rw [takeBack_call, setCurrent_call])
    (fun q hq => by rw [takeBack_handset, (onlyHandsets_setCurrent _ p _).handsets q (by simpa using hq)])
    fun q => by rw [takeBack_reach, setCurrent_position]
  rw [hpush]
  refine ⟨?_, hleft.from hbeside, ?_, takeBack_connects (hv n), fun m hm => (takeBack_line hm).trans (hv m), hafter.events⟩
  · exact ((hwork.mono (by decide)).step (work_endIntercom x c _)).trans hafter
  · rw [takeBack_handset, setCurrent_handset]
    simp only [hhold]

/-- The end of the call is the first event where no channel is needed (R72). -/
theorem retrieveEffects_event {c : Nat} (hcurrent : (s.handset p).current = [.intercom c]) (hchannel : needsChannel s p n = false)
    (he : s.eu.evtHead < 256) (hr : s.eu.evtRead < 256) (hu : s.eu.unread ≤ 254) :
    UnreadEvent (retrieveEffects s p n) s.eu.evtHead (.icmEnd c (.left p) (s.call c).state) s.frame := by
  obtain ⟨-, -, -, -, -, hkept⟩ := retrieveEffects_intercom (n := n) hcurrent
  have hx : unstacked s p n = modHandset s p fun h => { h with hold := h.hold.filter (· ≠ n) } := by
    simp [unstacked, provideChannel, hchannel]
  refine hkept _ _ _ ?_
  rw [hx]
  exact endIntercom_event _ c (.left p) he hr hu

/-- The effects of JOIN: the held line beside the current one (R61). -/
theorem joinTop_spec {m : Nat} (hcurrent : (s.handset p).current = [.line m]) :
    Work s (joinTop s p n) [.events, .alarms, .lc, .hc, .ra] ∧ OnlyHandsets s (joinTop s p n) [p] ∧
    (joinTop s p n).handset p = { current := [.line m, .line n], hold := (s.handset p).hold.filter (· ≠ n) } ∧
    ((s.line n).state = .held → { party := p, mode := .hold } ∈ (s.line n).participants → ((joinTop s p n).line n).state = .connected) ∧
    ∀ k, k ≠ n → (joinTop s p n).line k = s.line k := by
  let v := modHandset (provideChannel s p n) p fun h => { current := h.current ++ [.line n], hold := h.hold.filter (· ≠ n) }
  have hjoin : joinTop s p n = takeBack s v p n := rfl
  have hv : ∀ k, v.line k = s.line k := fun k => by simp [v]
  have honly : OnlyHandsets s v [p] := ((OnlyHandsets.refl s [p]).congr (provideChannel_hc s p n)).trans (onlyHandsets_modHandset _ p _)
  rw [hjoin]
  refine ⟨?_, honly.takeBack, ?_, takeBack_connects (hv n), fun k hk => (takeBack_line hk).trans (hv k)⟩
  · exact (((work_provideChannel s p n).mono (by decide)).step (work_modHandset _ p _)).step (work_takeBack s v p n)
  · rw [takeBack_handset]
    simp [v, hcurrent]

end TakingBack

section RetrieveRequests

variable {s : State} {ws : List Word} {p : Party} {n : Nat}

/-- RETRIEVE of a line, or SELECT of a key that names a line in service. -/
def namesHeld (s : State) (ws : List Word) (p : Party) (n : Nat) (i : Instr) : Prop :=
  (i = .retrieve ∧ Ready s 0x32 ws 1 ∧ param ws 1 = n ∧ n < s.su.lineCount) ∨
    (i = .select ∧ Ready s 0x10 ws 1 ∧ param ws 1 ≤ 127 ∧ (s.key (128 * p.pos + param ws 1)).lineOf = some n ∧ inServiceLine (s.line n))

/-- A held line is taken back where the stack keeps room and a channel can be had (R59). -/
theorem retrieveLine_takes (hheld : n ∈ (s.handset p).hold)
    (hroom : (s.handset p).hold.length - 1 + (currentLines (s.handset p).current).length ≤ 4) (hrecorder : noRecorder s p n = false) :
    retrieveLine s p n = (retrieveEffects s p n, .ok) := by
  simp [retrieveLine, hheld, Nat.not_lt.mpr hroom, hrecorder]

/-- SELECT of a line that the handset holds retrieves it (R20). -/
theorem selectLine_of_held (hservice : inServiceLine (s.line n)) (hcurrent : CurEntry.line n ∉ (s.handset p).current)
    (hheld : n ∈ (s.handset p).hold) : selectLine s p n = retrieveLine s p n := by
  simp [selectLine, inServiceLine_iff.mp hservice, hcurrent, hheld]

/-- RETRIEVE, and SELECT of a held line, end as the taking back of the line does. -/
theorem retrieve_exec {i : Instr} (hp : FromHandset s ws p) (hi : namesHeld s ws p n i) (hheld : n ∈ (s.handset p).hold)
    (hcurrent : CurEntry.line n ∉ (s.handset p).current)
    (hroom : (s.handset p).hold.length - 1 + (currentLines (s.handset p).current).length ≤ 4) (hrecorder : noRecorder s p n = false)
    (hw : CallWork s (retrieveEffects s p n)) :
    exec i s = .next (requestEnd s (retrieveEffects s p n) ws .ok) ∧ s.eu.evtHead < 256 ∧ s.eu.evtRead < 256 ∧ s.eu.unread ≤ 254 := by
  have htakes := retrieveLine_takes hheld hroom hrecorder
  rcases hi with ⟨rfl, hready, hparam, hlt⟩ | ⟨rfl, hready, hkey, hline, hservice⟩
  · have hown : ownRetrieve s ws = (retrieveEffects s p n, .ok) := by
      simp only [ownRetrieve, hp.party, hparam, if_neg (Nat.not_le.mpr hlt), htakes]
    exact ⟨request_next ws _ hready .handset ownRetrieve (commonRefusal_handset hp) hown hw, hready.head, hready.read, hready.unread⟩
  · exact select_exec hp (.inr ⟨rfl, hready, hkey, hline⟩) ((selectLine_of_held hservice hcurrent hheld).trans htakes) hw

/-- JOIN of the top held line where a channel can be had (R61). -/
theorem ownJoin_takes {m : Nat} (hparty : requestParty ws = p) (hcurrent : (s.handset p).current = [.line m])
    (htop : (s.handset p).hold.getLast? = some n) (hrecorder : noRecorder s p n = false) : ownJoin s ws = (joinTop s p n, .ok) := by
  simp [ownJoin, hparty, hcurrent, htop, hrecorder]

/-- RETRIEVE is refused by its first failing check (R59). -/
theorem ownRetrieve_refused {r : Result} (hparty : requestParty ws = p)
    (h : (r = .badParam ∧ s.su.lineCount ≤ param ws 1) ∨
      (r = .notHeld ∧ param ws 1 < s.su.lineCount ∧ param ws 1 ∉ (s.handset p).hold) ∨
      (r = .stackFull ∧ param ws 1 < s.su.lineCount ∧ param ws 1 ∈ (s.handset p).hold ∧
        4 < (s.handset p).hold.length - 1 + (currentLines (s.handset p).current).length)) : ownRetrieve s ws = (s, r) := by
  rcases h with ⟨rfl, hlarge⟩ | ⟨rfl, hlt, hnot⟩ | ⟨rfl, hlt, hheld, hfull⟩
  · simp [ownRetrieve, hlarge]
  · simp [ownRetrieve, hparty, Nat.not_le.mpr hlt, retrieveLine, hnot]
  · simp [ownRetrieve, hparty, Nat.not_le.mpr hlt, retrieveLine, hheld, hfull]

/-- JOIN is refused by its first failing check (R61). -/
theorem ownJoin_refused {r : Result} (hparty : requestParty ws = p)
    (h : (r = .noCurrent ∧ (s.handset p).current = []) ∨
      (r = .badParam ∧ ((∃ x, (s.handset p).current = [.intercom x]) ∨ 1 < (s.handset p).current.length)) ∨
      (r = .notHeld ∧ (∃ m, (s.handset p).current = [.line m]) ∧ (s.handset p).hold = [])) : ownJoin s ws = (s, r) := by
  simp only [ownJoin, hparty]
  rcases h with ⟨rfl, hempty⟩ | ⟨rfl, ⟨x, hicm⟩ | htwo⟩ | ⟨rfl, ⟨m, hone⟩, hnone⟩
  · simp only [hempty]
  · simp only [hicm]
  · split
    · next h => simp [h] at htwo
    · next h => simp [h] at htwo
    · rfl
  · simp [hone, hnone]

end RetrieveRequests

/-- Settles O57: HOLD pushes (R58), RETRIEVE, SELECT and JOIN take back (R20, R60, R61), and each refusal leaves the part (R58, R59, R61). -/
theorem holdStackRequestsMoveLines : Obligations.HoldStackRequestsMoveLines := by
  unfold Obligations.HoldStackRequestsMoveLines
  refine ⟨fun s ws p hready hp => ⟨fun ns hns hcurrent hroom => ?_, fun hrefused => ?_⟩,
    fun s ws p n hp hrecorder => ⟨fun i ns hi hheld hn hcurrent hroom => ?_, fun i x hi hheld hcurrent hroom => ?_,
      fun m hready hcurrent htop => ?_⟩, fun s ws p i r hp hi => ?_⟩
  · have hne : (s.handset p).current ≠ [] := by simpa [hcurrent] using hns
    have hicm : hasIntercom (s.handset p).current = false := by rw [hcurrent, hasIntercom_lines]
    have hown : ownHold s ws = (complete s (pushCurrent s p), .ok) := by
      simp only [ownHold, hp.party, hne, hicm, hasRoom_lines hcurrent hroom, Bool.false_eq_true, Bool.true_eq_false, if_false]
    obtain ⟨hwork, hhandset, hbeside, hpushed, hother, hlevel⟩ := linesHeld_complete ns hns hp.hs_lt hcurrent
    refine ⟨_, request_next ws _ hready .handset ownHold (commonRefusal_handset hp) hown hwork.call, by rw [requestEnd_handset, hhandset],
      hbeside.congr (requestEnd_hc ..), fun n => ?_, fun n hn hs hk => ?_, fun n hn => by rw [requestEnd_line, hother n hn],
      by rw [requestEnd_port, hlevel], hwork.call.finished ws _ hready.head s, (hwork.requestEnd ws _ hready.head s).mono (by decide)⟩
    · rw [requestEnd_line]
      split
      · next hn => exact (hpushed n hn).mode
      · next hn => rw [hother n hn]
    · rw [requestEnd_line]
      exact (hpushed n hn).held (.inl ⟨hs, hk⟩)
  · exact ⟨_, request_unchanged ws _ hready .handset ownHold (commonRefusal_handset hp) (ownHold_refused hp.party hrefused)⟩
  · obtain ⟨hwork, hbeside, hhandset, hconnects, hother⟩ := retrieveEffects_lines ns hcurrent hn
    obtain ⟨hexec, he, -, -⟩ := retrieve_exec hp hi hheld (by simpa [hcurrent] using hn) (by rwa [hcurrent, currentLines_map]) hrecorder
      hwork.call
    exact ⟨_, hexec, hbeside.congr (requestEnd_hc ..), by rw [requestEnd_handset, hhandset],
      fun hs hmem => by rw [requestEnd_line, hconnects hs hmem], fun m hm hns => by rw [requestEnd_line, hother m hm hns],
      hwork.call.finished ws _ he s, (hwork.requestEnd ws _ he s).mono (by decide)⟩
  · obtain ⟨hwork, hleft, hhandset, hconnects, hother, -⟩ := retrieveEffects_intercom (n := n) hcurrent
    have hroom' : (s.handset p).hold.length - 1 + (currentLines (s.handset p).current).length ≤ 4 := by
      rw [hcurrent]
      exact Nat.sub_le_of_le_add hroom
    obtain ⟨hexec, he, hr, hu⟩ := retrieve_exec hp hi hheld (by simp [hcurrent]) hroom' hrecorder hwork.call
    exact ⟨_, hexec, by rw [requestEnd_handset, hhandset], hleft.requestEnd s ws _,
      fun hchannel => (retrieveEffects_event hcurrent hchannel he hr hu).requestEnd ws _ s,
      fun hs hmem => by rw [requestEnd_line, hconnects hs hmem], fun m hm => by rw [requestEnd_line, hother m hm],
      hwork.call.finished ws _ he s, (hwork.requestEnd ws _ he s).mono (by decide)⟩
  · obtain ⟨hwork, hbeside, hhandset, hconnects, hother⟩ := joinTop_spec (n := n) hcurrent
    have hown := ownJoin_takes hp.party hcurrent htop hrecorder
    exact ⟨_, request_next ws _ hready .handset ownJoin (commonRefusal_handset hp) hown hwork.call, hbeside.congr (requestEnd_hc ..),
      by rw [requestEnd_handset, hhandset], fun hs hmem => by rw [requestEnd_line, hconnects hs hmem],
      fun k hk => by rw [requestEnd_line, hother k hk], hwork.call.finished ws _ hready.head s,
      (hwork.requestEnd ws _ hready.head s).mono (by decide)⟩
  · rcases hi with ⟨rfl, hready, h⟩ | ⟨rfl, hready, h⟩
    · exact ⟨_, request_unchanged ws _ hready .handset ownRetrieve (commonRefusal_handset hp) (ownRetrieve_refused hp.party h)⟩
    · exact ⟨_, request_unchanged ws _ hready .handset ownJoin (commonRefusal_handset hp) (ownJoin_refused hp.party h)⟩

end Sys2Proof.Machine

namespace Sys2Proof.Table

/-- A table whose records all become what a function makes of them, the default included. -/
theorem get_mapVals_eq {α β : Type} [DecidableEq β] (a : α) (d : β) (f : Nat → α → β) (t : Table α) (h : ∀ i, f i a = d) (i : Nat) :
    get d (mapVals d f t) i = f i (get a t i) :=
  get_mapVals a d f t (fun i x y => y = f i x) (fun i => (h i).symm) (fun _ _ => rfl) i

/-- A table of which only the numbers with a property are kept. -/
theorem get_filterKeys {α : Type} (d : α) (t : Table α) (keep : Nat → Bool) (i : Nat) :
    get d (t.filter fun e => keep e.1) i = if keep i = true then get d t i else d := by
  induction t with
  | nil => simp [get]
  | cons e t ih =>
    obtain ⟨k, v⟩ := e
    by_cases hk : i = k
    · subst hk
      by_cases hkeep : keep i = true
      · simp [hkeep, get]
      · simpa [hkeep, get] using ih
    · by_cases hkeep : keep k = true <;> simp [hkeep, get, hk, ih]

end Sys2Proof.Table

namespace Sys2Proof.Machine

/-! ## The descriptor of a load (R52, R66, R112, R115, R159, R165, R172 to R174, R178; O12) -/

section Adopting

variable {s : State} {ws : List Word}

/-- The descriptor check of a load that has read the descriptor's words (R172, R173). -/
theorem descriptorCheck_exec {u : State} (hload : s.su.load = some .descriptor) (hw : waits s .load = false) (hu : checkDescriptor s = u)
    (hheld : u.bi.held = []) : exec .descriptorCheck s = .next (settleQuietly u) := by
  have hexec : exec .descriptorCheck s = execDescriptorCheck s := rfl
  have hreads : finishReads s .load = s := by simp [finishReads, hw]
  rw [hexec, execDescriptorCheck, if_pos hload, hreads, hu, doneQuietly_of_nothingHeld u hheld]

/-- The part with its written copy of the start word as the descriptor has it. -/
def withStartWord (s : State) (w : Word) : State := { s with bi := { s.bi with startCopy := w } }

/-- The writes of an adopted descriptor: the processor's indices are 0 (R173, R177). -/
def indexWrites (restart : Bool) : List (Nat × Word) := [(0x100, 0#32), (0x101, 0#32)] ++ if restart then [] else [(0x102, 0#32)]

/-- The part once a descriptor has been adopted and the tables are ready to be read (R172, R173). -/
def adopted (s : State) (ws : List Word) : State := startTables (adoptDescriptor (withStartWord s (wordOf ws 0)) ws)

theorem checkDescriptor_adopted (hws : ws = (List.range 64).map (partRead s)) (h : descriptorFailure ws = none) :
    checkDescriptor s = adopted s ws := by
  subst hws
  simp only [checkDescriptor, h]
  rfl

/-- The configuration that an adopted descriptor names (R172). -/
def adoptedSU (su : SU) (ws : List Word) : SU :=
  { su with
    lineCount := field (wordOf ws 1) 15 0, positionCount := field (wordOf ws 2) 15 0, bridgeCount := field (wordOf ws 3) 15 0
    recorderCount := field (wordOf ws 4) 15 0, ringTimeout := max 10 (min 255 (field (wordOf ws 5) 15 0))
    load := some (.entries (.line 0)), wordsRead := 0 }

theorem adopted_su : (adopted s ws).su = adoptedSU s.su ws := rfl

theorem adopted_line (n : Nat) : (adopted s ws).line n = if n < (adoptedSU s.su ws).lineCount then
    { LineRec.cold with applied := (s.line n).applied, configRejected := (s.line n).configRejected } else LineRec.cold :=
  Table.get_mapVals_eq LineRec.cold LineRec.cold (keepLine (adopted s ws)) s.lc.lines (fun i => by unfold keepLine; split <;> rfl) n

theorem adopted_position (p : Nat) : (adopted s ws).position p = if p < (adoptedSU s.su ws).positionCount then
    { PosRec.cold with applied := (s.position p).applied, configRejected := (s.position p).configRejected } else PosRec.cold :=
  Table.get_mapVals_eq PosRec.cold PosRec.cold (keepPosition (adopted s ws)) s.hc.positions (fun i => by unfold keepPosition; split <;> rfl) p

theorem adopted_bridge (b : Nat) : (adopted s ws).bridge b = if b < (adoptedSU s.su ws).bridgeCount then
    { BridgeRec.cold with applied := (s.bridge b).applied, configRejected := (s.bridge b).configRejected } else BridgeRec.cold :=
  Table.get_mapVals_eq BridgeRec.cold BridgeRec.cold (keepBridge (adopted s ws)) s.mx.bridges (fun i => by unfold keepBridge; split <;> rfl) b

theorem adopted_key (k : Nat) : (adopted s ws).key k = if k < 128 * (adoptedSU s.su ws).positionCount then s.key k else .empty := by
  have h : (adopted s ws).key k = if decide (k < 128 * (adoptedSU s.su ws).positionCount) = true then s.key k else .empty :=
    Table.get_filterKeys KeyVal.empty s.lc.keys (fun i => decide (i < 128 * (adoptedSU s.su ws).positionCount)) k
  rw [h]
  simp only [decide_eq_true_eq]

theorem adopted_appEntries (n : Nat) :
    (adopted s ws).appEntries n = (s.appEntries n).filter fun e => decide (e.pos < (adoptedSU s.su ws).positionCount) :=
  Table.get_mapVals_eq [] [] (fun _ es => es.filter fun e : AppEntry => decide (e.pos < (adoptedSU s.su ws).positionCount)) s.lc.appIndex
    (fun _ => rfl) n

theorem adopted_circuit (c : Nat) : (adopted s ws).circuit c =
    if (s.circuit c).state = .idle then { s.circuit c with state := .uninstalled } else s.circuit c :=
  Table.get_mapVals_eq CircuitRec.cold CircuitRec.cold (fun _ r => if r.state = .idle then { r with state := .uninstalled } else r)
    s.cc.circuits (fun _ => rfl) c

theorem adopted_copyAt (o : Nat) : copyAt (adopted s ws) o = if isSingleWord o = true then copyAt s o else 0#32 :=
  Table.get_filterKeys 0#32 s.bi.copies isSingleWord o

theorem adopted_writes : writesOf (adopted s ws) = writesOf s ++ indexWrites s.su.restartMark := postAll_writes _ _

/-- The processor's indices read 0; after a restart FLT_READ keeps its value (R173, R177). -/
theorem adopted_indexWords : latestWord (adopted s ws) 0x100 = 0#32 ∧ latestWord (adopted s ws) 0x101 = 0#32 ∧
    (s.su.restartMark = false → latestWord (adopted s ws) 0x102 = 0#32) := by
  have hread : ∀ off, youngest (indexWrites s.su.restartMark) off = some 0#32 → latestWord (adopted s ws) off = 0#32 := fun off h => by
    rw [latestWord_eq, adopted_writes, youngest_append, h]
    rfl
  refine ⟨hread _ ?_, hread _ ?_, fun h => hread _ ?_⟩
  · cases s.su.restartMark <;> decide
  · cases s.su.restartMark <;> decide
  · rw [h]
    decide

theorem leaves_adopted : Leaves s (adopted s ws) [.words, .bus, .ring, .take, .events, .alarms, .lc, .cc, .hc, .mx, .ra, .um, .meter, .su] := by
  refine ⟨rfl, fun b hb => ?_⟩
  cases b <;> simp at hb <;> simp only [Same]
  case link => exact fun _ => ⟨rfl, rfl⟩
  all_goals rfl

/-- No context is left at the end of the command either (R115). -/
theorem settleQuietly_noContexts (h : s.um.contexts = []) : (settleQuietly s).um.contexts = [] := by
  have hmeter : Same s (settleQuietly s) .meter := (leaves_settleQuietly s).2 .meter (by simp)
  exact hmeter.1 h

/-- An engine that is idle stays as it is at the end of a command (R146). -/
theorem settled_engine {head tail : Nat} (s : State) (h : s.re = { head := head, tail := tail, take := .idle }) :
    (settleQuietly s).re = { head := head, tail := tail, take := .idle } := by
  have htake : (settleQuietly s).re.take = .idle := by rw [settleQuietly_take s (by simp [h]), h]
  have hhead : (settleQuietly s).re.head = head := by rw [settleQuietly_re_head, h]
  have htail : (settleQuietly s).re.tail = tail := by rw [settleQuietly_re_tail, h]
  generalize (settleQuietly s).re = r at htake hhead htail
  cases r
  simp_all

end Adopting

section Failing

variable {s : State} {ws : List Word} {subject : Nat} {table : Bool}

/-- The fault of a descriptor that fails (R164, R172). -/
def loadFault (subject : Nat) (table : Bool) : FaultReport := { code := .configLoad, ext := false, table := table, subject := subject }

/-- The part in WAITING, a load over, with the mask FAULT alone (R159, R172). -/
def loadOver (s : State) : State :=
  { s with su := { s.su with part := .waiting, load := none }, eu := { s.eu with mask := 0b00100#5 } }

theorem leaves_loadOver (s : State) : Leaves s (loadOver s) [.alarms, .su] := by
  refine ⟨rfl, fun b hb => ?_⟩
  cases b <;> simp at hb <;> simp only [Same]
  case words => exact fun _ _ => rfl
  all_goals simp [loadOver]

theorem leaves_withStartWord (s : State) (w : Word) : Leaves s (withStartWord s w) [.bus] := by
  refine ⟨rfl, fun b hb => ?_⟩
  cases b <;> simp at hb <;> simp only [Same]
  case words => exact fun _ _ => rfl
  all_goals simp [withStartWord]

theorem checkDescriptor_failed (hws : ws = (List.range 64).map (partRead s)) (h : descriptorFailure ws = some (subject, table))
    (hpart : s.su.part = .loading) (hfaults : s.eu.unreadFaults < 15) :
    checkDescriptor s = loadOver (logFault (withStartWord s (wordOf ws 0)) (loadFault subject table) false) := by
  let v := withStartWord s (wordOf ws 0)
  have hraise : raiseFault v (loadFault subject table) = logFault v (loadFault subject table) false := by
    have hroom := raiseFault_room v (loadFault subject table) (by rw [show v.su.part = .loading from hpart]; decide) (Nat.le_of_lt hfaults)
    rwa [show decide (v.eu.unreadFaults = 15) = false from decide_eq_false (Nat.ne_of_lt hfaults)] at hroom
  have hcheck : checkDescriptor s = failLoad v subject table := by
    subst hws
    simp only [checkDescriptor, h]
    rfl
  have hfail : failLoad v subject table = if (logFault v (loadFault subject table) false).su.part = .loading then
      loadOver (logFault v (loadFault subject table) false) else logFault v (loadFault subject table) false := by
    rw [← hraise]
    rfl
  have hloading : (logFault v (loadFault subject table) false).su.part = .loading := by
    rw [logFault_su]
    exact hpart
  rw [hcheck, hfail, if_pos hloading]

/-- A fault logged, seen between states with the same indices before it and the same words outside the mirrors after it. -/
theorem Logged.congr {s' t u : State} {f : FaultReport} {d : Bool} (h : Logged s t f d) (heu : s'.eu = s.eu) (hframe : s'.frame = s.frame)
    (hhead : s.eu.evtHead < 256) (ht : (u.eu.fltHead, u.eu.fault, u.eu.evtHead) = (t.eu.fltHead, t.eu.fault, t.eu.evtHead))
    (hwords : ∀ off, ¬IsMirror off → latestWord u off = latestWord t off) : Logged s' u f d := by
  simp only [Prod.mk.injEq] at ht
  obtain ⟨hfltHead, hfault, hevtHead⟩ := ht
  obtain ⟨head, flag, record, hmoved, hevent⟩ := h
  refine ⟨by rw [hfltHead, heu, head], by rw [hfault, heu, flag], fun i hi => ?_, by rw [hevtHead, heu, hmoved], fun i hi => ?_⟩
  · rw [hwords, heu, hframe, record i hi]
    simp only [IsMirror, faultOffset]
    omega
  · rw [hwords, heu, hframe, hevent i hi]
    rw [heu]
    simp only [IsMirror, eventOffset]
    omega

/-- The state in which the check of a descriptor that fails ends (R159, R165, R172). -/
def loadFailed (s : State) (ws : List Word) (subject : Nat) (table : Bool) : State :=
  settleQuietly (loadOver (logFault (withStartWord s (wordOf ws 0)) (loadFault subject table) false))

theorem loadFailed_logged (hhead : s.eu.evtHead < 256) (hroom : s.eu.unread ≤ 254) :
    Logged s (loadFailed s ws subject table) (loadFault subject table) false ∧
    Leaves s (loadFailed s ws subject table) [.bus, .events, .alarms, .su] := by
  let v := withStartWord s (wordOf ws 0)
  obtain ⟨hlogged, hleaves⟩ := logFault_logged v (loadFault subject table) false hhead hroom v
  refine ⟨hlogged.congr rfl rfl hhead ?_ fun off hoff => ?_, ?_⟩
  · simp only [loadFailed, settleQuietly_eu, settle_eu]
    rfl
  · rw [loadFailed, settleQuietly_latestWord, settle_latestWord _ _ _ hoff]
    rfl
  · exact ((((leaves_withStartWord s _).trans hleaves).trans (leaves_loadOver _)).trans (leaves_settleQuietly _)).mono (by decide)

end Failing

/-- Settles O12: a descriptor that passes is adopted block by block (R172, R173); one that fails is its fault, and ends the load (R165, R172). -/
theorem descriptorIsChecked : Obligations.DescriptorIsChecked := by
  unfold Obligations.DescriptorIsChecked
  intro s ws hload hw hheld hws
  refine ⟨fun hpass => ?_, fun subject table hfail hpart hfaults hroom hhead => ?_⟩
  · have hexec := descriptorCheck_exec hload hw (checkDescriptor_adopted hws hpass) hheld
    have hleaves := (leaves_adopted (s := s) (ws := ws)).trans (leaves_settleQuietly (adopted s ws))
    obtain ⟨hreq, hevt, hflt⟩ := adopted_indexWords (s := s) (ws := ws)
    have hsu : (settleQuietly (adopted s ws)).su = adoptedSU s.su ws := settleQuietly_su _
    refine ⟨_, hexec, hsu, settleQuietly_um_enable _, settleQuietly_um_format _, settleQuietly_noContexts rfl, settleQuietly_um_updates _,
      settled_engine _ rfl, ?_, fun n => ?_, fun p => ?_, fun b => ?_, fun k => ?_, fun n => ?_, congrArg LC.alerts (settleQuietly_lc _),
      congrArg HC.handsets (settleQuietly_hc _), congrArg HC.calls (settleQuietly_hc _), settleQuietly_ra _,
      congrArg MX.speakers (settleQuietly_mx _), ?_, settleQuietly_cc_paths _, fun c => ?_, ?_, ?_, fun hmark => ?_,
      settleQuietly_bi_startCopy _, fun o => ?_, ?_, hleaves.mono (by decide)⟩
    · rw [settleQuietly_eu]
      rfl
    · rw [settleQuietly_line, adopted_line, hsu]
    · rw [settleQuietly_position, adopted_position, hsu]
    · rw [settleQuietly_bridge, adopted_bridge, hsu]
    · rw [settleQuietly_key, adopted_key, hsu]
    · rw [settleQuietly_appEntries, adopted_appEntries, hsu]
    · rw [settleQuietly_mx]
      rfl
    · rw [settleQuietly_circuit, adopted_circuit]
    · rw [settleQuietly_latestWord, hreq]
    · rw [settleQuietly_latestWord, hevt]
    · rw [settleQuietly_latestWord, hflt hmark]
    · rw [copyAt, settleQuietly_bi_copies]
      exact adopted_copyAt o
    · rw [settleQuietly_bi_base, settleQuietly_bi_latch, settleQuietly_bi_held, settleQuietly_bi_readData]
      rfl
  · have hexec := descriptorCheck_exec hload hw (checkDescriptor_failed hws hfail hpart hfaults) (by simpa [loadOver, withStartWord] using hheld)
    obtain ⟨hlogged, hleaves⟩ := loadFailed_logged (ws := ws) (subject := subject) (table := table) hhead hroom
    refine ⟨_, hexec, ?_, ?_, hlogged, ?_, ?_, hleaves⟩
    · simp [loadOver, withStartWord]
    · simp [loadOver]
    · simp [loadOver, withStartWord]
    · simp [loadOver, withStartWord]

end Sys2Proof.Machine

namespace Sys2Proof.Machine

/-! ## Speaker requests (R93 to R96; O49) -/

/-- A change of the mixer alone. -/
theorem leaves_mixer {s t : State} (h : t = { s with mx := t.mx }) : Leaves s t [.mx] := by
  rw [h]
  refine ⟨rfl, fun b hb => ?_⟩
  cases b <;> simp [Same] at hb ⊢
  case words => exact fun _ _ => rfl

section SpeakerRequests

theorem commonRefusal_position {s : State} {ws : List Word} {p : Nat} (h : FromPosition s ws p) : commonRefusal s ws .position = none := by
  obtain ⟨hp, hconfig, henabled⟩ := h
  subst hp
  simp [commonRefusal, henabled, Nat.not_le.mpr hconfig]

/-- The speaker side of a position has become a record; nothing else has changed. -/
structure SpeakerBecomes (s v : State) (p : Nat) (r : SpeakerRec) : Prop where
  state  : v = { s with mx := { s.mx with speakers := v.mx.speakers } }
  own    : v.speaker p = r
  others : ∀ q, q ≠ p → v.speaker q = s.speaker q

theorem speakerBecomes_self (s : State) (p : Nat) : SpeakerBecomes s s p (s.speaker p) := ⟨rfl, rfl, fun _ _ => rfl⟩

theorem speakerBecomes_setSpeaker (s : State) (p : Nat) (r : SpeakerRec) : SpeakerBecomes s (s.setSpeaker p r) p r :=
  ⟨rfl, by simp, fun q hq => by simp [hq]⟩

variable {s u v : State} {ws : List Word} {p code k : Nat} {r : SpeakerRec} {result : Result}

/-- A change of speakers is no change of what events and the ring depend on. -/
theorem SpeakerBecomes.rest (h : SpeakerBecomes s v p r) : v.re = s.re ∧ v.eu = s.eu ∧ v.frame = s.frame ∧ v.bi = s.bi ∧
    (v.mx.bridges, v.mx.snapshot, v.mx.out) = (s.mx.bridges, s.mx.snapshot, s.mx.out) := by
  rw [h.state]
  exact ⟨rfl, rfl, rfl, rfl, rfl⟩

theorem SpeakerBecomes.leaves (h : SpeakerBecomes s v p r) : Leaves s v [.mx] := leaves_mixer (by rw [h.state])

@[simp] theorem requestEnd_mx (b u : State) (ws : List Word) (x : Result) : (requestEnd b u ws x).mx = u.mx := by simp [requestEnd]

/-- A ready request of a position ends with its own effects and their completion (R149, R151). -/
theorem positionRequest_next (hr : Ready s code ws k) (hp : FromPosition s ws p) {own : State → List Word → State × Result}
    (hown : own s ws = (u, result)) (hheld : u.bi.held = s.bi.held) :
    requestTaken s code .position own noDetail = .next (requestEnd s u ws result) := by
  rw [requestTaken_ready hr, takeRequest_ready hr .position own noDetail (commonRefusal_position hp), hown]
  exact done_of_nothingHeld s _ (by simp [hheld, hr.held])

/-- A request that changes the speaker side of its position and no port's level (R95). -/
theorem speakerRequest_completes (hr : Ready s code ws 1) (hp : FromPosition s ws p) {own : State → List Word → State × Result}
    (h : SpeakerBecomes s v p r) (hown : own s ws = (v, result)) :
    ∃ t, requestTaken s code .position own noDetail = .next t ∧ t.speaker p = r ∧ (∀ q, q ≠ p → t.speaker q = s.speaker q) ∧
      (t.mx.bridges, t.mx.snapshot, t.mx.out) = (s.mx.bridges, s.mx.snapshot, s.mx.out) ∧ Completed s t ws result 0#32 0#32 ∧
      Leaves s t [.ring, .take, .events, .mx] := by
  obtain ⟨hre, heu, hframe, hbi, hmx⟩ := h.rest
  have hspeaker := State.speaker_congr (requestEnd_mx s v ws result)
  refine ⟨_, positionRequest_next hr hp hown (by rw [hbi]), by rw [hspeaker, h.own], fun q hq => by rw [hspeaker, h.others q hq],
    by rw [requestEnd_mx, hmx], ?_, (h.leaves.requestEnd (heu ▸ hr.head) s ws result).mono (by decide)⟩
  exact completed_settle s ws result (0#32, 0#32) (by simp [hre]) (by simp [hre]) (by simpa using hframe)
    (by simpa [heu] using hr.unread) (by simpa [heu] using hr.head)

/-- A request that changes the speaker side of its position, and then the levels of its ports (R93, R94, R99, R104). -/
theorem speakerRequest_finishes (hr : Ready s code ws 1) (hp : FromPosition s ws p) {own : State → List Word → State × Result}
    (h : SpeakerBecomes s v p r) (ports : List Nat) (hown : own s ws = (recomputePorts v ports, .ok)) :
    ∃ t, requestTaken s code .position own noDetail = .next t ∧ t.speaker p = r ∧ (∀ q, q ≠ p → t.speaker q = s.speaker q) ∧
      (t.mx.bridges, t.mx.snapshot, t.mx.out) = (s.mx.bridges, s.mx.snapshot, s.mx.out) ∧ Finished s t ws .ok ∧
      Leaves s t [.ring, .take, .events, .alarms, .mx, .ra] := by
  obtain ⟨hre, heu, hframe, hbi, hmx⟩ := h.rest
  have hwork := work_recomputePorts v ports
  have hhead : v.eu.evtHead < 256 := heu ▸ hr.head
  have hspeaker := State.speaker_congr ((requestEnd_mx s (recomputePorts v ports) ws .ok).trans hwork.call.mx)
  obtain ⟨hring, hevent⟩ := hwork.call.finished ws .ok hhead s
  rw [hre] at hring
  rw [heu, hre, hframe] at hevent
  exact ⟨_, positionRequest_next hr hp hown (by rw [hwork.call.held, hbi]), by rw [hspeaker, h.own],
    fun q hq => by rw [hspeaker, h.others q hq], by rw [requestEnd_mx, hwork.call.mx, hmx], ⟨hring, hevent⟩,
    ((h.leaves.trans (hwork.leaves hhead)).requestEnd (hwork.head hhead) s ws .ok).mono (by decide)⟩

/-! ### The requests' own effects -/

theorem sourceOf_outOfRange {kind : Nat} (index : Nat) (h : 3 ≤ kind) : sourceOf kind index = none := by
  unfold sourceOf
  rw [if_neg (by omega), if_neg (by omega), if_neg (by omega)]

theorem mixOf_outOfRange {code : Nat} (h : 2 ≤ code) : mixOf code = none := by
  obtain ⟨k, rfl⟩ := Nat.exists_eq_add_of_le' h
  rfl

theorem onOff_outOfRange {v : Nat} (h : 2 ≤ v) : onOff v = none := by rw [onOff_eq, if_neg (by omega), if_neg (by omega)]

variable {i : Nat}

/-- SPEAKER_SET of a source that its position may hear and that is new to the channel (R93). -/
theorem setSpeaker_tunes {src : Source} {m : Mix} {c : ChanRun} (hc : c = Table.get ChanRun.cold (s.speaker p).channels i)
    (htune : tunable s src = true) (hhear : mayHear s p src = true) (hnew : ¬(c.source = src ∧ c.mix = m ∧ (s.speaker p).ptt ≠ some i)) :
    Machine.setSpeaker s p i src m = (recomputePorts (s.setSpeaker p
      { channels := Table.put ChanRun.cold (s.speaker p).channels i { c with source := src, mix := m }
        ptt := if (s.speaker p).ptt = some i then none else (s.speaker p).ptt }) (speakerPorts p), .ok) := by
  simp only [Machine.setSpeaker, ← hc, htune, hhear, if_neg hnew, Bool.true_eq_false, if_false]

/-- SPEAKER_VOLUME of a volume that is new to the channel (R94). -/
theorem setVolume_sets {code : Nat} {c : ChanRun} (hc : c = Table.get ChanRun.cold (s.speaker p).channels i) (hnew : c.volume ≠ min code 15) :
    setVolume s p i code = (recomputePorts (s.setSpeaker p { s.speaker p with
      channels := Table.put ChanRun.cold (s.speaker p).channels i { c with volume := min code 15 } }) (speakerPorts p), .ok) := by
  simp only [setVolume, ← hc, if_neg hnew]

theorem ownSpeakerSet_inRange {src : Source} {m : Mix} (hp : requestPosition ws = p) (hi : param ws 1 = i) (hlt : i < 8)
    (hsrc : sourceOf (param ws 2) (param ws 3) = some src) (hmix : mixOf (param ws 4) = some m) :
    ownSpeakerSet s ws = Machine.setSpeaker s p i src m := by
  simp [ownSpeakerSet, hsrc, hmix, hi, hlt, hp]

theorem ownSpeakerSet_outOfRange (h : 8 ≤ param ws 1 ∨ 3 ≤ param ws 2 ∨ 2 ≤ param ws 4) : ownSpeakerSet s ws = (s, .badParam) := by
  rcases h with h | h | h
  · unfold ownSpeakerSet
    dsimp only
    split
    · exact if_neg (Nat.not_lt.mpr h)
    · rfl
  · simp [ownSpeakerSet, sourceOf_outOfRange _ h]
  · simp [ownSpeakerSet, mixOf_outOfRange h]

theorem ownSpeakerVolume_inRange (hp : requestPosition ws = p) (hi : param ws 1 = i) (hlt : i < 8) :
    ownSpeakerVolume s ws = setVolume s p i (param ws 2) := by
  simp [ownSpeakerVolume, hi, hlt, hp]

theorem ownPtt_inRange {on : Bool} (hp : requestPosition ws = p) (hi : param ws 1 = i) (hlt : i < 8) (hon : onOff (param ws 2) = some on) :
    ownPtt s ws = setPtt s p i on := by
  simp [ownPtt, hi, hlt, hp, hon]

/-- PTT on, by the first of R95's steps that refuses it. -/
theorem setPtt_refused (h : (Table.get ChanConfig.cold (s.position p).applied.channels i).pttAllowed = false ∨
    (Table.get ChanRun.cold (s.speaker p).channels i).source = .none ∨
    mayTalk s p (Table.get ChanRun.cold (s.speaker p).channels i).source = false) : setPtt s p i true = (s, .badParam) := by
  by_cases hallowed : (Table.get ChanConfig.cold (s.position p).applied.channels i).pttAllowed = false
  · simp [setPtt, hallowed]
  · by_cases hsource : (Table.get ChanRun.cold (s.speaker p).channels i).source = .none
    · simp [setPtt, hsource]
    · simp [setPtt, hsource, (h.resolve_left hallowed).resolve_left hsource]

theorem ownPtt_refused (hp : requestPosition ws = p) (h : 8 ≤ param ws 1 ∨ 2 ≤ param ws 2 ∨
    (param ws 2 = 1 ∧ ((Table.get ChanConfig.cold (s.position p).applied.channels (param ws 1)).pttAllowed = false ∨
      (Table.get ChanRun.cold (s.speaker p).channels (param ws 1)).source = .none ∨
      mayTalk s p (Table.get ChanRun.cold (s.speaker p).channels (param ws 1)).source = false))) : ownPtt s ws = (s, .badParam) := by
  by_cases hlt : param ws 1 < 8
  · rcases h.resolve_left (Nat.not_le.mpr hlt) with hon | ⟨hon, hrefused⟩
    · simp [ownPtt, onOff_outOfRange hon]
    · rw [ownPtt_inRange hp rfl hlt (by rw [hon]; rfl), setPtt_refused hrefused]
  · unfold ownPtt
    dsimp only
    split
    · exact if_neg hlt
    · rfl

/-- PTT on, where R95 allows it. -/
theorem setPtt_on (hallowed : (Table.get ChanConfig.cold (s.position p).applied.channels i).pttAllowed = true)
    (hsource : (Table.get ChanRun.cold (s.speaker p).channels i).source ≠ .none)
    (htalk : mayTalk s p (Table.get ChanRun.cold (s.speaker p).channels i).source = true) :
    ∃ v, setPtt s p i true = (v, if (s.speaker p).ptt = some i then .noChange else .ok) ∧
      SpeakerBecomes s v p { s.speaker p with ptt := some i } := by
  by_cases hptt : (s.speaker p).ptt = some i
  · have hsame : { s.speaker p with ptt := some i } = s.speaker p := by rw [← hptt]
    exact ⟨s, by simp [setPtt, hallowed, hsource, htalk, hptt], hsame ▸ speakerBecomes_self s p⟩
  · exact ⟨_, by simp [setPtt, hallowed, hsource, htalk, hptt], speakerBecomes_setSpeaker s p _⟩

/-- PTT off (R95). -/
theorem setPtt_off (s : State) (p i : Nat) : ∃ v, setPtt s p i false = (v, if (s.speaker p).ptt = some i then .ok else .noChange) ∧
    SpeakerBecomes s v p { s.speaker p with ptt := if (s.speaker p).ptt = some i then none else (s.speaker p).ptt } := by
  by_cases hptt : (s.speaker p).ptt = some i
  · rw [if_pos hptt, if_pos hptt]
    exact ⟨_, by simp [setPtt, hptt], speakerBecomes_setSpeaker s p _⟩
  · rw [if_neg hptt, if_neg hptt]
    exact ⟨s, by simp [setPtt, hptt], speakerBecomes_self s p⟩

end SpeakerRequests

/-- Settles O49: the channel tuned (R93), every BAD_PARAM, the volume (R94), PTT on and off (R95). -/
theorem speakerRequestsTakeEffect : Obligations.SpeakerRequestsTakeEffect := by
  unfold Obligations.SpeakerRequestsTakeEffect
  refine ⟨fun s ws p i src m c hr hp hi hlt hsrc hmix hc => ⟨fun htune hhear hnew => ?_, fun hrefused => ?_⟩, fun i s ws p hp hbad => ?_,
    fun s ws p i c hp hi hlt hc => ⟨fun hr hnew => ?_, fun hr hsame => ?_, fun hr hon hallowed hsource htalk => ?_, fun hr hoff => ?_⟩⟩
  · have hown := (ownSpeakerSet_inRange hp.position hi hlt hsrc hmix).trans (setSpeaker_tunes hc htune hhear hnew)
    exact speakerRequest_finishes hr hp (speakerBecomes_setSpeaker s p _) _ hown
  · have hown : ownSpeakerSet s ws = (s, if tunable s src = false then .badParam else if mayHear s p src = false then .access else .noChange) := by
      rw [ownSpeakerSet_inRange hp.position hi hlt hsrc hmix, Machine.setSpeaker, ← hc]
      by_cases htune : tunable s src = false
      · simp [htune]
      · by_cases hhear : mayHear s p src = false
        · simp [htune, hhear]
        · simp [htune, hhear, (hrefused.resolve_left htune).resolve_left hhear]
    exact ⟨_, request_unchanged ws _ hr .position ownSpeakerSet (commonRefusal_position hp) hown⟩
  · rcases hbad with ⟨rfl, hr, h⟩ | ⟨rfl, hr, h⟩ | ⟨rfl, hr, h⟩
    · exact ⟨_, request_unchanged ws _ hr .position ownSpeakerSet (commonRefusal_position hp) (ownSpeakerSet_outOfRange h)⟩
    · exact ⟨_, request_unchanged ws _ hr .position ownSpeakerVolume (commonRefusal_position hp) (if_neg (Nat.not_lt.mpr h))⟩
    · exact ⟨_, request_unchanged ws _ hr .position ownPtt (commonRefusal_position hp) (ownPtt_refused hp.position h)⟩
  · have hown := (ownSpeakerVolume_inRange hp.position hi hlt).trans (setVolume_sets hc hnew)
    exact speakerRequest_finishes hr hp (speakerBecomes_setSpeaker s p _) _ hown
  · have hown : ownSpeakerVolume s ws = (s, .noChange) := by
      rw [ownSpeakerVolume_inRange hp.position hi hlt, setVolume, ← hc, if_pos hsame]
    exact ⟨_, request_unchanged ws _ hr .position ownSpeakerVolume (commonRefusal_position hp) hown⟩
  · rw [hc] at hsource htalk
    obtain ⟨v, hset, hbecomes⟩ := setPtt_on hallowed hsource htalk
    exact speakerRequest_completes hr hp hbecomes ((ownPtt_inRange hp.position hi hlt (by rw [hon]; rfl)).trans hset)
  · obtain ⟨v, hset, hbecomes⟩ := setPtt_off s p i
    exact speakerRequest_completes hr hp hbecomes ((ownPtt_inRange hp.position hi hlt (by rw [hoff]; rfl)).trans hset)

end Sys2Proof.Machine

namespace Sys2Proof.Machine

/-! ## Bridge commits (R87, R88, R92, R96, R130; O18) -/

section BridgeCommit

variable {s w u v : State}

/-- A change of the mixer alone is work of a commit. -/
theorem commitWork_mixer (h : v = { w with mx := v.mx }) : CommitWork w v [.mx] := by
  have hleaves := leaves_mixer h
  rw [h] at hleaves ⊢
  exact ⟨rfl, rfl, rfl, fun he => ⟨he, fun _ _ => rfl⟩, fun _ => hleaves⟩

theorem CommitWork.held {xs : List Block} (h : CommitWork w v xs) : v.bi.held = w.bi.held := by
  have hbi := h.bi
  simp only [Prod.mk.injEq] at hbi
  obtain ⟨-, -, -, -, hheld, -⟩ := hbi
  exact hheld

theorem regionOf_bridgeConfig (b : Fin 24) : regionOf (bridgeConfigOffset b) = .bridgeConfig b 0 := by
  have hb := b.isLt
  unfold regionOf bridgeConfigOffset
  repeat rw [if_neg (by omega)]
  rw [if_pos (by omega)]
  congr 1 <;> omega

theorem exec_bridgeCommit {data : Word} {be : ByteEnables} (b : Fin 24) (hc : s.su.part.copying = true) (h : Taken s (bridgeConfigOffset b) be) :
    exec (.bridgeCommit b data be) s = done s (commitBridge (merged s (bridgeConfigOffset b) data be) b) := by
  have hexec : exec (.bridgeCommit b data be) s = apertureWrite s (bridgeConfigOffset b) data be := rfl
  rw [hexec, apertureWrite_taken h, takeWrite_copied hc (by rw [regionOf_bridgeConfig]; rfl) (by simp [bridgeConfigOffset])]
  simp only [copyWrite, regionOf_bridgeConfig, if_true]
  rfl

/-! ### A valid entry (R88, R96) -/

/-- A bridge's record after a commit: members that stay keep their energy and their place, and the set is cut to the new K (R88; log 36). -/
def BridgeRec.committed (r : BridgeRec) (cfg : BridgeConfig) : BridgeRec :=
  { applied := cfg, configRejected := false
    energy := Table.ofFun 0 (List.range 16) fun i => if keepsMember r.applied cfg i then Table.get 0 r.energy i else 0
    selected := (r.selected.filter (keepsMember r.applied cfg)).take cfg.k }

theorem applyBridge_bridge (w : State) (b : Nat) (cfg : BridgeConfig) (c : Nat) :
    (applyBridge w b cfg).bridge c = if c = b then (w.bridge b).committed cfg else w.bridge c :=
  State.setBridge_bridge w b _ c

theorem applyBridge_speaker (w : State) (b : Nat) (cfg : BridgeConfig) (p : Nat) : (applyBridge w b cfg).speaker p =
    if losesPtt b cfg p (w.speaker p) then { w.speaker p with ptt := none } else w.speaker p :=
  Table.get_mapVals_eq SpeakerRec.cold SpeakerRec.cold (fun p r => if losesPtt b cfg p r then { r with ptt := none } else r) w.mx.speakers
    (fun _ => by simp [losesPtt, pttSource, SpeakerRec.cold]) p

/-- No PTT channel is left that talks to a bridge of which its position is no member (R88, R96). -/
theorem applyBridge_ptt {b : Nat} {cfg : BridgeConfig} {p : Nat} (h : pttSource ((applyBridge w b cfg).speaker p) = .bridge b) :
    serviceIndex cfg (.ptt p) ≠ none := by
  rw [applyBridge_speaker] at h
  by_cases hloses : losesPtt b cfg p (w.speaker p) = true
  · simp [hloses, pttSource] at h
  · rw [if_neg hloses] at h
    simpa [losesPtt, h] using hloses

theorem commitBridge_some {b : Nat} {cfg : BridgeConfig} (h : validBridge w b (writtenCopy w (bridgeConfigOffset b) 64) = some cfg) :
    commitBridge w b = applyBridge w b cfg := by
  unfold commitBridge
  rw [h]

/-! ### An entry that is rejected (R92, R130) -/

/-- A command that changes no mirrored item and issues one event writes that event alone (R6, R65, R98, R156). -/
theorem settle_writes_none {head : Nat} {ev : List Word} (hw : writesOf u = writesOf s ++ writesAt (eventOffset head) ev) (hev : ev.length = 8)
    (hhead : head < 256) (hlc : u.lc = s.lc) (hpaths : u.cc.paths = s.cc.paths) (hhc : u.hc = s.hc) (hspeakers : u.mx.speakers = s.mx.speakers)
    (hra : u.ra = s.ra) : writesOf (settle s u) = writesOf u := by
  obtain ⟨hzlc, hzhc, hzmx, hzra, hzpaths, hzw⟩ := beforeMirrors_rest u
  have hz := settle_writes_eq s u
  change _ = _ ++ allMirrorChanges s (beforeMirrors u) at hz
  generalize beforeMirrors u = z at hz hzlc hzhc hzmx hzra hzpaths hzw
  have hlines : lineStatusWords z = lineStatusWords s := lineStatusWords_congr (hzlc.trans hlc) (hzpaths.trans hpaths)
  have hrecorders : recorderStatusWords z = recorderStatusWords s := recorderStatusWords_congr (hzra.trans hra)
  have hpositions : positionStatusWords z = positionStatusWords s := by
    have hposition : z.position = s.position := funext (State.position_congr (hzhc.trans hhc))
    have hhandset : z.handset = s.handset := funext (State.handset_congr (hzhc.trans hhc))
    have halerts : z.alertList = s.alertList := funext (State.alertList_congr (hzlc.trans hlc))
    have hspeaker : z.speaker = s.speaker := funext fun p => by rw [State.speaker_congr hzmx, State.speaker, hspeakers, ← State.speaker]
    funext p
    unfold positionStatusWords
    rw [hposition, hhandset, hspeaker, halerts]
  have hsame : ∀ k, IsMirror k → partWrote z k = partWrote s k := fun k hk =>
    partWrote_elsewhere (off := 0) (ws := []) (by rw [hzw, hw]; simp [writesAt]) hev hhead hk (by simp)
  have hnone : allMirrorChanges s z = [] := by
    rw [allMirrorChanges, mirrorChanges_none (words := lineStatusWords) fun n hn => ?_,
      mirrorChanges_none (words := positionStatusWords) fun p hp => ?_, mirrorChanges_none (words := recorderStatusWords) fun r hr => ?_]
    · rfl
    · rw [hrecorders]
      refine changedWords_kept _ _ fun i hi => hsame _ ?_
      simp [recorderStatusWords] at hi
      simp only [recorderStatusOffset, IsMirror]
      omega
    · rw [hpositions]
      refine changedWords_kept _ _ fun i hi => hsame _ (positionStatus_isMirror hp ?_)
      rw [positionStatusWords_length] at hi
      omega
    · rw [hlines]
      refine changedWords_kept _ _ fun i hi => hsame _ ?_
      simp [lineStatusWords] at hi
      simp only [lineStatusOffset, IsMirror]
      omega
  rw [hz, hnone, List.append_nil]

/-- The mask of selected members lies below the flags of a bridge's word. -/
theorem selectedMask_lt (l : List Nat) : ((List.range 16).map fun i => if l.contains i then 1 <<< i else 0).sum < 2 ^ 16 :=
  calc ((List.range 16).map fun i => if l.contains i then 1 <<< i else 0).sum
      ≤ ((List.range 16).map fun i => 1 <<< i).sum := List.sum_le_sum fun i _ => by split <;> simp
    _ < 2 ^ 16 := by decide

/-- The Live Window word of a bridge shows CONFIG_REJECTED in bit 17 (R92, R135). -/
theorem bridgeWord_configRejected (s : State) (b : Nat) : (bridgeWord s b).getLsbD 17 = (s.bridge b).configRejected := by
  have hmask := selectedMask_lt (s.bridge b).selected
  have hflag : placeBit 16 (s.bridge b).applied.enabled ≤ 2 ^ 16 := by unfold placeBit; split <;> decide
  simp only [bridgeWord, packed, List.sum_cons, List.sum_nil, BitVec.getLsbD_ofNat]
  generalize ((List.range 16).map fun i => if (s.bridge b).selected.contains i then 1 <<< i else 0).sum = mask at hmask ⊢
  generalize placeBit 16 (s.bridge b).applied.enabled = flag at hflag ⊢
  have hlow : (mask + flag).testBit 17 = false := Nat.testBit_lt_two_pow (by omega)
  cases (s.bridge b).configRejected
  · simpa [placeBit] using hlow
  · have hsum : mask + (flag + (placeBit 17 true + 0)) = 2 ^ 17 + (mask + flag) := by simp [placeBit]; omega
    rw [hsum, Nat.testBit_two_pow_add_eq, hlow]
    rfl

theorem liveWindowWord_bridge (s : State) (b : Fin 24) : liveWindowWord s (0x50 + b) = bridgeWord s b := by
  have hb := b.isLt
  unfold liveWindowWord
  repeat rw [if_neg (by omega)]
  rw [if_pos (by omega)]
  congr 1
  omega

/-- The bridge whose entry is rejected. -/
def bridgeRejected (w : State) (b : Nat) : State := w.setBridge b { w.bridge b with configRejected := true }

theorem bridgeRejected_bridge (w : State) (b c : Nat) :
    (bridgeRejected w b).bridge c = if c = b then { w.bridge b with configRejected := true } else w.bridge c :=
  State.setBridge_bridge w b _ c

theorem commitBridge_none {b : Nat} (h : validBridge w b (writtenCopy w (bridgeConfigOffset b) 64) = none) :
    commitBridge w b = rejectCommit (bridgeRejected w b) [] (.bridge b) := by
  unfold commitBridge
  rw [h]
  rfl

/-- What a rejected commit leaves: the flag, and the event (R92, R130). -/
theorem bridgeRejected_spec {b : Nat} (hpart : w.su.part ≠ .loading) (hu : w.eu.unread ≤ 254) :
    let u := rejectCommit (bridgeRejected w b) [] (.bridge b)
    CommitWork w u [.events, .mx] ∧ u.mx = (bridgeRejected w b).mx ∧
    (u.lc = w.lc ∧ u.cc = w.cc ∧ u.hc = w.hc ∧ u.ra = w.ra ∧
      writesOf u = writesOf w ++ writesAt (eventOffset w.eu.evtHead) ((Event.configReject (.bridge b)).words w.frame)) ∧
    EventAt u w.eu.evtHead (.configReject (.bridge b)) w.frame := by
  intro u
  have hu' : u = issue (postAll (bridgeRejected w b) []) (.configReject (.bridge b)) := rejectCommit_of_carrying [] _ hpart
  have hflag : CommitWork w (bridgeRejected w b) [.events, .mx] := (commitWork_mixer rfl).mono (by decide)
  have hreject : Work (bridgeRejected w b) u [.events] := work_rejectCommit (.bridge b) hpart (by simp)
  refine ⟨hflag.step hreject.commit, ?_, ⟨?_, ?_, ?_, ?_, ?_⟩, ?_⟩
  · rw [hu', issue_mx, postAll_mx]
  · rw [hu', issue_lc]
    rfl
  · rw [hu', issue_cc]
    rfl
  · rw [hu', issue_hc]
    rfl
  · rw [hu', issue_ra]
    rfl
  · have hwrites := rejectCommit_writes (bridgeRejected w b) [] (.bridge b)
    rw [if_pos (show (bridgeRejected w b).eu.unread ≤ 254 from hu), List.append_nil] at hwrites
    exact hwrites
  · rw [hu']
    exact issue_eventAt (postAll (bridgeRejected w b) []) _ hu

end BridgeCommit

/-- Settles O18: a valid entry by `BridgeRec.committed` and the PTTs turned off; an invalid one by its flag and the event alone. -/
theorem bridgeCommitApplies : Obligations.BridgeCommitApplies := by
  unfold Obligations.BridgeCommitApplies
  intro b data be s ws hc htaken he hws
  have hcarrying := notLoading_of_copying hc
  have hexec := exec_bridgeCommit (data := data) b hc htaken
  have hvalid : validBridge (merged s (bridgeConfigOffset b) data be) b
      (writtenCopy (merged s (bridgeConfigOffset b) data be) (bridgeConfigOffset b) 64) = validBridge s b ws := by
    rw [hws, merged_writtenCopy]
    exact validBridge_congr rfl rfl rfl _ _
  have hbridge : ∀ c, (merged s (bridgeConfigOffset b) data be).bridge c = s.bridge c := fun _ => rfl
  refine ⟨fun cfg hcfg => ?_, fun hnone hu => ?_⟩
  · rw [commitBridge_some (hvalid.trans hcfg)] at hexec
    have hwork : CommitWork (merged s (bridgeConfigOffset b) data be) (applyBridge (merged s (bridgeConfigOffset b) data be) b cfg) [.mx] :=
      commitWork_mixer rfl
    have hrecord := applyBridge_bridge (merged s (bridgeConfigOffset b) data be) b cfg
    have hptt := fun p => applyBridge_ptt (w := merged s (bridgeConfigOffset b) data be) (b := b) (cfg := cfg) (p := p)
    generalize applyBridge (merged s (bridgeConfigOffset b) data be) b cfg = u at *
    rw [done_of_nothingHeld _ _ (hwork.held.trans htaken.none)] at hexec
    obtain ⟨hwrote, hcopied, hleaves⟩ := wrote_commit hwork he s
    have hown : (settle s u).bridge b = (s.bridge b).committed cfg := by rw [settle_bridge, hrecord, if_pos rfl, hbridge]
    refine ⟨_, hexec, by rw [hown]; rfl, by rw [hown]; rfl, by rw [hown]; rfl, fun i hi => ?_, fun c hne => ?_, fun p hp => ?_,
      hwrote, hcopied, hleaves⟩
    · rw [hown, BridgeRec.committed, Table.get_ofFun 0 16 _ i hi]
    · rw [settle_bridge, hrecord, if_neg hne, hbridge]
    · rw [settle_speaker] at hp
      exact hptt p hp
  · rw [commitBridge_none (hvalid.trans hnone)] at hexec
    obtain ⟨hwork, hmx, ⟨hlc, hcc, hhc, hra, hwrites⟩, hevent⟩ :=
      bridgeRejected_spec (w := merged s (bridgeConfigOffset b) data be) (b := b) hcarrying hu
    have hrecord := fun c => (State.bridge_congr hmx c).trans (bridgeRejected_bridge (merged s (bridgeConfigOffset b) data be) b c)
    have hspeakers := congrArg MX.speakers hmx
    generalize rejectCommit (bridgeRejected (merged s (bridgeConfigOffset b) data be) b) [] (.bridge b) = u at *
    rw [done_of_nothingHeld _ _ (hwork.held.trans htaken.none)] at hexec
    obtain ⟨hwrote, hcopied, hleaves⟩ := wrote_commit hwork he s
    have hown : (settle s u).bridge b = { s.bridge b with configRejected := true } := by rw [settle_bridge, hrecord, if_pos rfl, hbridge]
    refine ⟨_, hexec, hown, fun c hne => ?_, hevent.settle he s, ?_, ?_, hwrote, hcopied, hleaves⟩
    · rw [settle_bridge, hrecord, if_neg hne, hbridge]
    · rw [liveWindowWord_bridge, bridgeWord_configRejected, hown]
    · rw [settle_writes_none (s := s) hwrites (eventWords_length _ _) he hlc (congrArg CC.paths hcc) hhc hspeakers hra]
      exact hwrites

end Sys2Proof.Machine

namespace Sys2Proof.Table

/-- A table of a function's values below a bound, where the function has the default from the bound on. -/
theorem get_ofFun_all {α : Type} [DecidableEq α] (d : α) (n : Nat) (f : Nat → α) (h : ∀ i, n ≤ i → f i = d) (i : Nat) :
    get d (ofFun d (List.range n) f) i = f i := by
  by_cases hi : i < n
  · exact get_ofFun d n f i hi
  · rw [h i (Nat.not_lt.mp hi)]
    refine get_eq_default_of_notMem d _ i fun hmem => hi ?_
    simp only [keys, ofFun, List.mem_map, List.mem_filter, List.mem_range] at hmem
    obtain ⟨-, ⟨⟨j, hj, rfl⟩, -⟩, rfl⟩ := hmem
    exact hj

end Sys2Proof.Table

namespace Sys2Proof.Machine

/-! ## Talker selection (R91) -/

section Selection

variable {r : BridgeRec}

theorem rankInsert_perm (i : Nat) (l : List Nat) : (rankInsert r i l).Perm (i :: l) := by
  induction l with
  | nil => exact .refl _
  | cons j t ih =>
    unfold rankInsert
    split
    · exact .refl _
    · exact (ih.cons j).trans (.swap i j t)

/-- A member of a higher index goes behind those of its rank value, and the order of ranks stays. -/
theorem rankInsert_pairwise {i : Nat} {l : List Nat} (h : l.Pairwise (outranks r)) (hi : ∀ j ∈ l, j < i) :
    (rankInsert r i l).Pairwise (outranks r) := by
  induction l with
  | nil => exact List.pairwise_singleton _ _
  | cons j t ih =>
    obtain ⟨hj, ht⟩ := List.pairwise_cons.mp h
    have hji : j < i := hi j List.mem_cons_self
    unfold rankInsert
    split
    · next hlt =>
      refine List.pairwise_cons.mpr ⟨fun x hx => .inl ?_, h⟩
      rcases List.mem_cons.mp hx with rfl | hx
      · exact hlt
      · rcases hj x hx with hlower | ⟨hequal, -⟩ <;> omega
    · next hge =>
      refine List.pairwise_cons.mpr ⟨fun x hx => ?_, ih ht fun x hx => hi x (List.mem_cons_of_mem _ hx)⟩
      rcases List.mem_cons.mp ((rankInsert_perm i t).mem_iff.mp hx) with rfl | hx
      · simp only [outranks]
        omega
      · exact hj x hx

theorem rankInserts_spec (l acc : List Nat) (hacc : acc.Pairwise (outranks r)) (hl : l.Pairwise (· < ·)) (hlt : ∀ a ∈ acc, ∀ i ∈ l, a < i) :
    (l.foldl (fun acc i => rankInsert r i acc) acc).Pairwise (outranks r) ∧
    ∀ i, i ∈ l.foldl (fun acc i => rankInsert r i acc) acc ↔ i ∈ l ∨ i ∈ acc := by
  induction l generalizing acc with
  | nil => exact ⟨hacc, by simp⟩
  | cons j l ih =>
    obtain ⟨hj, hl⟩ := List.pairwise_cons.mp hl
    have hmem : ∀ i, i ∈ rankInsert r j acc ↔ i = j ∨ i ∈ acc := fun i => (rankInsert_perm j acc).mem_iff.trans List.mem_cons
    obtain ⟨hpairwise, hall⟩ := ih (rankInsert r j acc) (rankInsert_pairwise hacc fun a ha => hlt a ha j List.mem_cons_self) hl fun a ha i hi => by
      rcases (hmem a).mp ha with rfl | ha
      · exact hj i hi
      · exact hlt a ha i (List.mem_cons_of_mem _ hi)
    refine ⟨hpairwise, fun i => ?_⟩
    rw [List.foldl_cons, hall, hmem, List.mem_cons, or_left_comm, or_assoc]

theorem rankOrder_spec (r : BridgeRec) : (rankOrder r).Pairwise (outranks r) ∧ ∀ i, i ∈ rankOrder r ↔ isCandidate r i := by
  obtain ⟨hpairwise, hmem⟩ := rankInserts_spec (r := r)
    ((List.range r.applied.members.length).filter fun i =>
      (inService r.applied i).isSome && decide (r.applied.threshold ≤ Table.get 0 r.energy i)) [] .nil
    (List.pairwise_lt_range.filter _) (by simp)
  refine ⟨hpairwise, fun i => ?_⟩
  rw [rankOrder, hmem]
  simp [isCandidate]

/-- The selection of an enabled bridge: candidates in rank order, at most the talker limit of them, and no other candidate ranks as high (R91). -/
theorem selectTalkers_spec (h : r.applied.enabled = true) :
    (∀ i ∈ (selectTalkers r).selected, isCandidate r i) ∧ (selectTalkers r).selected.length ≤ r.applied.k ∧
    (selectTalkers r).selected.Pairwise (outranks r) ∧
    ∀ i, isCandidate r i → i ∉ (selectTalkers r).selected →
      (selectTalkers r).selected.length = r.applied.k ∧ ∀ j ∈ (selectTalkers r).selected, outranks r j i := by
  obtain ⟨hpairwise, hmem⟩ := rankOrder_spec r
  have hselected : (selectTalkers r).selected = (rankOrder r).take r.applied.k := by rw [selectTalkers, if_pos h]
  rw [hselected]
  refine ⟨fun i hi => (hmem i).mp (List.mem_of_mem_take hi), List.length_take_le _ _, hpairwise.sublist (List.take_sublist _ _), fun i hi hout => ?_⟩
  rw [← hmem, ← List.take_append_drop r.applied.k (rankOrder r), List.mem_append] at hi
  have hdrop := hi.resolve_left hout
  rw [← List.take_append_drop r.applied.k (rankOrder r), List.pairwise_append] at hpairwise
  obtain ⟨-, -, hbefore⟩ := hpairwise
  refine ⟨?_, fun j hj => hbefore j hj i hdrop⟩
  have hpos := List.length_pos_of_mem hdrop
  rw [List.length_drop] at hpos
  rw [List.length_take]
  omega

theorem selectTalkers_of_disabled (h : r.applied.enabled ≠ true) : selectTalkers r = r := if_neg h

end Selection

/-! ## The snapshot and the bridges of a frame (R76, R90, R91) -/

section Frame

/-- The record of a bridge as a frame's outputs see it: on a selection frame, after the talker selection (R76, R91). -/
def frameBridge (s : State) (b : Nat) : BridgeRec := if s.frame.toNat % 80 = 0 then selectTalkers (s.bridge b) else s.bridge b

/-- The snapshot of a frame (R76). -/
def frameSnapshot (s : State) : Snapshot := takeSnapshot { s with mx := { s.mx with bridges := frameBridges s } }

variable (s : State) (inputs : Table Sample)

theorem frameBridges_get (b : Nat) : Table.get BridgeRec.cold (frameBridges s) b = frameBridge s b := by
  unfold frameBridges frameBridge
  split
  · exact Table.get_mapVals_eq BridgeRec.cold BridgeRec.cold (fun _ r => selectTalkers r) s.mx.bridges (fun _ => rfl) b
  · rfl

theorem frameBridge_applied (b : Nat) : (frameBridge s b).applied = (s.bridge b).applied := by
  rw [← frameBridges_get]
  exact (frameBridges_applied s b).1

theorem frameBridge_energy (b : Nat) : (frameBridge s b).energy = (s.bridge b).energy := by
  unfold frameBridge selectTalkers
  split
  · split <;> rfl
  · rfl

/-- The bridges after a frame: those of its snapshot, with their next energies (R90). -/
theorem runFrame_bridge (b : Nat) : (runFrame s inputs).bridge b = updateEnergies (frameSnapshot s) inputs b (frameBridge s b) := by
  rw [State.bridge, runFrame_bridges, Table.get_mapVals_eq BridgeRec.cold BridgeRec.cold _ _ (fun _ => rfl), frameBridges_get]
  rfl

theorem runFrame_out {i : Nat} (hi : i < 512) : Table.get 0#16 (runFrame s inputs).mx.out i =
    if s.su.draining = true then 0#16 else outputAt (frameSnapshot s) inputs i := by
  have hout : (runFrame s inputs).mx.out = if s.su.draining = true then [] else frameOutputs (frameSnapshot s) inputs := rfl
  rw [hout]
  split
  · rfl
  · exact Table.get_ofFun 0#16 512 _ i hi

theorem leaves_runFrame : Leaves s (runFrame s inputs) [.mx] := leaves_mixer rfl

/-- A member not in service has no energy (R90). -/
theorem inService_of_length_le {cfg : BridgeConfig} {i : Nat} (h : cfg.members.length ≤ i) : inService cfg i = none := by
  simp [inService, List.getElem?_eq_none h]

theorem updateEnergies_energy (v : Snapshot) (b : Nat) (r : BridgeRec) (i : Nat) : Table.get 0 (updateEnergies v inputs b r).energy i =
    match inService r.applied i with
    | some m => nextEnergy (Table.get 0 r.energy i) (magnitude (memberSample v inputs b m.who))
    | none => 0 :=
  Table.get_ofFun_all 0 _ _ (fun i hi => by rw [inService_of_length_le hi]) i

/-! ### What the snapshot holds -/

theorem takeSnapshot_line (n : Nat) : (takeSnapshot s).line n =
    { participants := (s.line n).participants, active := (s.line n).active, pathSwitching := (s.line n).pathSwitching } :=
  Table.get_mapVals_eq LineRec.cold SnapLine.cold _ s.lc.lines (fun _ => rfl) n

theorem takeSnapshot_circuit (c : Nat) : (takeSnapshot s).circuit c = { state := (s.circuit c).state, owner := (s.circuit c).owner } :=
  Table.get_mapVals_eq CircuitRec.cold SnapCircuit.cold _ s.cc.circuits (fun _ => rfl) c

theorem takeSnapshot_position (p : Nat) : (takeSnapshot s).position p =
    { enabled := (s.position p).applied.enabled, dim := (s.position p).dim, dimCode := (s.position p).applied.dimCode
      pageVolume := (s.position p).applied.pageVolume, reach := (s.position p).reach } :=
  Table.get_mapVals_eq PosRec.cold SnapPos.cold _ s.hc.positions (fun _ => rfl) p

theorem takeSnapshot_recorder (r : Nat) : Table.get none (takeSnapshot s).recorders r = (s.channel r).holder :=
  Table.get_mapVals_eq ChannelRec.cold none _ s.ra.channels (fun _ => rfl) r

theorem frameSnapshot_bridge (b : Nat) : (frameSnapshot s).bridge b = { applied := (s.bridge b).applied, selected := (frameBridge s b).selected } := by
  rw [← frameBridge_applied, ← frameBridges_get]
  exact Table.get_mapVals_eq BridgeRec.cold SnapBridge.cold _ (frameBridges s) (fun _ => rfl) b

theorem frameSnapshot_of_noSelection (h : s.frame.toNat % 80 ≠ 0) : frameSnapshot s = takeSnapshot s := by
  rw [frameSnapshot, frameBridges, if_neg h]

end Frame

end Sys2Proof.Machine

namespace Sys2Proof.Machine

/-! ## What a frame's outputs are made of (R77 to R85, R89) -/

section Mixing

variable (v : Snapshot) (inputs : Table Sample)

/-! ### Bridges (R89) -/

/-- The member mix of a selected member: the sum of the other selected members' contributions (R89). -/
theorem memberMix_selected {b i : Nat} (hnodup : (v.bridge b).selected.Nodup) (hi : i ∈ (v.bridge b).selected) :
    memberMix v inputs b i = saturate (((v.bridge b).selected.filter (· ≠ i)).map (contribution v inputs b)).sum := by
  have herase : (v.bridge b).selected.erase i = (v.bridge b).selected.filter (· ≠ i) := by
    rw [hnodup.erase_eq_filter]
    exact List.filter_congr fun x _ => by rw [bne, beq_eq_decide, decide_not]
  have hsum := List.sum_map_erase (contribution v inputs b) hi
  rw [memberMix, if_pos (List.contains_iff_mem.mpr hi), bridgeSum, ← herase, ← hsum, add_sub_cancel_left]

theorem memberMix_unselected {b i : Nat} (hi : i ∉ (v.bridge b).selected) : memberMix v inputs b i = bridgeOutput v inputs b :=
  if_neg (by simpa using hi)

theorem contribution_inService {b i : Nat} {m : Member} (h : inService (v.bridge b).applied i = some m) :
    contribution v inputs b i = (memberSample v inputs b m.who * gainFactor m.gain + 2048) / 4096 := by
  rw [contribution, h]
  rfl

/-! ### Lines (R79, R80) -/

theorem lineAudio_of_noMember {n : Nat} (h : lineMember v n = none) : lineAudio v inputs n = lineReceive v inputs n := by
  rw [lineAudio, h]

/-- The circuit send of a line, its microphones summed over the ACTIVE participants (R80). -/
theorem circuitSend_eq (n : Nat) : circuitSend v inputs n = saturate (
    ((((v.line n).participants.filter fun e => decide (e.mode = .active)).map fun e => microphone inputs e.party).sum +
      ((joinedLines v n).map (lineAudio v inputs)).sum + ((pttTalkers v n).map (pttMicrophone inputs)).sum) +
    ((lineMember v n).map fun x => memberMix v inputs x.1 x.2).getD 0) := by
  simp only [circuitSend, activeParties, List.map_map]
  cases lineMember v n <;> rfl

theorem circuitOutput_inUse {c n : Nat} (hstate : (v.circuit c).state = .inUse) (howner : (v.circuit c).owner = some n) :
    circuitOutput v inputs c = circuitSend v inputs n := by
  unfold circuitOutput
  dsimp only
  rw [hstate, howner]

theorem circuitOutput_idle {c : Nat} (hstate : (v.circuit c).state ≠ .inUse) : circuitOutput v inputs c = 0 := by
  unfold circuitOutput
  dsimp only
  split
  · contradiction
  · rfl

/-! ### Earpieces (R81) -/

theorem earpiece_empty {p : Party} (h : (v.handset p).current = []) : earpiece v inputs p = 0 := by
  rw [earpiece, h]

theorem earpiece_talking {p q : Party} {c : Nat} (h : (v.handset p).current = [.intercom c]) (hstate : (v.call c).state = .talking)
    (hcaller : (v.call c).caller = some p) (hanswerer : (v.call c).answerer = some q) : earpiece v inputs p = microphone inputs q := by
  rw [earpiece, h]
  dsimp only
  rw [if_pos hstate, otherParty, if_pos hcaller, hanswerer]

/-- The other ACTIVE participants of a handset's lines, each once (R81). -/
def otherTalkers (v : Snapshot) (p : Party) (ns : List Nat) : List Party := (ns.flatMap (activeParties v)).eraseDups.filter (· ≠ p)

/-- A list without its repetitions has none. -/
theorem nodup_eraseDups {α : Type} [DecidableEq α] (l : List α) : l.eraseDups.Nodup := by
  induction hn : l.length using Nat.strong_induction_on generalizing l with
  | _ n ih =>
    cases l with
    | nil => simp
    | cons a l =>
      have hshorter : (l.filter fun b => !b == a).length < n := by
        rw [← hn, List.length_cons]
        exact Nat.lt_succ_of_le (List.length_filter_le _ l)
      rw [List.eraseDups_cons, List.nodup_cons]
      exact ⟨by simp [List.mem_eraseDups], ih _ hshorter _ rfl⟩

theorem otherTalkers_nodup (p : Party) (ns : List Nat) : (otherTalkers v p ns).Nodup := (nodup_eraseDups _).filter _

theorem mem_otherTalkers {p q : Party} {ns : List Nat} :
    q ∈ otherTalkers v p ns ↔ q ≠ p ∧ ∃ n ∈ ns, { party := q, mode := .active } ∈ (v.line n).participants := by
  have hactive : ∀ n, q ∈ activeParties v n ↔ { party := q, mode := .active } ∈ (v.line n).participants := fun n => by
    simp only [activeParties, List.mem_map, List.mem_filter, decide_eq_true_eq]
    constructor
    · rintro ⟨⟨party, mode⟩, ⟨hmem, rfl⟩, rfl⟩
      exact hmem
    · exact fun hmem => ⟨_, ⟨hmem, rfl⟩, rfl⟩
  simp only [otherTalkers, List.mem_filter, List.mem_eraseDups, List.mem_flatMap, hactive, decide_eq_true_eq]
  exact and_comm

theorem earpiece_lines {p : Party} {ns : List Nat} (hne : ns ≠ []) (h : (v.handset p).current = ns.map .line) :
    earpiece v inputs p = saturate ((ns.map (lineAudio v inputs)).sum + ((otherTalkers v p ns).map (microphone inputs)).sum) := by
  obtain ⟨n, rest, rfl⟩ := List.exists_cons_of_ne_nil hne
  have hlines := currentLines_map (n :: rest)
  rw [List.map_cons] at h hlines
  rw [earpiece, h]
  dsimp only
  rw [hlines]
  rfl

/-! ### Speakers (R82 to R84) -/

theorem channelAudio_none {p i : Nat} (h : (Table.get ChanRun.cold (v.speaker p).channels i).source = .none) : channelAudio v inputs p i = 0 := by
  rw [channelAudio]
  dsimp only
  rw [h]

theorem channelAudio_line {p i n : Nat} (h : (Table.get ChanRun.cold (v.speaker p).channels i).source = .line n) :
    channelAudio v inputs p i = lineAudio v inputs n := by
  rw [channelAudio]
  dsimp only
  rw [h]

/-- A channel on a bridge: nothing of a disabled bridge, the member mix where its position talks to the bridge, else the bridge's output (R83). -/
theorem channelAudio_bridge {p i b : Nat} (h : (Table.get ChanRun.cold (v.speaker p).channels i).source = .bridge b) :
    ((v.bridge b).applied.enabled = false → channelAudio v inputs p i = 0) ∧
    (∀ m, (v.bridge b).applied.enabled = true → (v.speaker p).ptt = some i → serviceIndex (v.bridge b).applied (.ptt p) = some m →
      channelAudio v inputs p i = memberMix v inputs b m) ∧
    ((v.bridge b).applied.enabled = true → (v.speaker p).ptt ≠ some i ∨ serviceIndex (v.bridge b).applied (.ptt p) = none →
      channelAudio v inputs p i = bridgeOutput v inputs b) := by
  have haudio : channelAudio v inputs p i = if (v.bridge b).applied.enabled = true then
      ((if (v.speaker p).ptt = some i then serviceIndex (v.bridge b).applied (.ptt p) else none).map (memberMix v inputs b)).getD
        (bridgeOutput v inputs b) else 0 := by
    rw [channelAudio]
    dsimp only
    rw [h]
    dsimp only
    cases (if (v.speaker p).ptt = some i then serviceIndex (v.bridge b).applied (.ptt p) else none) <;> rfl
  rw [haudio]
  refine ⟨fun hoff => by simp [hoff], fun m hon htalks hindex => by simp [hon, htalks, hindex], fun hon htalks => ?_⟩
  rcases htalks with hother | hnone
  · simp [hon, hother]
  · simp [hon, hnone]

/-- What a page adds to a position that it reaches: the caller's microphone at the position's page volume (R84). -/
theorem pageSum_eq (p : Nat) {f : Nat → Int}
    (hpage : ∀ c q, (v.call c).caller = some q → f c =
      if (v.call c).state = .paging ∧ (v.position p).reach.getLsbD c = true then scaled (microphone inputs q) (v.position p).pageVolume else 0)
    (hnone : ∀ c, (v.call c).caller = none → f c = 0) : pageSum v inputs p = ((List.range 16).map f).sum := by
  simp only [pageSum]
  congr 1
  refine List.map_congr_left fun c _ => ?_
  cases hcaller : (v.call c).caller with
  | none =>
    rw [hnone c hcaller]
    cases (v.call c).state <;> rfl
  | some q =>
    rw [hpage c q hcaller]
    cases (v.call c).state <;> simp

/-! ### Samples (R78, R85) -/

theorem toSample_toInt {x : Int} (hlow : -32768 ≤ x) (hhigh : x ≤ 32767) : (toSample x).toInt = x := by
  rw [toSample, BitVec.toInt_ofInt]
  exact Int.bmod_eq_of_le (by omega) (by omega)

theorem saturate_bounds (x : Int) : -32768 ≤ saturate x ∧ saturate x ≤ 32767 := by
  unfold saturate
  omega

theorem inputAt_bounds (i : Nat) : -32768 ≤ inputAt inputs i ∧ inputAt inputs i ≤ 32767 := by
  have hlow := BitVec.le_toInt (Table.get 0#16 inputs i)
  have hhigh := BitVec.toInt_lt (x := Table.get 0#16 inputs i)
  unfold inputAt
  omega

/-- An earpiece carries a value of a sample. -/
theorem earpiece_bounds (p : Party) : -32768 ≤ earpiece v inputs p ∧ earpiece v inputs p ≤ 32767 := by
  unfold earpiece
  split
  · omega
  · dsimp only
    split
    · split
      · exact inputAt_bounds inputs _
      · omega
    · omega
  · exact saturate_bounds _

theorem toSample_microphone (q : Party) : toSample (microphone inputs q) = Table.get 0#16 inputs (256 + 2 * q.pos + q.hs) :=
  BitVec.ofInt_toInt

theorem recorderFeed_handset {r q : Nat} (h : Table.get none v.recorders r = some q) (hport : q % 4 < 2) :
    recorderFeed v inputs r = saturate (microphone inputs (portHandset q) + earpiece v inputs (portHandset q)) := by
  rw [recorderFeed, h]
  exact if_pos hport

theorem recorderFeed_speaker {r q : Nat} (h : Table.get none v.recorders r = some q) (hport : ¬q % 4 < 2) :
    recorderFeed v inputs r = speakerMix v inputs (q / 4) (if q % 4 = 2 then .a else .b) := by
  rw [recorderFeed, h]
  exact if_neg hport

/-! ### The highways (R74) -/

theorem outputAt_circuit {c : Nat} (h : c < 256) : outputAt v inputs c = toSample (circuitOutput v inputs c) := by
  rw [outputAt, if_pos h]

theorem outputAt_handset {p : Party} (hpos : p.pos < 32) (hhs : p.hs < 2) : outputAt v inputs (256 + p.place) = toSample (earpiece v inputs p) := by
  have hparty : ({ pos := (256 + p.place - 256) / 2, hs := (256 + p.place) % 2 } : Party) = p := by
    cases p
    simp only [Party.place, Party.mk.injEq] at *
    omega
  rw [outputAt, if_neg (by omega), if_pos (by simp only [Party.place]; omega), hparty]

theorem outputAt_speaker {p : Nat} (m : Mix) (hp : p < 32) :
    outputAt v inputs (320 + 2 * p + if m = .a then 0 else 1) = toSample (speakerMix v inputs p m) := by
  have hplace : ∀ k < 2, outputAt v inputs (320 + 2 * p + k) = toSample (speakerMix v inputs p (if k = 0 then .a else .b)) := fun k hk => by
    have hposition : (320 + 2 * p + k - 320) / 2 = p := by omega
    have hmix : (320 + 2 * p + k) % 2 = k := by omega
    rw [outputAt, if_neg (by omega), if_neg (by omega), if_pos (by omega), hposition, hmix]
  cases m
  · exact hplace 0 (by decide)
  · exact hplace 1 (by decide)

theorem outputAt_recorder (r : Nat) : outputAt v inputs (384 + r) = toSample (recorderFeed v inputs r) := by
  rw [outputAt, if_neg (by omega), if_neg (by omega), if_neg (by omega), Nat.add_sub_cancel_left]

end Mixing

end Sys2Proof.Machine

namespace Sys2Proof.Machine

/-! ## A frame on which the mixer runs (R74 to R91, R136; O10) -/

section FrameMixed

/-- The frame counter has counted one frame (R136). -/
def counted (s : State) : State := { s with frame := s.frame + 1#48 }

/-- What a frame leaves behind: a snapshot of all but the bridges as they were, the bridges' records, and the outputs (R76, R90, R91). -/
structure FrameMixed (s t : State) (inputs : Table Sample) (v : Snapshot) : Prop where
  snapshot : t.mx.snapshot = some v
  rest     : v = { takeSnapshot s with bridges := v.bridges }
  record   : ∀ b, t.bridge b = updateEnergies v inputs b (frameBridge (counted s) b)
  bridge   : ∀ b, v.bridge b = { applied := (s.bridge b).applied, selected := (t.bridge b).selected }
  out      : ∀ i < 512, Table.get 0#16 t.mx.out i = if s.su.draining = true then 0#16 else outputAt v inputs i

theorem frameMixed_runFrame (s : State) (inputs : Table Sample) :
    FrameMixed s (settleQuietly (runFrame (counted s) inputs)) inputs (frameSnapshot (counted s)) where
  snapshot := by rw [settleQuietly_mx]; rfl
  rest := rfl
  record b := by rw [settleQuietly_bridge, runFrame_bridge]
  bridge b := by rw [settleQuietly_bridge, runFrame_bridge, frameSnapshot_bridge]; rfl
  out i hi := by rw [settleQuietly_mx]; exact runFrame_out (counted s) inputs hi

variable {s t : State} {inputs : Table Sample} {v : Snapshot}

/-! ### The snapshot is of the state before the frame -/

theorem FrameMixed.line (h : FrameMixed s t inputs v) (n : Nat) : v.line n =
    { participants := (s.line n).participants, active := (s.line n).active, pathSwitching := (s.line n).pathSwitching } := by
  rw [h.rest]
  exact takeSnapshot_line s n

theorem FrameMixed.circuit (h : FrameMixed s t inputs v) (c : Nat) : v.circuit c = { state := (s.circuit c).state, owner := (s.circuit c).owner } := by
  rw [h.rest]
  exact takeSnapshot_circuit s c

theorem FrameMixed.position (h : FrameMixed s t inputs v) (p : Nat) : v.position p =
    { enabled := (s.position p).applied.enabled, dim := (s.position p).dim, dimCode := (s.position p).applied.dimCode
      pageVolume := (s.position p).applied.pageVolume, reach := (s.position p).reach } := by
  rw [h.rest]
  exact takeSnapshot_position s p

theorem FrameMixed.recorder (h : FrameMixed s t inputs v) (r : Nat) : Table.get none v.recorders r = (s.channel r).holder := by
  rw [h.rest]
  exact takeSnapshot_recorder s r

theorem FrameMixed.handset (h : FrameMixed s t inputs v) (p : Party) : v.handset p = s.handset p := by
  rw [h.rest]
  rfl

theorem FrameMixed.call (h : FrameMixed s t inputs v) (c : Nat) : v.call c = s.call c := by
  rw [h.rest]
  rfl

theorem FrameMixed.speaker (h : FrameMixed s t inputs v) (p : Nat) : v.speaker p = s.speaker p := by
  rw [h.rest]
  rfl

/-! ### Bridges (R89 to R91) -/

theorem FrameMixed.applied (h : FrameMixed s t inputs v) (b : Nat) :
    (t.bridge b).applied = (s.bridge b).applied ∧ (t.bridge b).configRejected = (s.bridge b).configRejected := by
  rw [h.record, ← frameBridges_get]
  exact frameBridges_applied (counted s) b

/-- The selected set after a frame (R91). -/
theorem FrameMixed.selected (h : FrameMixed s t inputs v) (b : Nat) : (t.bridge b).selected =
    if (s.frame + 1#48).toNat % 80 = 0 then (selectTalkers (s.bridge b)).selected else (s.bridge b).selected := by
  rw [h.record]
  exact apply_ite BridgeRec.selected _ _ _

theorem FrameMixed.energy (h : FrameMixed s t inputs v) (b i : Nat) :
    (∀ m, inService (s.bridge b).applied i = some m → Table.get 0 (t.bridge b).energy i =
      Table.get 0 (s.bridge b).energy i - Table.get 0 (s.bridge b).energy i / 32 + min (memberSample v inputs b m.who).natAbs 32767 / 32) ∧
    (inService (s.bridge b).applied i = none → Table.get 0 (t.bridge b).energy i = 0) := by
  have happlied : (frameBridge (counted s) b).applied = (s.bridge b).applied := frameBridge_applied (counted s) b
  have henergy : (frameBridge (counted s) b).energy = (s.bridge b).energy := frameBridge_energy (counted s) b
  rw [h.record, updateEnergies_energy, happlied, henergy]
  exact ⟨fun m hm => by rw [hm]; rfl, fun hnone => by rw [hnone]⟩

theorem FrameMixed.bridgeOutput_eq (h : FrameMixed s t inputs v) (b : Nat) :
    bridgeOutput v inputs b = saturate ((t.bridge b).selected.map (contribution v inputs b)).sum := by
  rw [bridgeOutput, bridgeSum, h.bridge]

theorem FrameMixed.channelAudio_bridge (h : FrameMixed s t inputs v) {p i b : Nat}
    (hsource : (Table.get ChanRun.cold (s.speaker p).channels i).source = .bridge b) :
    ((s.bridge b).applied.enabled = false → channelAudio v inputs p i = 0) ∧
    (∀ m, (s.bridge b).applied.enabled = true → (s.speaker p).ptt = some i → serviceIndex (s.bridge b).applied (.ptt p) = some m →
      channelAudio v inputs p i = memberMix v inputs b m) ∧
    ((s.bridge b).applied.enabled = true → (s.speaker p).ptt ≠ some i ∨ serviceIndex (s.bridge b).applied (.ptt p) = none →
      channelAudio v inputs p i = bridgeOutput v inputs b) := by
  have haudio := Machine.channelAudio_bridge v inputs (p := p) (i := i) (b := b)
  rw [h.speaker, h.bridge] at haudio
  exact haudio hsource

/-! ### Outputs outside a restart drain (R75, R80, R81, R84, R85) -/

theorem FrameMixed.output (h : FrameMixed s t inputs v) (hdrain : s.su.draining = false) {i : Nat} (hi : i < 512) :
    Table.get 0#16 t.mx.out i = outputAt v inputs i := by
  rw [h.out i hi, hdrain]
  rfl

theorem FrameMixed.circuit_idle (h : FrameMixed s t inputs v) (hdrain : s.su.draining = false) {c : Nat} (hc : c < 256)
    (hstate : (s.circuit c).state ≠ .inUse) : Table.get 0#16 t.mx.out c = 0#16 := by
  rw [h.output hdrain (by omega), outputAt_circuit v inputs hc, circuitOutput_idle v inputs (by rw [h.circuit]; exact hstate)]
  rfl

theorem FrameMixed.circuit_inUse (h : FrameMixed s t inputs v) (hdrain : s.su.draining = false) {c n : Nat} (hc : c < 256)
    (hstate : (s.circuit c).state = .inUse) (howner : (s.circuit c).owner = some n) : Table.get 0#16 t.mx.out c = toSample (saturate (
      ((((s.line n).participants.filter fun e => decide (e.mode = .active)).map fun e => microphone inputs e.party).sum +
        ((joinedLines v n).map (lineAudio v inputs)).sum + ((pttTalkers v n).map (pttMicrophone inputs)).sum) +
      ((lineMember v n).map fun x => memberMix v inputs x.1 x.2).getD 0)) := by
  rw [h.output hdrain (by omega), outputAt_circuit v inputs hc, circuitOutput_inUse v inputs (n := n) (by rw [h.circuit]; exact hstate)
    (by rw [h.circuit]; exact howner), circuitSend_eq, h.line]

theorem FrameMixed.lineAudio_eq (h : FrameMixed s t inputs v) {n : Nat} (hnone : lineMember v n = none) :
    (∀ c, (s.line n).active = some c → lineAudio v inputs n =
      if (s.circuit c).state = .inUse ∧ (s.line n).pathSwitching = false then receiveOf inputs c else 0) ∧
    ((s.line n).active = none → lineAudio v inputs n = 0) := by
  rw [lineAudio_of_noMember v inputs hnone, lineReceive, h.line]
  dsimp only
  exact ⟨fun c hc => by rw [hc]; dsimp only; rw [h.circuit], fun hc => by rw [hc]⟩

theorem FrameMixed.handset_output (h : FrameMixed s t inputs v) (hdrain : s.su.draining = false) {p : Party} (hpos : p.pos < 32) (hhs : p.hs < 2) :
    Table.get 0#16 t.mx.out (256 + p.place) = toSample (earpiece v inputs p) := by
  rw [h.output hdrain (by simp only [Party.place]; omega), outputAt_handset v inputs hpos hhs]

theorem FrameMixed.speaker_output (h : FrameMixed s t inputs v) (hdrain : s.su.draining = false) {p : Nat} (m : Mix) (hp : p < 32) :
    Table.get 0#16 t.mx.out (320 + 2 * p + if m = .a then 0 else 1) = toSample (speakerMix v inputs p m) := by
  rw [h.output hdrain (by split <;> omega), outputAt_speaker v inputs m hp]

theorem FrameMixed.mixSum_eq (h : FrameMixed s t inputs v) (p : Nat) (m : Mix) : mixSum v inputs p m = ((List.range 8).map fun i =>
    if (Table.get ChanRun.cold (s.speaker p).channels i).mix = m then
      (channelAudio v inputs p i * gainFactor (Table.get ChanRun.cold (s.speaker p).channels i).volume + 2048) / 4096
    else 0).sum := by
  rw [mixSum, h.speaker]
  rfl

theorem FrameMixed.speakerMix_eq (h : FrameMixed s t inputs v) (p : Nat) (m : Mix) : speakerMix v inputs p m = saturate (
    (if (s.position p).dim = true then (mixSum v inputs p m * gainFactor (s.position p).applied.dimCode + 2048) / 4096
      else mixSum v inputs p m) + if m = .a then pageSum v inputs p else 0) := by
  rw [speakerMix, h.position]
  rfl

/-- A recorder's feed: both directions of its handset, or a copy of its speaker mix (R85). -/
theorem FrameMixed.recorder_output (h : FrameMixed s t inputs v) (hdrain : s.su.draining = false) {r q : Nat} (hr : r < 128) (hq : q < 128)
    (hstate : (s.channel r).state = .assigned q) : Table.get 0#16 t.mx.out (384 + r) =
    if q % 4 < 2 then toSample (saturate ((Table.get 0#16 inputs (256 + 2 * (q / 4) + q % 4)).toInt +
      (Table.get 0#16 t.mx.out (256 + 2 * (q / 4) + q % 4)).toInt))
    else Table.get 0#16 t.mx.out (320 + 2 * (q / 4) + (q % 4 - 2)) := by
  have hholder : Table.get none v.recorders r = some q := by rw [h.recorder, ChannelRec.holder, hstate]
  rw [h.output hdrain (by omega), outputAt_recorder]
  by_cases hport : q % 4 < 2
  · have hearpiece := h.handset_output hdrain (p := portHandset q) (by simp only [portHandset]; omega) (by simpa only [portHandset] using hport)
    have hplace : 256 + (portHandset q).place = 256 + 2 * (q / 4) + q % 4 := by simp only [portHandset, Party.place]; omega
    obtain ⟨hlow, hhigh⟩ := earpiece_bounds v inputs (portHandset q)
    rw [hplace] at hearpiece
    rw [if_pos hport, hearpiece, toSample_toInt hlow hhigh, recorderFeed_handset v inputs hholder hport]
    rfl
  · have hmix := h.speaker_output hdrain (p := q / 4) (if q % 4 = 2 then .a else .b) (by omega)
    have hplace : (if (if q % 4 = 2 then Mix.a else .b) = .a then 0 else 1) = q % 4 - 2 := by
      by_cases hfirst : q % 4 = 2
      · simp [hfirst]
      · rw [if_neg hfirst, if_neg (by decide)]
        omega
    rw [hplace] at hmix
    rw [if_neg hport, hmix, recorderFeed_speaker v inputs hholder hport]

end FrameMixed

/-! ### FRAME_START -/

section FrameStart

variable {s : State} {inputs : Table Sample}

theorem leaves_counted (s : State) : Leaves s (counted s) [.frame] :=
  ⟨rfl, fun b hb => by
    cases b <;> simp [Same, counted] at hb ⊢
    case words => exact fun _ _ => rfl⟩

/-- The outputs of a part that does not mix (R76). -/
def silenced (s : State) : State := { s with mx := { s.mx with out := [] } }

theorem leaves_silenced (s : State) : Leaves s (silenced s) [.mx] := leaves_mixer rfl

theorem frameStart_mixes (hheld : s.bi.held = []) (hruns : mixerRuns s = true) :
    exec (.frameStart inputs) s = .next (settleQuietly (runFrame (counted s) inputs)) := by
  have hexec : exec (.frameStart inputs) s = doneQuietly (if mixerRuns s then runFrame (counted s) inputs else silenced (counted s)) := rfl
  rw [hexec, if_pos hruns]
  exact doneQuietly_of_nothingHeld _ hheld

theorem frameStart_silent (hheld : s.bi.held = []) (hstopped : mixerRuns s = false) :
    exec (.frameStart inputs) s = .next (settleQuietly (silenced (counted s))) := by
  have hexec : exec (.frameStart inputs) s = doneQuietly (if mixerRuns s then runFrame (counted s) inputs else silenced (counted s)) := rfl
  rw [hexec, hstopped]
  exact doneQuietly_of_nothingHeld _ hheld

end FrameStart

/-- Settles O10: where the mixer stands still only the count and the outputs change; where it runs, each clause is read off `FrameMixed`. -/
theorem frameStartMixesOneFrame : Obligations.FrameStartMixesOneFrame := by
  unfold Obligations.FrameStartMixesOneFrame
  intro inputs s hheld
  cases hruns : mixerRuns s with
  | false =>
    have hleaves := ((leaves_counted s).trans (leaves_silenced _)).trans (leaves_settleQuietly _)
    refine ⟨_, frameStart_silent hheld hruns, settleQuietly_frame _, by rw [settleQuietly_mx]; rfl, hleaves.mono (by decide), fun _ => ?_,
      fun h => absurd h (by decide)⟩
    rw [settleQuietly_mx]
    exact ⟨rfl, rfl, rfl⟩
  | true =>
    have hleaves := ((leaves_counted s).trans (leaves_runFrame _ inputs)).trans (leaves_settleQuietly _)
    have hmixed := frameMixed_runFrame s inputs
    have hunselected := frameSnapshot_of_noSelection (counted s)
    refine ⟨_, frameStart_mixes hheld hruns, settleQuietly_frame _, by rw [settleQuietly_mx]; rfl, hleaves.mono (by decide),
      fun h => absurd h (by decide), fun _ => ?_⟩
    generalize settleQuietly (runFrame (counted s) inputs) = t at hmixed
    generalize frameSnapshot (counted s) = v at hmixed hunselected
    refine ⟨hmixed.applied, fun b henabled hframe => ?_, fun b hnot => ?_, v, hmixed.snapshot, hmixed.rest, fun b => ?_, hunselected, hmixed.out,
      fun b i => ?_, fun b i => memberMix_selected v inputs, hmixed.bridgeOutput_eq, fun b i hi => ?_, fun b i m hm => ?_, fun p i => ?_, fun hdrain => ?_⟩
    · rw [hmixed.selected, if_pos hframe]
      exact selectTalkers_spec henabled
    · rw [hmixed.selected]
      by_cases hframe : (s.frame + 1#48).toNat % 80 = 0
      · rw [if_pos hframe, selectTalkers_of_disabled fun henabled => hnot ⟨henabled, hframe⟩]
      · rw [if_neg hframe]
    · rw [hmixed.bridge]
      exact ⟨rfl, rfl⟩
    · obtain ⟨hsome, hnone⟩ := hmixed.energy b i
      split
      · next m hm => exact hsome m hm
      · next hm => exact hnone hm
    · exact memberMix_unselected v inputs (by rwa [hmixed.bridge])
    · exact contribution_inService v inputs (by rwa [hmixed.bridge])
    · split
      · next hsource => exact channelAudio_none v inputs (by rwa [hmixed.speaker])
      · next n hsource => exact channelAudio_line v inputs (by rwa [hmixed.speaker])
      · next b hsource => exact hmixed.channelAudio_bridge hsource
    · refine ⟨fun c hc => hmixed.circuit_idle hdrain hc, fun c hc n hstate howner => ?_, fun n hnone => ?_, fun p hpos hhs hcurrent => ?_,
        fun p ns hpos hhs hne hcurrent => ?_, fun p mix sum pages hp hsum hpages => ?_, fun p q c hpos hhs hcurrent hstate hcaller hanswerer => ?_,
        fun r hr q hq hstate => hmixed.recorder_output hdrain hr hq hstate⟩
      · rw [hmixed.circuit_inUse hdrain hc hstate howner]
        cases lineMember v n <;> rfl
      · obtain ⟨hsome, hidle⟩ := hmixed.lineAudio_eq hnone
        split
        · next c hactive => exact hsome c hactive
        · next hactive => exact hidle hactive
      · rw [hmixed.handset_output hdrain hpos hhs, earpiece_empty v inputs (by rwa [hmixed.handset])]
        rfl
      · refine ⟨otherTalkers v p ns, otherTalkers_nodup v p ns, fun q => ?_, ?_⟩
        · simp only [mem_otherTalkers, hmixed.line]
        · rw [hmixed.handset_output hdrain hpos hhs, earpiece_lines v inputs hne (by rwa [hmixed.handset])]
          rfl
      · have hpageSum : pageSum v inputs p = pages := by
          rw [hpages]
          refine pageSum_eq v inputs p (fun c q hcaller => ?_) fun c hcaller => ?_ <;> rw [hmixed.call] at hcaller
          · rw [hcaller, hmixed.call, hmixed.position]
            rfl
          · rw [hcaller]
        rw [hmixed.speaker_output hdrain mix hp, hmixed.speakerMix_eq, hmixed.mixSum_eq, hpageSum, hsum]
      · rw [hmixed.handset_output hdrain hpos hhs, earpiece_talking v inputs (c := c) (q := q) (by rwa [hmixed.handset])
          (by rwa [hmixed.call]) (by rwa [hmixed.call]) (by rwa [hmixed.call]), toSample_microphone]

end Sys2Proof.Machine
